-- ==== Sys2Proof/Word.lean ====
section
/-! DEFINITION. The byte of the wire and of spool memory, and the plainest arithmetic of the book's conventions
(About This Book, "Numbers and quantities"): division rounded up, and a quantity that stays at the end of its range. -/

namespace Sys2Proof

/-- One byte of a frame or of spool memory. -/
abbrev Byte := BitVec 8

/-- Division of whole numbers rounded up. -/
def ceilDiv (a b : Nat) : Nat := (a + b - 1) / b

/-- A value held within a range, both ends included. -/
def clamp (lo hi n : Nat) : Nat := max lo (min n hi)

end Sys2Proof
end

