-- ==== Sys2Proof/Config.lean ====
section
/-! DEFINITION. The architectural constants of the book, and the free values: the values the book leaves open. A free
value is an opaque constant, so that no proof can see what it is. -/

namespace Sys2Proof.Config

/-- R15: spool memory is 65,536 segments. -/
def segments : Nat := 65536
/-- R13: a segment is 4,096 bytes. -/
def segmentBytes : Nat := 4096

/-- R12: the most data bytes of a JOB_DATA. -/
def dataBytes : Nat := 1400
/-- R9: the intake reserve, in segments. -/
def intakeReserve : Nat := 1024
/-- R16: the largest possible need, in segments. -/
def largestNeed : Nat := 16384
/-- R2: the Job Table holds 1,024 job records. -/
def jobRecords : Nat := 1024
/-- R7: the receiving contexts. -/
def contexts : Nat := 32
/-- R7 step 4: the job records one account may have. -/
def accountJobs : Nat := 64
/-- R11: the receive idle timer, in seconds. -/
def receiveIdleSeconds : Nat := 120
/-- R98: the finish timer, in seconds. -/
def finishSeconds : Nat := 600
/-- R89: a chunk is 1,024 bytes. -/
def chunkBytes : Nat := 1024
/-- R25, R54: the greatest number of points. -/
def maxPoints : Nat := 16777215
/-- R28: the PIN failure that locks the account. -/
def pinLimit : Nat := 5
/-- R25: the accounts. -/
def accounts : Nat := 4096
/-- R83: the Printer Table entries. -/
def printers : Nat := 64
/-- R88: the jobs a Delivery Queue holds. -/
def queueJobs : Nat := 8
/-- R73: the jobs a RELEASE_ALL releases. -/
def releaseLimit : Nat := 8
/-- R70, R73: the jobs a LIST shows, and a RELEASE_ALL examines. -/
def examineLimit : Nat := 16
/-- R110: the greatest score. -/
def maxScore : Nat := 1023
/-- R124: the callout records. -/
def callouts : Nat := 32
/-- R145: the reorder records. -/
def reorders : Nat := 64
/-- R134: the greatest count of faces today. -/
def maxFacesToday : Nat := 65535
/-- R83: the greatest lifetime counter. -/
def maxLifetime : Nat := 4294967295
/-- R166: the references the Store Write Queue holds. -/
def storeQueue : Nat := 64
/-- R180: the notices the Notice Queue holds. -/
def noticeQueue : Nat := 16
/-- R184: the messages an Own-frame Queue holds. -/
def ownQueue : Nat := 32
/-- R184: the bytes of frame a Pass-through Queue holds. -/
def passBytes : Nat := 65536
/-- R185: the outgoing list at which job messages are discarded. -/
def outgoingBusy : Nat := 32
/-- R185: the outgoing list at which a JOB_STATUS is discarded. -/
def outgoingMax : Nat := 4096
/-- R161: the FAULT messages kept. -/
def keptFaults : Nat := 8
/-- R154: the last calendar day. -/
def lastDay : Nat := 65535
/-- R154: the last minute of a day. -/
def lastMinute : Nat := 1439
/-- R153: the last value of uptime. -/
def maxUptime : Nat := 4294967295
/-- R17: the last value of the hold sequence number. -/
def maxHoldSeq : Nat := 4294967295
/-- R164: the slots of the Persistent Store. -/
def slots : Nat := 8730
/-- R186: the FPT header, in bytes. -/
def headerBytes : Nat := 14
/-- R186: the FPT version. -/
def version : Nat := 1

/-- Free value (log 6): what uptime becomes at the minute event after minute 4,294,967,295. R153 gives uptime the range
0 to 4,294,967,295 and does not say what follows its end. -/
opaque uptimePastEnd : Nat → BitVec 32

/-- Free value (log 7): the finite budget that is stored when the budget written is neither Unlimited nor within the
range of R25. R42 neither refuses nor clamps such a budget. The first argument is the number written. -/
opaque budgetPastRange : Nat → Nat → BitVec 24

/-- Free value (log 17): the bytes that carry a list of more than 255 entries. R186 gives a list a 1-byte count. -/
opaque longListBytes : List Nat → List Byte

end Sys2Proof.Config
end

