-- ==== Sys2Proof/Syntax.lean ====
section
/-! DEFINITION. The commands of the part: one constructor of `Instr` for each row of spec/opcode_table.json, with the
operands the row's message or event carries. A message carries its header and, for its body, `some` fields, or `none`
when the body does not fit its kind (R183). -/

namespace Sys2Proof

/-- The two Ethernet ports (R181): the Office Port and the Fleet Port. -/
inductive Port
  | office
  | fleet
deriving DecidableEq, Repr

/-- Media class of a job (R1). -/
inductive Media
  | standard
  | large
deriving DecidableEq, Repr

/-- The four colorants (R134). -/
inductive Colorant
  | k
  | c
  | m
  | y
deriving DecidableEq, Repr

/-- Policy of a Classifier entry (R5). -/
inductive Policy
  | hold
  | direct
  | refuse
deriving DecidableEq, Repr

/-- Cause of a reset (R169, R172). -/
inductive ResetCause
  | power
  | supplyDip
  | console
deriving DecidableEq, Repr

/-- The two causes of a cold start (R169). -/
inductive ColdCause
  | power
  | supplyDip
deriving DecidableEq, Repr

/-- The tables a TABLE_READ may name (R176). -/
inductive TableId
  | settings
  | classifier
  | tariff
  | account
  | printer
  | job
  | callout
  | reorder
deriving DecidableEq, Repr

/-- The tables that accept no TABLE_WRITE (R176). -/
inductive ClosedTable
  | job
  | callout
  | reorder
deriving DecidableEq, Repr

/-- A budget: a number of points, or Unlimited (R25). -/
inductive Budget
  | finite (points : Nat)
  | unlimited
deriving DecidableEq, Repr

/-- The header of an FPT message (R186) with the port it arrived on. Version and kind are the constructor's; the body
length is spent in reading the body. -/
structure Hdr where
  port : Port
  src : Nat
  dst : Nat
  jobTag : Nat
  reqTag : Nat
deriving DecidableEq, Repr

/-- Body of JOB_OPEN (R186; file 01, 1.3). A target of 0 names none. A name of no characters is no name (log 17). -/
structure JobOpenBody where
  account : Nat
  faces : Nat
  colourFaces : Nat
  copies : Nat
  duplex : Bool
  media : Media
  target : Nat
  bytes : Nat
  name : List Byte
deriving DecidableEq, Repr

/-- Body of JOB_DATA (R12). -/
structure JobDataBody where
  offset : Nat
  data : List Byte
deriving DecidableEq, Repr

/-- What a RELEASE_ASK carries beside its request (R62): a badge number and, when the holder entered one, a PIN as its
digits. -/
structure AskBody where
  badge : Nat
  pin : Option (List Nat)
deriving DecidableEq, Repr

/-- Body of PAGE_REPORT (R96). -/
structure PageReportBody where
  mono : Nat
  colour : Nat
  sheets : Nat
  final : Bool
  cancelled : Bool
deriving DecidableEq, Repr

/-- One colorant report of a STATUS (R138). -/
structure ColorantReport where
  colorant : Colorant
  level : Nat
  serial : Option (List Byte)
deriving DecidableEq, Repr

/-- Body of STATUS (R120, R138). -/
structure StatusBody where
  jam : Bool
  mediaOut : Bool
  doorOpen : Bool
  reports : List ColorantReport
deriving DecidableEq, Repr

/-- The writable fields of the Settings entry (R177). The enables hold the notice kinds in the order of 10.5, the first
at bit 0 (R186). -/
structure Settings where
  frameType : Nat
  ownStation : Nat
  noticeStation : Nat
  enables : BitVec 8
  periodLength : Nat
  nextRollDay : Nat
  renotify : Nat
  idleTime : Nat
  checkpoint : Nat
deriving DecidableEq, Repr

/-- A Classifier entry (R5). The Default entry has no valid flag; in it the flag is kept at no and never read. -/
structure ClassEntry where
  valid : Bool
  value : Nat
  mask : Nat
  policy : Policy
  guest : Option Nat
  hold : Nat
  rights : Bool
deriving DecidableEq, Repr

/-- A tariff row (R47). -/
structure Row where
  rm : Nat
  rc : Nat
  ps : Nat
  l : Nat
  jmin : Nat
deriving DecidableEq, Repr

/-- The writable fields of an account record (R25). The PIN is the list of its digits. -/
structure AccountConfig where
  valid : Bool
  number : Nat
  badge : Option Nat
  pin : Option (List Nat)
  cls : Nat
  budget : Budget
  heldCap : Nat
deriving DecidableEq, Repr

/-- The writable fields of a colorant record (R135). -/
structure SupplyFields where
  yield : Nat
  lead : Nat
  floor : Nat
deriving DecidableEq, Repr

/-- Report modes (R83). -/
inductive ReportMode
  | full
  | pages
  | silent
deriving DecidableEq, Repr

/-- The configuration of a Printer Table entry (R164): the writable delivery fields (R83) and health fields (R110). -/
structure PrinterConfig where
  station : Option Nat
  name : Option (List Byte)
  group : Nat
  colourCapable : Bool
  largeCapable : Bool
  band : Nat
  mode : ReportMode
  stallTimeout : Nat
  presenceInterval : Nat
  standingLimit : Nat
deriving DecidableEq, Repr

/-- The fields a TABLE_WRITE of a Printer Table entry carries (R84, R111, R135). `modeKnown` says that the
report mode carried is FULL, PAGES or SILENT; when it is no, R84 refuses the write and `cfg.mode` is not read. -/
structure PrinterFields where
  cfg : PrinterConfig
  modeKnown : Bool
  k : SupplyFields
  c : SupplyFields
  m : SupplyFields
  y : SupplyFields
deriving DecidableEq, Repr

/-- A frame of an Ethernet type other than FPT's: its type and its bytes, the whole frame (R181, R184). -/
structure EthFrame where
  etherType : Nat
  bytes : List Byte
deriving DecidableEq, Repr

/-- The commands. Every constructor is a row of spec/opcode_table.json. -/
inductive Instr
  -- Job messages (file 01)
  | jobOpen (h : Hdr) (b : Option JobOpenBody)
  | jobData (h : Hdr) (b : Option JobDataBody)
  | jobClose (h : Hdr) (total : Option Nat)
  | jobCancel (h : Hdr) (fit : Bool)
  | receiveIdleExpiry (context : Nat)
  -- Panel requests (file 04)
  | list (h : Hdr) (b : Option AskBody)
  | releaseAll (h : Hdr) (b : Option AskBody)
  | releaseOne (h : Hdr) (b : Option AskBody)
  | deleteOne (h : Hdr) (b : Option AskBody)
  -- Printer messages (files 05, 06, 07)
  | grant (h : Hdr) (chunks : Option Nat)
  | pageReport (h : Hdr) (b : Option PageReportBody)
  | status (h : Hdr) (b : Option StatusBody)
  | fault (h : Hdr) (kind : Option Nat)
  -- Timer expiries
  | stallTimerExpiry (printer : Nat)
  | finishTimerExpiry (tag : Nat)
  | presenceTimerExpiry (printer : Nat)
  | standingLimitExpiry (printer : Nat)
  | renotifyTimerExpiry (record : Nat)
  -- Fleet Clock and standby (file 08)
  | minuteEvent
  | hourEvent
  | calendarMidnight
  | idleTimerExpiry
  | storeDrainComplete
  | wakeCompletion
  -- Persistent Store, start-up and restart (file 09)
  | checkpointTimerExpiry
  | programOperationComplete
  | restartComplete
  | powerLoss
  | coldStart (cause : ColdCause)
  | startUpComplete
  -- Ports (file 11; files 05 and 10 for what is placed)
  | passThroughFrame (port : Port) (f : EthFrame)
  | fptDiscard (port : Port) (payload : List Byte)
  | frameTransmit (port : Port)
  | jobOutgoingPlace
  | mgmtReplyPlace
  | noticeSend
  | releaseAnswerPlace
  | streamControlPlace (printer : Nat)
  | streamData (printer : Nat)
  | streamEnd (printer : Nat)
  -- Tables (file 10)
  | tableRead (h : Hdr) (b : Option (TableId × Nat))
  | settingsWrite (h : Hdr) (b : Option (Nat × Settings))
  | classifierWrite (h : Hdr) (b : Option (Nat × ClassEntry))
  | tariffWrite (h : Hdr) (b : Option (Nat × Row))
  | accountWrite (h : Hdr) (b : Option (Nat × AccountConfig))
  | printerWrite (h : Hdr) (b : Option (Nat × PrinterFields))
  | tableWrite (h : Hdr) (b : Option (ClosedTable × Nat))
  | query (h : Hdr) (clear : Option Bool)
  -- Console commands (file 10, 10.3)
  | rollPeriod (h : Hdr) (fit : Bool)
  | forceRoll (h : Hdr) (fit : Bool)
  | setClock (h : Hdr) (b : Option (Nat × Nat))
  | standby (h : Hdr) (fit : Bool)
  | restart (h : Hdr) (fit : Bool)
  | checkpoint (h : Hdr) (fit : Bool)
  | park (h : Hdr) (printer : Option Nat)
  | unpark (h : Hdr) (printer : Option Nat)
  | parkNow (h : Hdr) (printer : Option Nat)
  | withdraw (h : Hdr) (printer : Option Nat)
  | reinstate (h : Hdr) (printer : Option Nat)
  | ackCallout (h : Hdr) (printer : Option Nat)
  | closeCallout (h : Hdr) (printer : Option Nat)
  | confirmOrder (h : Hdr) (b : Option (Nat × Colorant))
  | cancelOrder (h : Hdr) (b : Option (Nat × Colorant))
  | cartridgeReplaced (h : Hdr) (b : Option (Nat × Colorant))
  | adjustAccount (h : Hdr) (b : Option (Nat × Int))
  | unlockAccount (h : Hdr) (account : Option Nat)
  | suspend (h : Hdr) (account : Option Nat)
  | resume (h : Hdr) (account : Option Nat)
  | purgeJob (h : Hdr) (tag : Option Nat)
  -- Requests that name nothing defined
  | unknownReleaseRequest (h : Hdr) (b : Option AskBody)
  | unknownMgmtRequest (h : Hdr) (fit : Bool)
deriving DecidableEq, Repr

end Sys2Proof
end

