-- ==== Sys2Proof/Decode.lean ====
section
/-! DEFINITION. From the wire to commands. The opcode table gives its rows no bits, so no word spells a command. A frame does:
`frameCommand` reads the command a received frame stands for (R181 to R183, R186). The choices R186 leaves open are those
of log 17, 22 and 32. -/

namespace Sys2Proof

/-- The command that a word spells by the table's bits: none, since no row of spec/opcode_table.json gives bits. -/
def decodeTableWord (_nbits _w : Nat) : Option Instr := none

/-! ### Fields (R186) -/

/-- The value of bytes, most significant first. -/
def valueOf (l : List Byte) : Nat := l.foldl (fun n b => n * 256 + b.toNat) 0

/-- The bytes of a message body still to be read, and a value read from them; none when the body does not fit. -/
abbrev Reading (α : Type) := Option (α × List Byte)

/-- A number of `n` bytes. -/
def readNumber (n : Nat) (l : List Byte) : Reading Nat :=
  if n ≤ l.length then some (valueOf (l.take n), l.drop n) else none

/-- A yes/no field. -/
def readFlag (l : List Byte) : Reading Bool :=
  match readNumber 1 l with
  | some (0, r) => some (false, r)
  | some (1, r) => some (true, r)
  | _ => none

/-- A coded field, by the list of its values. -/
def readCoded {α : Type} (values : List α) (l : List Byte) : Reading α :=
  match readNumber 1 l with
  | some (c, r) => (values[c]?).map (fun v => (v, r))
  | none => none

/-- An optional number of `n` bytes: an absent one is carried as 0 and not read. -/
def readOptional (n : Nat) (l : List Byte) : Reading (Option Nat) :=
  match readFlag l with
  | none => none
  | some (present, r) => (readNumber n r).map (fun x => (if present then some x.1 else none, x.2))

/-- Characters after their length byte. -/
def readText (l : List Byte) : Reading (List Byte) :=
  match readNumber 1 l with
  | none => none
  | some (n, r) => if n ≤ r.length then some (r.take n, r.drop n) else none

/-- An optional text. -/
def readOptText (l : List Byte) : Reading (Option (List Byte)) :=
  match readFlag l with
  | none => none
  | some (present, r) => (readText r).map (fun x => (if present then some x.1 else none, x.2))

/-- The value read when it takes the whole body. -/
def whole {α : Type} : Reading α → Option α
  | some (x, []) => some x
  | _ => none

/-- R186: a decimal digit carried as a character; a byte that is none gives a number above 9 (log 21). -/
def digitOf (b : Byte) : Nat := if 0x30 ≤ b.toNat ∧ b.toNat ≤ 0x39 then b.toNat - 0x30 else b.toNat + 10

/-- The media classes, by code. -/
def mediaCodes : List Media := [.standard, .large]

/-- The colorants, by code. -/
def colorantCodes : List Colorant := [.k, .c, .m, .y]

/-! ### Bodies (R183, R186) -/

/-- JOB_OPEN. -/
def readJobOpen (l : List Byte) : Option JobOpenBody := do
  let (account, l) ← readNumber 3 l
  let (faces, l) ← readNumber 2 l
  let (colourFaces, l) ← readNumber 2 l
  let (copies, l) ← readNumber 1 l
  let (duplex, l) ← readFlag l
  let (media, l) ← readCoded mediaCodes l
  let (target, l) ← readNumber 3 l
  let (bytes, l) ← readNumber 4 l
  let name ← whole (readText l)
  if name.length ≤ 40 then
    some { account := account, faces := faces, colourFaces := colourFaces, copies := copies, duplex := duplex
           media := media, target := target, bytes := bytes, name := name }
  else none

/-- JOB_DATA. -/
def readJobData (l : List Byte) : Option JobDataBody := do
  let (offset, data) ← readNumber 4 l
  if 1 ≤ data.length ∧ data.length ≤ 1400 then some { offset := offset, data := data } else none

/-- RELEASE_ASK, with the byte of its request. -/
def readAsk (l : List Byte) : Option (AskBody × Nat) := do
  let (badge, l) ← readNumber 4 l
  let (n, l) ← readNumber 1 l
  let digits := ((l.take 8).take n).map digitOf
  let request ← whole (readNumber 1 (l.drop 8))
  if n = 0 then some ({ badge := badge, pin := none }, request)
  else if 4 ≤ n ∧ n ≤ 8 ∧ digits.all (fun d => decide (d ≤ 9)) then some ({ badge := badge, pin := some digits }, request)
  else none

/-- PAGE_REPORT. -/
def readPageReport (l : List Byte) : Option PageReportBody := do
  let (mono, l) ← readNumber 3 l
  let (colour, l) ← readNumber 3 l
  let (sheets, l) ← readNumber 3 l
  let flags ← whole (readNumber 1 l)
  if flags < 4 then
    some { mono := mono, colour := colour, sheets := sheets, final := flags % 2 == 1, cancelled := flags / 2 == 1 }
  else none

/-- The colorant reports of a STATUS. -/
def readReports : Nat → List Byte → Option (List ColorantReport × List Byte)
  | 0, l => some ([], l)
  | n + 1, l => do
    let (col, l) ← readCoded colorantCodes l
    let (level, l) ← readNumber 2 l
    let (serial, l) ← readText l
    let (rest, l) ← readReports n l
    if serial.length ≤ 16 ∧ rest.all (fun r => decide (r.colorant ≠ col)) then
      some ({ colorant := col, level := level, serial := if serial.isEmpty then none else some serial } :: rest, l)
    else none

/-- STATUS. -/
def readStatus (l : List Byte) : Option StatusBody := do
  let (flags, l) ← readNumber 1 l
  let (n, l) ← readNumber 1 l
  let reports ← whole (readReports (min n 5) l)
  if flags < 8 ∧ n ≤ 4 then
    some { jam := flags % 2 == 1, mediaOut := flags / 2 % 2 == 1, doorOpen := flags / 4 == 1, reports := reports }
  else none

/-! ### Field blocks of writes (R177, R5, R47, R25, R83, R110, R134) -/

/-- The Settings block. -/
def readSettings (l : List Byte) : Option Settings := do
  let (frameType, l) ← readNumber 2 l
  let (own, l) ← readNumber 3 l
  let (notice, l) ← readNumber 3 l
  let (enables, l) ← readNumber 1 l
  let (length, l) ← readNumber 1 l
  let (day, l) ← readNumber 3 l
  let (renotify, l) ← readNumber 1 l
  let (idle, l) ← readNumber 1 l
  let checkpoint ← whole (readNumber 1 l)
  some { frameType := frameType, ownStation := own, noticeStation := notice, enables := BitVec.ofNat 8 enables
         periodLength := length, nextRollDay := day, renotify := renotify, idleTime := idle, checkpoint := checkpoint }

/-- The Classifier block. -/
def readClassEntry (l : List Byte) : Option ClassEntry := do
  let (valid, l) ← readFlag l
  let (value, l) ← readNumber 3 l
  let (mask, l) ← readNumber 3 l
  let (policy, l) ← readCoded [Policy.hold, .direct, .refuse] l
  let (guest, l) ← readOptional 2 l
  let (hold, l) ← readNumber 1 l
  let rights ← whole (readFlag l)
  some { valid := valid, value := value, mask := mask, policy := policy, guest := guest, hold := hold, rights := rights }

/-- The Tariff block. -/
def readRow (l : List Byte) : Option Row := do
  let (rm, l) ← readNumber 2 l
  let (rc, l) ← readNumber 2 l
  let (ps, l) ← readNumber 2 l
  let (scale, l) ← readNumber 1 l
  let jmin ← whole (readNumber 1 l)
  some { rm := rm, rc := rc, ps := ps, l := scale, jmin := jmin }

/-- A PIN in a write: a length byte, 0 for absent, and 8 bytes of digits. A length above 8 is kept, for R42 to refuse. -/
def readPin (l : List Byte) : Option (Option (List Nat) × List Byte) := do
  let (n, l) ← readNumber 1 l
  if 8 ≤ l.length then
    some (if n = 0 then none else some (((l.take 8).take n).map digitOf ++ List.replicate (n - 8) 0), l.drop 8)
  else none

/-- The Account block. -/
def readAccount (l : List Byte) : Option AccountConfig := do
  let (valid, l) ← readFlag l
  let (number, l) ← readNumber 3 l
  let (badge, l) ← readOptional 4 l
  let (pin, l) ← readPin l
  let (cls, l) ← readNumber 1 l
  let (budget, l) ← readNumber 4 l
  let cap ← whole (readNumber 1 l)
  some { valid := valid, number := number, badge := badge, pin := pin, cls := cls
         budget := if budget = 0xFFFFFFFF then .unlimited else .finite budget, heldCap := cap }

/-- The writable fields of one colorant. -/
def readSupply (l : List Byte) : Option (SupplyFields × List Byte) := do
  let (yield, l) ← readNumber 3 l
  let (lead, l) ← readNumber 1 l
  let (floor, l) ← readNumber 2 l
  some ({ yield := yield, lead := lead, floor := floor }, l)

/-- The Printer block: the delivery fields, the health fields, and the four colorants. -/
def readPrinter (l : List Byte) : Option PrinterFields := do
  let (station, l) ← readOptional 3 l
  let (name, l) ← readOptText l
  let (group, l) ← readNumber 1 l
  let (colour, l) ← readFlag l
  let (large, l) ← readFlag l
  let (band, l) ← readNumber 1 l
  let (mode, l) ← readNumber 1 l
  let (stall, l) ← readNumber 2 l
  let (presence, l) ← readNumber 1 l
  let (standing, l) ← readNumber 1 l
  let (k, l) ← readSupply l
  let (c, l) ← readSupply l
  let (m, l) ← readSupply l
  let y ← whole (readSupply l)
  some { cfg := { station := station, name := name, group := group, colourCapable := colour, largeCapable := large
                  band := band, mode := ([ReportMode.full, .pages, .silent][mode]?).getD .full, stallTimeout := stall
                  presenceInterval := presence, standingLimit := standing }
         modeKnown := decide (mode < 3), k := k, c := c, m := m, y := y }

/-! ### Requests of the console (R174, R186) -/

/-- A command that carries no operand. -/
def emptyFit (l : List Byte) : Bool := l.isEmpty

/-- A printer index and a colorant. -/
def readColorant (l : List Byte) : Option (Nat × Colorant) := do
  let (p, l) ← readNumber 1 l
  let col ← whole (readCoded colorantCodes l)
  some (p, col)

/-- A day and a minute. -/
def readClock (l : List Byte) : Option (Nat × Nat) := do
  let (d, l) ← readNumber 2 l
  let m ← whole (readNumber 2 l)
  some (d, m)

/-- An account index and a signed amount in two's complement. -/
def readAdjust (l : List Byte) : Option (Nat × Int) := do
  let (k, l) ← readNumber 2 l
  let v ← whole (readNumber 4 l)
  some (k, (BitVec.ofNat 32 v).toInt)

/-- R186: the command of a COMMAND request, by its code in the order of the table of 10.3, and its operands. -/
def readCommand (h : Hdr) (l : List Byte) : Instr :=
  match readNumber 1 l with
  | none => .unknownMgmtRequest h false
  | some (code, r) =>
    match code with
    | 0 => .rollPeriod h (emptyFit r)
    | 1 => .forceRoll h (emptyFit r)
    | 2 => .setClock h (readClock r)
    | 3 => .standby h (emptyFit r)
    | 4 => .restart h (emptyFit r)
    | 5 => .checkpoint h (emptyFit r)
    | 6 => .park h (whole (readNumber 1 r))
    | 7 => .unpark h (whole (readNumber 1 r))
    | 8 => .parkNow h (whole (readNumber 1 r))
    | 9 => .withdraw h (whole (readNumber 1 r))
    | 10 => .reinstate h (whole (readNumber 1 r))
    | 11 => .ackCallout h (whole (readNumber 1 r))
    | 12 => .closeCallout h (whole (readNumber 1 r))
    | 13 => .confirmOrder h (readColorant r)
    | 14 => .cancelOrder h (readColorant r)
    | 15 => .cartridgeReplaced h (readColorant r)
    | 16 => .adjustAccount h (readAdjust r)
    | 17 => .unlockAccount h (whole (readNumber 2 r))
    | 18 => .suspend h (whole (readNumber 2 r))
    | 19 => .resume h (whole (readNumber 2 r))
    | 20 => .purgeJob h (whole (readNumber 2 r))
    | _ => .unknownMgmtRequest h true

/-- R176: the tables, by id. -/
def tableCodes : List TableId := [.settings, .classifier, .tariff, .account, .printer, .job, .callout, .reorder]

/-- An index beside the fields of a write. -/
def atIndex {α : Type} (i : Nat) (f : Option α) : Option (Nat × α) := f.map (fun x => (i, x))

/-- A TABLE_WRITE, by the table it names. A table that accepts no write has no writable fields, so its block is empty. -/
def readWrite (h : Hdr) (i : Nat) (l : List Byte) : TableId → Instr
  | .settings => .settingsWrite h (atIndex i (readSettings l))
  | .classifier => .classifierWrite h (atIndex i (readClassEntry l))
  | .tariff => .tariffWrite h (atIndex i (readRow l))
  | .account => .accountWrite h (atIndex i (readAccount l))
  | .printer => .printerWrite h (atIndex i (readPrinter l))
  | .job => .tableWrite h (if l.isEmpty then some (.job, i) else none)
  | .callout => .tableWrite h (if l.isEmpty then some (.callout, i) else none)
  | .reorder => .tableWrite h (if l.isEmpty then some (.reorder, i) else none)

/-- MGMT_REQUEST, by its request kind, table id, entry index and what follows. -/
def readRequest (h : Hdr) (kind : Nat) (table : Option TableId) (index : Nat) (r : List Byte) : Option Instr :=
  match kind, table with
  | 0, some t => some (.tableRead h (if r.isEmpty then some (t, index) else none))
  | 1, some t => some (readWrite h index r t)
  | 2, _ => some (readCommand h r)
  | 3, _ => some (.query h (whole (readFlag r)))
  | _, _ => none

/-- MGMT_REQUEST (R183): one of fewer than 4 bytes, or of more than 1,400, does not fit its kind; one whose request kind or
table id is undefined is tested for its 4 bytes alone. -/
def readMgmt (h : Hdr) (l : List Byte) : Instr :=
  if l.length < 4 then .unknownMgmtRequest h false
  else
    match readRequest h (valueOf (l.take 1)) (tableCodes[valueOf ((l.drop 1).take 1)]?) (valueOf ((l.drop 2).take 2))
        (l.drop 4) with
    | none => .unknownMgmtRequest h true
    | some i => if 1400 < l.length then .unknownMgmtRequest h false else i

/-! ### Frames (R181, R182) -/

/-- A RELEASE_ASK, by its request; one that does not fit its kind is named by no request. -/
def readRelease (h : Hdr) (l : List Byte) : Instr :=
  match readAsk l with
  | none => .unknownReleaseRequest h none
  | some (ask, 0) => .list h (some ask)
  | some (ask, 1) => .releaseAll h (some ask)
  | some (ask, 2) => .releaseOne h (some ask)
  | some (ask, 3) => .deleteOne h (some ask)
  | some (ask, _) => .unknownReleaseRequest h (some ask)

/-- R182, R186: the command of an FPT message by its kind code, or none for a kind that its port does not accept. `body` is
none when the header's body length is greater than the bytes carried. -/
def messageCommand (h : Hdr) (kind : Nat) (body : Option (List Byte)) : Option Instr :=
  match h.port, kind with
  | .office, 0x10 => some (.jobOpen h (body.bind readJobOpen))
  | .office, 0x11 => some (.jobData h (body.bind readJobData))
  | .office, 0x12 => some (.jobClose h (body.bind (fun l => whole (readNumber 4 l))))
  | .office, 0x13 => some (.jobCancel h (body == some []))
  | .office, 0x40 => some (match body with
      | some l => readMgmt h l
      | none => .unknownMgmtRequest h false)
  | .fleet, 0x20 => some (match body with
      | some l => readRelease h l
      | none => .unknownReleaseRequest h none)
  | .fleet, 0x38 => some (.grant h (body.bind (fun l => whole (readNumber 4 l))))
  | .fleet, 0x39 => some (.pageReport h (body.bind readPageReport))
  | .fleet, 0x3A => some (.status h (body.bind readStatus))
  | .fleet, 0x3B => some (.fault h (body.bind (fun l => whole (readNumber 1 l))))
  | _, _ => none

/-- The header of a payload that carries one, with its kind code and body (R186). Bytes after the body are ignored (R181). -/
def readHeader (port : Port) (payload : List Byte) : Hdr × Nat × Option (List Byte) :=
  let n := valueOf ((payload.drop 12).take 2)
  let rest := payload.drop Config.headerBytes
  ({ port := port, src := valueOf ((payload.drop 2).take 3), dst := valueOf ((payload.drop 5).take 3)
     jobTag := valueOf ((payload.drop 8).take 2), reqTag := valueOf ((payload.drop 10).take 2) },
   valueOf ((payload.drop 1).take 1), if n ≤ rest.length then some (rest.take n) else none)

/-- The bytes that an Ethernet frame carries after its addresses and its type (log 32). -/
def EthFrame.payload (f : EthFrame) : List Byte := f.bytes.drop 14

/-- R181: the command a received frame stands for, under the frame type of the settings. -/
def frameCommand (frameType : Nat) (port : Port) (f : EthFrame) : Instr :=
  if f.etherType ≠ frameType then .passThroughFrame port f
  else if f.payload.length < Config.headerBytes ∨ valueOf (f.payload.take 1) ≠ Config.version then
    .fptDiscard port f.payload
  else
    let r := readHeader port f.payload
    (messageCommand r.1 r.2.1 r.2.2).getD (.fptDiscard port f.payload)

end Sys2Proof
end

