-- ==== Sys2Proof/Machine/Factory.lean ====
section
/-! DEFINITION. The factory values of the settings, the Classifier Table, the Tariff Table and the account
configuration (R6, R25, R47, R170). -/

namespace Sys2Proof

/-- R170: the factory settings. Every notice kind is enabled. -/
def Settings.factory : Settings :=
  { frameType := 0xB7C4, ownStation := 0, noticeStation := 0, enables := 0xFF#8, periodLength := 30, nextRollDay := 0
    renotify := 30, idleTime := 60, checkpoint := 15 }

/-- R6: the factory state of entries 0 to 23. -/
def ClassEntry.factory : ClassEntry :=
  { valid := false, value := 0, mask := 0, policy := .refuse, guest := none, hold := 24, rights := false }

/-- R6: the factory Default. -/
def ClassEntry.factoryDefault : ClassEntry := { ClassEntry.factory with rights := true }

/-- R47: the factory state of a tariff row. -/
def Row.factory : Row := { rm := 0, rc := 0, ps := 0, l := 16, jmin := 0 }

/-- R25: the writable fields of an account in its factory state. -/
def AccountConfig.factory : AccountConfig :=
  { valid := false, number := 1, badge := none, pin := none, cls := 0, budget := .finite 0, heldCap := 16 }

/-- R134: the creation values of a colorant's writable fields. -/
def SupplyFields.factory : SupplyFields := { yield := 10000, lead := 14, floor := 100 }

end Sys2Proof
end

