-- ==== Sys2Proof/Machine/Table.lean ====
section
/-! DEFINITION. A table of records addressed by index, kept as the list of its entries that differ from the table's
factory record, indexes strictly rising (log 25). Two equal tables are equal data. -/

namespace Sys2Proof.Machine

/-- A table: the entries that differ from the factory record, by rising index. -/
abbrev Tbl (α : Type) := List (Nat × α)

variable {α : Type}

/-- The record at an index: the listed one, or else the factory record `d`. -/
def Tbl.get (d : α) : Tbl α → Nat → α
  | [], _ => d
  | (k, v) :: t, i => if k = i then v else Tbl.get d t i

/-- Insert an entry where the indexes stay rising. -/
def Tbl.insert (i : Nat) (v : α) : Tbl α → Tbl α
  | [] => [(i, v)]
  | (k, w) :: t => if i < k then (i, v) :: (k, w) :: t else (k, w) :: Tbl.insert i v t

/-- Remove the entry of an index. -/
def Tbl.erase (t : Tbl α) (i : Nat) : Tbl α := t.filter (fun e => e.1 ≠ i)

/-- Replace the record at an index. -/
def Tbl.put [DecidableEq α] (d : α) (t : Tbl α) (i : Nat) (v : α) : Tbl α :=
  if v = d then t.erase i else Tbl.insert i v (t.erase i)

/-- Replace every listed record by its image under `f`, which leaves the factory record as it is. -/
def Tbl.mapAll [DecidableEq α] (d : α) (f : α → α) (t : Tbl α) : Tbl α :=
  (t.map (fun e => (e.1, f e.2))).filter (fun e => e.2 ≠ d)

/-- The indexes of the listed records that pass a test, rising. -/
def Tbl.indexesWhere (p : α → Bool) (t : Tbl α) : List Nat := (t.filter (fun e => p e.2)).map Prod.fst

/-- The table whose record at each of the indexes is given, every other record being the factory one. -/
def Tbl.build [DecidableEq α] (d : α) (f : Nat → α) (is : List Nat) : Tbl α :=
  is.foldl (fun t i => t.put d i (f i)) []

/-- The canonical form: indexes strictly rising, and no entry equal to the factory record. -/
def Tbl.wf [DecidableEq α] (d : α) (t : Tbl α) : Bool :=
  decide ((t.map Prod.fst).Pairwise (· < ·)) && t.all (fun e => e.2 ≠ d)

end Sys2Proof.Machine
end

