-- ==== Sys2Proof/Machine/State.lean ====
section
/-! DEFINITION. The state of the part, block by block, and its value right after reset. Every field cites the rule that
names it. Messages that the part forms are data here too, since its queues hold them. -/

namespace Sys2Proof.Machine

/-- A timer (R153): stopped, running, or suspended. It carries the duration it was last started from; the time that has
passed is not modelled, and its expiry is a command (log 2). -/
inductive Timer
  | stopped
  | running (full : Nat)
  | suspended (full : Nat)
deriving DecidableEq, Repr

/-! ### Jobs (file 01) -/

/-- States of a job (R1). -/
inductive JobState
  | receiving
  | held
  | released
  | printing
  | finishing
deriving DecidableEq, Repr

/-- End reasons, in the order of R1. -/
inductive EndReason
  | printed
  | printerCancelled
  | userCancelled
  | expired
  | purged
  | abandoned
  | refused
deriving DecidableEq, Repr

/-- Three totals: mono faces, colour faces, sheets (R1, R52). -/
structure Counts where
  tm : Nat
  tc : Nat
  ts : Nat
deriving DecidableEq, Repr

/-- Stored rates of a job and their row (R1, R55). -/
structure StoredRates where
  row : Row
  band : Nat
  cls : Nat
deriving DecidableEq, Repr

/-- A job record (R1). `hit` is the Classifier entry, 24 for DEFAULT. `finish` is the finish timer of R98. The colour
field and the end reason are not held apart: the first is Tc > 0, and the second is given as the record leaves. -/
structure Job where
  tag : Nat
  origin : Nat
  account : Nat
  hit : Nat
  declaredCounts : Counts
  media : Media
  target : Option Nat
  name : Option (List Byte)
  declared : Nat
  received : Nat
  chain : List Nat
  promise : Nat
  stamp : Option (Nat × Nat)
  expiry : Option Nat
  state : JobState
  rates : Option StoredRates
  reservation : Option Nat
  charged : Option Nat
  reported : Option Counts
  sent : Nat
  allowed : Nat
  interrupted : Bool
  finish : Timer
deriving DecidableEq, Repr

/-- A receiving context in use: the tag of its job and the receive idle timer (file 01, 1.4; R11). -/
structure Context where
  tag : Nat
  idle : Timer
deriving DecidableEq, Repr

/-! ### Accounts (file 02) -/

/-- States of an account (R25). -/
inductive AccountState
  | isOpen
  | locked
  | suspended
deriving DecidableEq, Repr

/-- An account record (R25): its writable fields, its balance, and its runtime state. The held count is the length of the
Held List (R37). -/
structure Account where
  cfg : AccountConfig
  spent : Nat
  state : AccountState
  failures : Nat
  reserved : Nat
  overdrawn : Bool
  held : List Nat
deriving DecidableEq, Repr

/-! ### Printers (files 05, 06, 07) -/

/-- Service states (R85). -/
inductive Service
  | unused
  | parked
  | inService
  | parking
deriving DecidableEq, Repr

/-- Health states (R116). -/
inductive Health
  | active
  | watch
  | degraded
  | withdrawn
deriving DecidableEq, Repr

/-- The kinds of fault of R113, in its order. -/
inductive FaultKind
  | jam
  | mediaOut
  | doorOpen
  | engine
  | supplyFault
  | streamError
  | stall
  | reportMissing
deriving DecidableEq, Repr

/-- The standing set (R110): which conditions are members. -/
structure Standing where
  jam : Bool
  mediaOut : Bool
  doorOpen : Bool
  unreachable : Bool
deriving DecidableEq, Repr

/-- Kinds of callout, lowest rank first (R124). -/
inductive CalloutKind
  | attention
  | service
  | urgent
deriving DecidableEq, Repr

/-- Causes of a callout (R124). -/
inductive CalloutCause
  | standingLimit (members : Standing)
  | degraded
  | withdrawn
deriving DecidableEq, Repr

/-- An open callout record (R124) with its renotify timer (R126). -/
structure Callout where
  printer : Nat
  kind : CalloutKind
  acknowledged : Bool
  opened : Nat
  count : Nat
  cause : CalloutCause
  timer : Timer
deriving DecidableEq, Repr

/-- A colorant record (R134). -/
structure Supply where
  cfg : SupplyFields
  remaining : Nat
  empty : Bool
  serial : Option (List Byte)
  today : Nat
  usage : Nat
  armed : Bool
  owed : Bool
deriving DecidableEq, Repr

/-- An open reorder record (R145). -/
structure Reorder where
  printer : Nat
  colorant : Colorant
  confirmed : Bool
  openedDay : Option Nat
  level : Nat
  days : Option Nat
deriving DecidableEq, Repr

/-! ### Messages the part forms (files 04, 05, 10, 11) -/

/-- Result codes (R186). -/
inductive Result
  | ok
  | busy
  | notAccepted
  | unknownAccount
  | accountBlocked
  | holdLimit
  | spoolLow
  | tooLarge
  | emptyJob
  | outOfOrder
  | noSuchJob
  | tooLate
  | authFailed
  | waking
  | notPermitted
  | badIndex
  | entryLocked
  | unknownRequest
  | badLength
deriving DecidableEq, Repr

/-- Events of a JOB_STATUS (R4). -/
inductive JobEvent
  | held
  | released
  | printing
  | ended
deriving DecidableEq, Repr

/-- Outcomes of an entry of a RELEASE_ANSWER (R63). -/
inductive Fate
  | released
  | skippedQuota
  | skippedCapability
  | skippedQueue
  | deleted
deriving DecidableEq, Repr

/-- One entry of a RELEASE_ANSWER (R63). -/
structure AnswerEntry where
  tag : Nat
  name : Option (List Byte)
  faces : Nat
  colour : Bool
  price : Nat
  fate : Fate
deriving DecidableEq, Repr

/-- Notice kinds in the order of 10.5. -/
inductive NoticeKind
  | started
  | spoolLow
  | accountLocked
  | accountOverdrawn
  | periodRolled
  | healthChange
  | callout
  | reorder
deriving DecidableEq, Repr

/-- Reasons of a closing (R128, R129, R130, R136, R149). -/
inductive CloseReason
  | recovered
  | console
  | entryRemoved
  | entryChanged
deriving DecidableEq, Repr

/-- Details of a CALLOUT notice (R125 to R130). -/
inductive CalloutDetail
  | opened
  | upgraded
  | renotified
  | escalated
  | closed (reason : CloseReason)
deriving DecidableEq, Repr

/-- Details of a REORDER notice (R145 to R150). -/
inductive ReorderDetail
  | opened
  | renotified
  | fulfilled
  | closed (reason : CloseReason)
deriving DecidableEq, Repr

/-- A notice with its subject and what its forming rule names (10.5). -/
inductive Notice
  | started (cause : ResetCause) (conservative : Nat)
  | spoolLow (entered : Bool)
  | accountLocked (account : Nat)
  | accountOverdrawn (account spent : Nat) (budget : Budget)
  | periodRolled (nextRollDay : Nat)
  | healthChange (printer : Nat) (old new : Health) (score : Nat)
  | callout (index : Nat) (record : Callout) (detail : CalloutDetail)
  | reorder (index : Nat) (record : Reorder) (current : Nat) (detail : ReorderDetail)
deriving DecidableEq, Repr

/-- Attention conditions in rank order (R178). -/
inductive Attention
  | urgentUnack
  | storeRestored
  | serviceUnack
  | spoolLow
  | reorderNotified
  | attentionUnack
  | accountLocked
  | clockUnset
  | noticeOverflow
  | strayStation
deriving DecidableEq, Repr

/-- Standby states (R158). -/
inductive Mode
  | running
  | settling
  | standby
  | waking
deriving DecidableEq, Repr

/-- The calendar when it is Set (R154). -/
structure Calendar where
  day : Nat
  minute : Nat
deriving DecidableEq, Repr

/-- The reset cause record (R169, R171). The failed-slot counts are those of the ten kinds of R164, in its order. -/
structure ResetRecord where
  cause : ResetCause
  failed : List Nat
  conservative : Nat
deriving DecidableEq, Repr

/-- The delivery and health fields of a Printer Table entry, and its colorant records (R83, R94, R110, R121, R122,
R134). Reachability is not held apart: it is Absent exactly while UNREACHABLE is a member (R110). The control list
holds messages already formed, so `Printer` is given over their type. -/
structure PrinterOf (Msg : Type) where
  cfg : PrinterConfig
  service : Service
  queue : List Nat
  control : List Msg
  lifeMono : Nat
  lifeColour : Nat
  stall : Timer
  score : Nat
  health : Health
  standing : Standing
  faulted : Bool
  lastFault : Option (Nat × FaultKind)
  owed : Option (CalloutKind × CalloutCause)
  presence : Timer
  limit : Timer
  k : Option Supply
  c : Option Supply
  m : Option Supply
  y : Option Supply
deriving DecidableEq, Repr

/-- What a TABLE_READ of an account returns (R44): the PIN is present or absent. -/
structure AccountView where
  cfg : AccountConfig
  pinPresent : Bool
  spent : Nat
  state : AccountState
  failures : Nat
  reserved : Nat
  overdrawn : Bool
  held : List Nat
  available : Budget
deriving DecidableEq, Repr

/-- What a TABLE_READ of the Settings returns besides the writable fields (R177). -/
structure SettingsView where
  settings : Settings
  uptime : Nat
  calendar : Option Calendar
  mode : Mode
  reset : ResetRecord
  queueLength : Nat
  waiting : Nat
  notices : Nat
  headroom : Nat
deriving DecidableEq, Repr

/-- What a TABLE_READ of a printer returns besides the entry itself (R83, R124, R134): the jobs of the queue with their
states, chunks sent and allowed of the Printing job, the open callout, and the open reorder of each colorant. The
entry's control list is returned as the kinds and tags of its messages. -/
structure PrinterView where
  entry : PrinterOf (Nat × Nat)
  jobs : List (Nat × JobState)
  progress : Option (Nat × Nat)
  callout : Option Nat
  orders : List (Option Nat)
deriving DecidableEq, Repr

/-- What follows the result code of a MGMT_REPLY (R175). -/
inductive ReplyBody
  | none
  | newSpent (spent : Nat)
  | called (records : Nat)
  | attention (pending : List Attention) (highest : Option Attention)
  | settings (v : SettingsView)
  | classifier (index : Nat) (e : ClassEntry)
  | tariff (pending active : Row) (written : Bool)
  | account (v : AccountView)
  | printer (v : PrinterView)
  | job (j : Job) (scaled : Option Nat)
  | callout (c : Option Callout)
  | reorder (r : Option Reorder)
deriving DecidableEq, Repr

/-- The kinds of message the part sends, with their bodies (R186). -/
inductive MsgBody
  | jobReply (r : Result) (expected : Nat)
  | jobStatus (event : JobEvent) (printer : Option Nat) (reason : Option EndReason) (charged : Option Nat)
  | releaseAnswer (r : Result) (target : Option Nat) (entries : List AnswerEntry)
  | streamBegin (declared : Counts) (media : Media) (bytes : Nat)
  | streamData (chunk : Nat) (data : List Byte)
  | streamEnd (chunks : Nat)
  | streamCancel
  | mgmtReply (r : Result) (body : ReplyBody)
  | notice (n : Notice)
deriving DecidableEq, Repr

/-- One of the part's own messages: the Ethernet type of its frame and its source (the frame type and the own station code of the
settings at its forming, R181), destination, tags and body. -/
structure OwnMsg where
  etherType : Nat
  src : Nat
  dst : Nat
  jobTag : Nat
  reqTag : Nat
  body : MsgBody
deriving DecidableEq, Repr

/-- A Printer Table entry (R83, R110, R134). -/
abbrev Printer := PrinterOf OwnMsg

/-- A formed notice waiting in the Notice Queue (R180), with the frame type and the source of its forming (R181): it is
addressed when it leaves. -/
structure QueuedNotice where
  etherType : Nat
  src : Nat
  notice : Notice
deriving DecidableEq, Repr

/-- What a port's transmission carries: a frame that crosses the part, or a message of its own, in a frame of the message's
Ethernet type, with the bytes of its payload. -/
inductive Sent
  | passed (f : EthFrame)
  | own (m : OwnMsg) (bytes : List Byte)
deriving DecidableEq, Repr

/-! ### The blocks -/

/-- The Job Table (file 01): its records in order of acceptance, the tag allocator (R2), the hold sequence number (R17),
the 32 receiving contexts (R7) and the outgoing list (R185). -/
structure JobTable where
  recs : List Job
  lastTag : Nat
  holdSeq : Nat
  contexts : List (Option Context)
  outgoing : List OwnMsg
deriving DecidableEq, Repr

/-- A run of consecutive segment numbers: the Free Segment List is held as its maximal runs, in list order (log 25). -/
structure Run where
  start : Nat
  len : Nat
deriving DecidableEq, Repr

/-- The Spool Manager (R15, R16): the Free Segment List, the promise count, the spool-low condition as last tested, and
spool memory, a list of written bytes by address segment × 4,096 + offset, addresses strictly rising (log 5). -/
structure Spool where
  free : List Run
  promises : Nat
  low : Bool
  mem : List Host.Cell
deriving DecidableEq, Repr

/-- The Tariff Unit (R47). -/
structure Tariff where
  active : Tbl Row
  pending : Tbl Row
  written : Bool
deriving DecidableEq, Repr

/-- The Fleet Clock (file 08). `hourRaised` and `midnightRaised` are the events of the last minute event that are not yet
taken (log 3); `kept` holds the FAULT messages of R161 as printer and fault kind code; `midnights` counts the midnights
passed in Standby or Waking (R155). -/
structure Clock where
  uptime : Nat
  calendar : Option Calendar
  hourRaised : Bool
  midnightRaised : Bool
  mode : Mode
  idle : Timer
  kept : List (Nat × Nat)
  midnights : Nat
deriving DecidableEq, Repr

/-- The image of a record in its slot (R164). -/
inductive Image
  | settings (s : Settings)
  | classifier (e : ClassEntry)
  | row (r : Row)
  | printerConfig (c : PrinterConfig)
  | printerHealth (withdrawn inService : Bool)
  | accountConfig (c : AccountConfig)
  | balance (spent : Nat) (state : AccountState) (failures : Nat)
  | colorant (cfg : SupplyFields) (remaining usage : Nat) (armed : Bool) (serial : Option (List Byte))
  | reorder (r : Option Reorder)
  | callout (c : Option Callout)
deriving DecidableEq, Repr

/-- A slot (R164): good with an image, or failed. -/
abbrev Slot := Option Image

/-- The Persistent Store (file 09). `slots` lists the slots that do not hold their good factory image; `dirty` and
`called` are rising slot numbers. -/
structure Store where
  slots : Tbl Slot
  dirty : List Nat
  called : List Nat
  queue : List Nat
  underWay : Option (Nat × Image)
  checkpoint : Timer
  reset : ResetRecord
deriving DecidableEq, Repr

/-- The Console Agent (file 10): the reply waiting (R175), the Notice Queue (R180) and the sticky conditions (R178). -/
structure ConsoleAgent where
  reply : Option OwnMsg
  notices : List QueuedNotice
  storeRestored : Bool
  noticeOverflow : Bool
  strayStation : Bool
deriving DecidableEq, Repr

/-- A port (R184): its two queues, whether its arbiter sent last from the Own-frame Queue, the producer it served last
(by its place in the table of R184, counted from 0), and the transmission begun last (log 12). -/
structure PortState where
  pass : List EthFrame
  own : List OwnMsg
  lastOwn : Bool
  served : Nat
  wire : Option Sent
deriving DecidableEq, Repr

/-- Phase of the part (R169): without power, reading its slots, or up. -/
inductive Phase
  | off
  | starting
  | up
deriving DecidableEq, Repr

/-- The state of the part. -/
structure State where
  phase : Phase
  jobs : JobTable
  spool : Spool
  classifier : Tbl ClassEntry
  dflt : ClassEntry
  accounts : Tbl Account
  tariff : Tariff
  answer : Option OwnMsg
  printers : Tbl Printer
  lastPrinter : Nat
  callouts : Tbl (Option Callout)
  reorders : Tbl (Option Reorder)
  clock : Clock
  settings : Settings
  store : Store
  restartPending : Bool
  console : ConsoleAgent
  oport : PortState
  fport : PortState
  freeCount : Nat
  pending : List Instr
deriving DecidableEq, Repr

/-- What stops the part. -/
inductive Fault
  /-- Raised by STREAM_DATA for a chunk with a byte that nothing has written. Safe: R22 leaves the contents of spool
  memory undefined and says that no chain refers to them, so no run reaches it (log 5). -/
  | spoolByteUnwritten
deriving DecidableEq, Repr

/-- What the model gives no meaning. -/
inductive Refusal
  /-- Raised by an arm of `exec` whose command has no meaning yet. Safe: the machine goes no further. No arm raises it. -/
  | notModelled (mnemonic : String)
deriving DecidableEq, Repr

/-- The O-port or F-port after a reset: both queues empty, the arbiter sending first from the Own-frame Queue, the turn
beginning at the first of its producers (R185). -/
def PortState.start (producers : Nat) : PortState :=
  { pass := [], own := [], lastOwn := false, served := producers - 1, wire := none }

/-- Right after a cold start of a part whose slots hold their good factory images (log 4): each block as its chapter
states for cold start (R22, R45, R60, R82, R108, R132, R151, R163, R169 to R171, R175, R178, R180, R185). The STARTED
notice has found room in the O-port Own-frame Queue (R184), and the idle and checkpoint timers run. -/
def State.reset : State :=
  { phase := .up
    jobs := { recs := [], lastTag := 65535, holdSeq := 0, contexts := List.replicate Config.contexts none, outgoing := [] }
    spool := { free := [⟨0, Config.segments⟩], promises := 0, low := false, mem := [] }
    classifier := []
    dflt := ClassEntry.factoryDefault
    accounts := []
    tariff := { active := [], pending := [], written := false }
    answer := none
    printers := []
    lastPrinter := 63
    callouts := []
    reorders := []
    clock := { uptime := 0, calendar := none, hourRaised := false, midnightRaised := false, mode := .running
               idle := .running 60, kept := [], midnights := 0 }
    settings := Settings.factory
    store := { slots := [], dirty := [], called := [], queue := [], underWay := none, checkpoint := .running 15
               reset := { cause := .power, failed := List.replicate 10 0, conservative := 0 } }
    restartPending := false
    console := { reply := none, notices := [], storeRestored := false, noticeOverflow := false, strayStation := false }
    oport := { PortState.start 3 with
               own := [{ etherType := 0xB7C4, src := 0, dst := 0, jobTag := 0, reqTag := 0
                         body := .notice (.started .power 0) }] }
    fport := PortState.start 2
    freeCount := 0
    pending := [] }

end Sys2Proof.Machine
end

