-- ==== Sys2Proof/Machine/Ops.lean ====
section
/-! DEFINITION. The named operations over the part's records, queues and spool memory, on which every command's meaning is
built: reading and replacing a record, taking and returning segments, spool bytes, timers, dirty marks, and the placing
of messages and notices. -/

namespace Sys2Proof.Machine

/-! ### Records -/

/-- R25: an account record in its factory state. -/
def Account.factory : Account :=
  { cfg := AccountConfig.factory, spent := 0, state := .isOpen, failures := 0, reserved := 0, overdrawn := false, held := [] }

/-- R83, R110: the configuration of an entry in its factory state. -/
def printerConfigFactory : PrinterConfig :=
  { station := none, name := none, group := 0, colourCapable := false, largeCapable := false, band := 0, mode := .pages
    stallTimeout := 60, presenceInterval := 5, standingLimit := 30 }

/-- The standing set with no member. -/
def Standing.none : Standing := { jam := false, mediaOut := false, doorOpen := false, unreachable := false }

/-- Whether the standing set is empty (R110). -/
def Standing.isEmpty (x : Standing) : Bool := !(x.jam || x.mediaOut || x.doorOpen || x.unreachable)

/-- R83, R110: a Printer Table entry in its factory state, Unused. -/
def printerFactory : Printer :=
  { cfg := printerConfigFactory, service := .unused, queue := [], control := [], lifeMono := 0, lifeColour := 0
    stall := .stopped, score := 0, health := .active, standing := Standing.none, faulted := false, lastFault := none
    owed := none, presence := .stopped, limit := .stopped, k := none, c := none, m := none, y := none }

/-- R134: a colorant record as created, with its writable fields. -/
def Supply.create (f : SupplyFields) : Supply :=
  { cfg := f, remaining := f.yield, empty := false, serial := none, today := 0, usage := 0, armed := true, owed := false }

/-- The account record at an index. -/
def State.account (s : State) (k : Nat) : Account := Tbl.get Account.factory s.accounts k

/-- Replace an account record. -/
def State.setAccount (s : State) (k : Nat) (a : Account) : State :=
  { s with accounts := s.accounts.put Account.factory k a }

/-- The Printer Table entry at an index. -/
def State.printer (s : State) (p : Nat) : Printer := Tbl.get printerFactory s.printers p

/-- Replace a Printer Table entry. -/
def State.setPrinter (s : State) (p : Nat) (e : Printer) : State :=
  { s with printers := s.printers.put printerFactory p e }

/-- Change a Printer Table entry. -/
def State.updPrinter (s : State) (p : Nat) (f : Printer → Printer) : State := s.setPrinter p (f (s.printer p))

/-- The Classifier entry at an index, 24 being the Default entry (R5). -/
def State.classEntry (s : State) (i : Nat) : ClassEntry :=
  if i < 24 then Tbl.get ClassEntry.factory s.classifier i else s.dflt

/-- The open callout of a record of the Callout Table, if it is open (R124). -/
def State.callout (s : State) (i : Nat) : Option Callout := Tbl.get none s.callouts i

/-- Replace a record of the Callout Table. -/
def State.setCallout (s : State) (i : Nat) (c : Option Callout) : State :=
  { s with callouts := s.callouts.put none i c }

/-- The open reorder of a record of the Reorder Table, if it is open (R145). -/
def State.reorder (s : State) (i : Nat) : Option Reorder := Tbl.get none s.reorders i

/-- Replace a record of the Reorder Table. -/
def State.setReorder (s : State) (i : Nat) (r : Option Reorder) : State :=
  { s with reorders := s.reorders.put none i r }

/-- The job record a tag names (R1). -/
def State.job (s : State) (tag : Nat) : Option Job := s.jobs.recs.find? (fun j => j.tag == tag)

/-- Change the job record a tag names. -/
def State.updJob (s : State) (tag : Nat) (f : Job → Job) : State :=
  { s with jobs := { s.jobs with recs := s.jobs.recs.map (fun j => if j.tag = tag then f j else j) } }

/-- Take a job record out of the Job Table (R3). -/
def State.dropJob (s : State) (tag : Nat) : State :=
  { s with jobs := { s.jobs with recs := s.jobs.recs.filter (fun j => j.tag ≠ tag) } }

/-- R1: the colour field, yes exactly when Tc is greater than 0 (R8). -/
def Job.colour (j : Job) : Bool := decide (0 < j.declaredCounts.tc)

/-- R89: a job in delivery is Released, Printing or Finishing. -/
def JobState.inDelivery : JobState → Bool
  | .receiving => false
  | .held => false
  | .released => true
  | .printing => true
  | .finishing => true

/-- The entry, other than an Unused one, that holds a station code (R83). -/
def State.printerOf (s : State) (station : Nat) : Option Nat :=
  (s.printers.find? (fun e => e.2.service ≠ .unused && e.2.cfg.station == some station)).map Prod.fst

/-- Indexes of the configured Printer Table entries, ascending. -/
def State.configured (s : State) : List Nat := s.printers.indexesWhere (fun e => e.service ≠ .unused)

/-- The printer in whose Delivery Queue a job stands. -/
def State.queueOf (s : State) (tag : Nat) : Option Nat :=
  (s.printers.find? (fun e => e.2.queue.contains tag)).map Prod.fst

/-- The first of an entry's jobs, in queue order, in a given state. -/
def State.firstIn (s : State) (p : Nat) (st : JobState) : Option Job :=
  ((s.printer p).queue.filterMap s.job).find? (fun j => j.state == st)

/-- The jobs of an entry's Delivery Queue in a given state, in queue order. -/
def State.jobsIn (s : State) (p : Nat) (st : JobState) : List Job :=
  ((s.printer p).queue.filterMap s.job).filter (fun j => j.state == st)

/-! ### Segments and spool bytes (R13, R15) -/

/-- The Free Segment List as the list of its segment numbers. -/
def Spool.freeList (sp : Spool) : List Nat := sp.free.flatMap (fun r => List.range' r.start r.len)

/-- Its length. -/
def Spool.freeLength (sp : Spool) : Nat := (sp.free.map Run.len).sum

/-- R9: the headroom, the Free Segment List length less the promise count. -/
def Spool.headroom (sp : Spool) : Nat := sp.freeLength - sp.promises

/-- The segment at the head, and the list without it. -/
def takeHead : List Run → Option (Nat × List Run)
  | [] => none
  | r :: t =>
    if r.len = 0 then takeHead t
    else some (r.start, if r.len = 1 then t else ⟨r.start + 1, r.len - 1⟩ :: t)

/-- Append one segment at the tail, keeping the runs maximal. -/
def pushTail (n : Nat) : List Run → List Run
  | [] => [⟨n, 1⟩]
  | [r] => if r.start + r.len = n then [⟨r.start, r.len + 1⟩] else [r, ⟨n, 1⟩]
  | r :: q :: t => r :: pushTail n (q :: t)

/-- Append a chain at the tail in chain order (R3, R15). -/
def pushChain (chain : List Nat) (free : List Run) : List Run := chain.foldl (fun f n => pushTail n f) free

/-- The byte of spool memory at an address; none where nothing has been written (log 5). -/
def memRead : List Host.Cell → Nat → Option Byte
  | [], _ => none
  | (a, b) :: t, x => if a = x then some b else memRead t x

/-- Write one byte, keeping the addresses rising. -/
def memWrite : List Host.Cell → Nat → Byte → List Host.Cell
  | [], a, b => [(a, b)]
  | (k, w) :: t, a, b =>
    if a < k then (a, b) :: (k, w) :: t else if a = k then (a, b) :: t else (k, w) :: memWrite t a b

/-- The canonical form of spool memory: addresses strictly rising. -/
def memWf (m : List Host.Cell) : Bool := decide ((m.map Prod.fst).Pairwise (· < ·))

/-- The spool address of byte `i` of a job's data: segment number i / 4,096 of its chain (R13). -/
def spoolAddress (chain : List Nat) (i : Nat) : Option Nat :=
  (chain[i / Config.segmentBytes]?).map (fun g => g * Config.segmentBytes + i % Config.segmentBytes)

/-- R12: write data into a chain at an offset. -/
def writeData (chain : List Nat) : List Byte → Nat → List Host.Cell → List Host.Cell
  | [], _, m => m
  | b :: t, i, m =>
    match spoolAddress chain i with
    | some a => writeData chain t (i + 1) (memWrite m a b)
    | none => writeData chain t (i + 1) m

/-- `n` bytes of a chain from byte `i` on; none when one of them was never written. -/
def readData (m : List Host.Cell) (chain : List Nat) : Nat → Nat → Option (List Byte)
  | 0, _ => some []
  | n + 1, i =>
    match spoolAddress chain i with
    | none => none
    | some a =>
      match memRead m a, readData m chain n (i + 1) with
      | some b, some t => some (b :: t)
      | _, _ => none

/-! ### Timers -/

/-- The Health Monitor's timers are suspended in Standby and Waking (R160). -/
def State.asleep (s : State) : Bool := s.clock.mode == .standby || s.clock.mode == .waking

/-- Start a timer of the Health Monitor from a duration: suspended while the part is in Standby or Waking. -/
def State.startTimer (s : State) (full : Nat) : Timer := if s.asleep then .suspended full else .running full

/-- Suspend a running timer. -/
def Timer.suspend : Timer → Timer
  | .running n => .suspended n
  | t => t

/-- Let a suspended timer run on. -/
def Timer.carryOn : Timer → Timer
  | .suspended n => .running n
  | t => t

/-- Whether a timer runs, and so may expire. -/
def Timer.runs : Timer → Bool
  | .running _ => true
  | _ => false

/-! ### Slots, dirty marks and the Store Write Queue (R164 to R166) -/

/-- Place of a colorant in the order K, C, M, Y. -/
def colorantIndex : Colorant → Nat
  | .k => 0
  | .c => 1
  | .m => 2
  | .y => 3

/-- R164: the slot numbers of the ten kinds. -/
def settingsSlot : Nat := 0
def classSlot (i : Nat) : Nat := 1 + i
def activeSlot (i : Nat) : Nat := 26 + i
def pendingSlot (i : Nat) : Nat := 42 + i
def printerSlot (p : Nat) : Nat := 58 + p
def healthSlot (p : Nat) : Nat := 122 + p
def accountSlot (k : Nat) : Nat := 186 + k
def balanceSlot (k : Nat) : Nat := 4282 + k
def colorantSlot (p : Nat) (col : Colorant) : Nat := 8378 + 4 * p + colorantIndex col
def reorderSlot (i : Nat) : Nat := 8634 + i
def calloutSlot (i : Nat) : Nat := 8698 + i

/-- R165: the deferred kinds, account balance and colorant. -/
def deferred (n : Nat) : Bool := decide (4282 ≤ n ∧ n < 8634)

/-- R165: whether a record is due: dirty, and of an immediate kind, or called, or any dirty record in Settling (R159). -/
def State.due (s : State) (n : Nat) : Bool :=
  s.store.dirty.contains n && (!deferred n || s.store.called.contains n || s.clock.mode == .settling)

/-- Insert a slot number into a rising list of them, once. -/
def insertSlot (n : Nat) : List Nat → List Nat
  | [] => [n]
  | k :: t => if n < k then n :: k :: t else if n = k then k :: t else k :: insertSlot n t

/-- R166: a due record not in the queue joins it at the tail when the queue has room. -/
def State.enqueue (s : State) (n : Nat) : State :=
  if s.due n && !s.store.queue.contains n && decide (s.store.queue.length < Config.storeQueue) then
    { s with store := { s.store with queue := s.store.queue ++ [n] } }
  else s

/-- R165: mark the record of a slot dirty; it is queued at once when it is due and there is room. -/
def State.mark (s : State) (n : Nat) : State :=
  State.enqueue { s with store := { s.store with dirty := insertSlot n s.store.dirty } } n

/-- Mark several records, in the order given. -/
def State.markAll (s : State) (ns : List Nat) : State := ns.foldl State.mark s

/-- R166: waiting due records are queued in ascending slot number until the queue is full or none waits. -/
def State.fillQueue (s : State) : State := s.store.dirty.foldl State.enqueue s

/-- The record of a slot is no more (a colorant removed, R164): its mark, call and reference go with it (log 14). -/
def State.unmark (s : State) (n : Nat) : State :=
  State.fillQueue { s with store := { s.store with
    dirty := s.store.dirty.filter (· ≠ n), called := s.store.called.filter (· ≠ n)
    queue := s.store.queue.filter (· ≠ n) } }

/-- R168: a checkpoint occasion calls every dirty record of the deferred kinds. -/
def State.checkpointOccasion (s : State) : State :=
  State.fillQueue { s with store := { s.store with
    called := s.store.dirty.foldl (fun l n => if deferred n then insertSlot n l else l) s.store.called } }

/-! ### Messages (R181, R184, R185) -/

/-- R181: a message formed now: its frame type and its source are those of the settings. The request tag of a message that answers
no request is 0 (log 27). -/
def State.form (s : State) (dst jobTag reqTag : Nat) (body : MsgBody) : OwnMsg :=
  { etherType := s.settings.frameType, src := s.settings.ownStation, dst := dst, jobTag := jobTag, reqTag := reqTag
    body := body }

/-- Whether a port's Own-frame Queue has room. -/
def PortState.room (q : PortState) : Bool := decide (q.own.length < Config.ownQueue)

/-- Append a message to a port's Own-frame Queue. -/
def PortState.place (q : PortState) (m : OwnMsg) : PortState := { q with own := q.own ++ [m] }

/-- A message joins the tail of the outgoing list. -/
def State.listOut (s : State) (m : OwnMsg) : State :=
  { s with jobs := { s.jobs with outgoing := s.jobs.outgoing ++ [m] } }

/-- R184, R185: a message of the Job Table is placed at once when it finds room and none waits before it; else it joins
the outgoing list. -/
def State.jobSend (s : State) (m : OwnMsg) : State :=
  if s.jobs.outgoing.isEmpty && s.oport.room then { s with oport := s.oport.place m } else s.listOut m

/-- R4, R185: form and send a JOB_STATUS for a job; it is discarded while the outgoing list holds 4,096. It answers no request,
and its request tag is 0 (log 27). -/
def State.jobStatus (s : State) (j : Job) (e : JobEvent) (printer : Option Nat) (reason : Option EndReason)
    (charged : Option Nat) : State :=
  if s.jobs.outgoing.length < Config.outgoingMax then
    s.jobSend (s.form j.origin j.tag 0 (.jobStatus e printer reason charged))
  else s

/-- Form and send a JOB_REPLY to the sender of a job message. -/
def State.jobReply (s : State) (h : Hdr) (tag : Nat) (r : Result) (expected : Nat) : State :=
  s.jobSend (s.form h.src tag h.reqTag (.jobReply r expected))

/-- R64: a RELEASE_ANSWER is placed in the F-port Own-frame Queue, or waits in the Release Engine. -/
def State.sendAnswer (s : State) (m : OwnMsg) : State :=
  if s.fport.room then { s with fport := s.fport.place m } else { s with answer := some m }

/-- R175: a MGMT_REPLY is placed in the O-port Own-frame Queue, or waits in the Console Agent. -/
def State.sendReply (s : State) (m : OwnMsg) : State :=
  if s.oport.room then { s with oport := s.oport.place m } else { s with console := { s.console with reply := some m } }

/-! ### Notices (R179, R180) -/

/-- Place of a notice kind in the table of 10.5, which is its bit in the enables (R186). -/
def NoticeKind.index : NoticeKind → Nat
  | .started => 0
  | .spoolLow => 1
  | .accountLocked => 2
  | .accountOverdrawn => 3
  | .periodRolled => 4
  | .healthChange => 5
  | .callout => 6
  | .reorder => 7

/-- The kind of a notice. -/
def Notice.kind : Notice → NoticeKind
  | .started .. => .started
  | .spoolLow .. => .spoolLow
  | .accountLocked .. => .accountLocked
  | .accountOverdrawn .. => .accountOverdrawn
  | .periodRolled .. => .periodRolled
  | .healthChange .. => .healthChange
  | .callout .. => .callout
  | .reorder .. => .reorder

/-- R179: whether notices of a kind are enabled. -/
def State.noticeEnabled (s : State) (k : NoticeKind) : Bool := s.settings.enables.getLsbD k.index

/-- R180: a notice leaving the Notice Queue is addressed to the notice station as the settings then hold it. -/
def State.addressed (s : State) (q : QueuedNotice) : OwnMsg :=
  { etherType := q.etherType, src := q.src, dst := s.settings.noticeStation, jobTag := 0, reqTag := 0
    body := .notice q.notice }

/-- R180: offer a notice to the Notice Queue. It goes on at once into the O-port Own-frame Queue when none waits before it
and there is room (log 11); a notice that finds 16 queued sets NOTICE_OVERFLOW. -/
def State.offer (s : State) (q : QueuedNotice) : State :=
  if s.console.notices.isEmpty && s.oport.room then { s with oport := s.oport.place (s.addressed q) }
  else if s.console.notices.length < Config.noticeQueue then
    { s with console := { s.console with notices := s.console.notices ++ [q] } }
  else { s with console := { s.console with noticeOverflow := true } }

/-- R179: form a notice; one of a disabled kind leaves no trace. -/
def State.notify (s : State) (n : Notice) : State :=
  if s.noticeEnabled n.kind then s.offer { etherType := s.settings.frameType, src := s.settings.ownStation, notice := n } else s

/-! ### The spool-low test (R16) -/

/-- R16: the spool is low while the headroom is below the intake reserve and the largest possible need. -/
def Spool.isLow (sp : Spool) : Bool := decide (sp.headroom < Config.intakeReserve + Config.largestNeed)

/-- R16: test the condition after a change of headroom, and send the SPOOL_LOW notice when it has begun or ceased. -/
def State.spoolLowTest (s : State) : State :=
  if s.spool.isLow = s.spool.low then s
  else State.notify { s with spool := { s.spool with low := s.spool.isLow } } (.spoolLow s.spool.isLow)

end Sys2Proof.Machine
end

