-- ==== Sys2Proof/Machine/Flags.lean ====
section
/-! DEFINITION. The flags and conditions the part computes from its records: available quota and the overdrawn flag, the
score's band, a colorant's level and days left, capability and eligibility, the idle condition, the store drain, and the
attention conditions. -/

namespace Sys2Proof.Machine

/-! ### Accounts -/

/-- R31: the available quota, budget − spent − reserved, 0 when negative; Unlimited for an Unlimited budget. -/
def Account.available (a : Account) : Budget :=
  match a.cfg.budget with
  | .unlimited => .unlimited
  | .finite b => .finite (b - a.spent - a.reserved)

/-- R31: whether a charge is within the available quota. -/
def Account.covers (a : Account) (charge : Nat) : Bool :=
  match a.available with
  | .unlimited => true
  | .finite q => decide (charge ≤ q)

/-- R35: the overdrawn flag, yes when the budget is finite and spent is greater than it. -/
def overdrawnFlag (budget : Budget) (spent : Nat) : Bool :=
  match budget with
  | .unlimited => false
  | .finite b => decide (b < spent)

/-- R35: evaluate the overdrawn flag of an account, with the ACCOUNT_OVERDRAWN notice when it moves from no to yes. -/
def State.evalOverdrawn (s : State) (k : Nat) : State :=
  let a := s.account k
  let flag := overdrawnFlag a.cfg.budget a.spent
  let t := s.setAccount k { a with overdrawn := flag }
  if flag && !a.overdrawn then t.notify (.accountOverdrawn k a.spent a.cfg.budget) else t

/-! ### Health -/

/-- R116: the health state of a score band. -/
def bandOf (score : Nat) : Health :=
  if score < 160 then .active else if score < 320 then .watch else if score < 640 then .degraded else .withdrawn

/-- Rank of a health state, Active lowest. -/
def Health.rank : Health → Nat
  | .active => 0
  | .watch => 1
  | .degraded => 2
  | .withdrawn => 3

/-- Rank of a callout kind (R124). -/
def CalloutKind.rank : CalloutKind → Nat
  | .attention => 0
  | .service => 1
  | .urgent => 2

/-- R113: the weight of each kind of fault. -/
def FaultKind.weight : FaultKind → Nat
  | .jam => 24
  | .mediaOut => 4
  | .doorOpen => 2
  | .engine => 96
  | .supplyFault => 12
  | .streamError => 16
  | .stall => 32
  | .reportMissing => 16

/-- R112, R186: the fault kind a FAULT message's code names; none of the five otherwise. -/
def faultOfCode : Nat → Option FaultKind
  | 0 => some .jam
  | 1 => some .mediaOut
  | 2 => some .doorOpen
  | 3 => some .engine
  | 4 => some .supplyFault
  | _ => none

/-- R65, R128: whether a health state lets a printer take work, and a callout close: Active or Watch. -/
def Health.well (h : Health) : Bool := h == .active || h == .watch

/-- R128: whether the close test passes for an entry. -/
def PrinterOf.passesClose (e : Printer) : Bool := e.standing.isEmpty && e.health.well

/-! ### Colorants -/

/-- The colorant record of an entry (R134). -/
def PrinterOf.supply (e : Printer) : Colorant → Option Supply
  | .k => e.k
  | .c => e.c
  | .m => e.m
  | .y => e.y

/-- Replace a colorant record. -/
def PrinterOf.setSupply (e : Printer) (col : Colorant) (r : Option Supply) : Printer :=
  match col with
  | .k => { e with k := r }
  | .c => { e with c := r }
  | .m => { e with m := r }
  | .y => { e with y := r }

/-- The colorants in order (R134). -/
def colorants : List Colorant := [.k, .c, .m, .y]

/-- R134: the level, in permille. -/
def Supply.level (r : Supply) : Nat := r.remaining * 1000 / r.cfg.yield

/-- R134: the days left; none when the usage is 0. -/
def Supply.daysLeft (r : Supply) : Option Nat := if r.usage = 0 then none else some (r.remaining * 16 / r.usage)

/-- R139: a colorant record that exists and is reported empty. -/
def reportedEmpty (r : Option Supply) : Bool := (r.map Supply.empty).getD false

/-- R142: the usage average moved one eighth of the way toward the day's count, rounded toward negative infinity. -/
def usageStep (today usage : Nat) : Nat :=
  Int.toNat ((usage : Int) + Int.fdiv ((today : Int) * 16 - (usage : Int)) 8)

/-- R145: the open reorder record of a printer's colorant, by index; the lowest of two that were restored open (log 34). -/
def State.orderOf (s : State) (p : Nat) (col : Colorant) : Option Nat :=
  (s.reorders.find? (fun e => match e.2 with
    | some r => r.printer == p && r.colorant == col
    | none => false)).map Prod.fst

/-- R124: the open callout of a printer, by record index; the lowest of two that were restored open (log 34). -/
def State.calloutOf (s : State) (p : Nat) : Option Nat :=
  (s.callouts.find? (fun e => match e.2 with
    | some c => c.printer == p
    | none => false)).map Prod.fst

/-- R143: the condition of the reorder test, less its test for an open record: armed, and short by days left or by
level. -/
def Supply.short (r : Supply) : Bool :=
  r.armed && ((match r.daysLeft with
    | some d => decide (d ≤ r.cfg.lead)
    | none => false) || decide (r.level ≤ r.cfg.floor))

/-- The lowest index below `n` whose record is free. -/
def lowestFree {α : Type} (t : Tbl (Option α)) (n : Nat) : Option Nat :=
  (List.range n).find? (fun i => (Tbl.get none t i).isNone)

/-! ### Capability and eligibility (R65, R66) -/

/-- R66: an entry's capability for a job. -/
def PrinterOf.capable (e : Printer) (j : Job) : Bool :=
  (!j.colour || e.cfg.colourCapable) && (j.media != .large || e.cfg.largeCapable)

/-- R65: whether an entry is eligible for a job. -/
def PrinterOf.eligible (e : Printer) (j : Job) : Bool :=
  e.service == .inService && e.health.well && e.standing.isEmpty && !reportedEmpty e.k
    && (!j.colour || (e.cfg.colourCapable && !reportedEmpty e.c && !reportedEmpty e.m && !reportedEmpty e.y))
    && (j.media != .large || e.cfg.largeCapable)
    && decide (e.queue.length < Config.queueJobs)

/-- R66: the members of the group of an entry, other than Unused entries, ascending. -/
def State.groupOf (s : State) (a : Nat) : List Nat :=
  s.configured.filter (fun p => (s.printer p).cfg.group == (s.printer a).cfg.group)

/-- Of two printers, the one whose Delivery Queue holds fewer jobs, the first among equals. -/
def State.shorter (s : State) (best : Option Nat) (p : Nat) : Option Nat :=
  match best with
  | none => some p
  | some b => if (s.printer p).queue.length < (s.printer b).queue.length then some p else some b

/-- R67 step 2, R106: the eligible member of the group of `a`, other than `a`, with the fewest jobs queued, the lowest
index among equals. -/
def State.partner (s : State) (a : Nat) (j : Job) : Option Nat :=
  ((s.groupOf a).filter (fun p => p ≠ a && (s.printer p).eligible j)).foldl s.shorter none

/-- R67: the target of a job for a request at `a`. -/
def State.target (s : State) (a : Nat) (j : Job) : Option Nat :=
  if (s.printer a).eligible j then some a else s.partner a j

/-- R67 step 3: the skip reason of a job with no target. -/
def State.skipReason (s : State) (a : Nat) (j : Job) : Fate :=
  if (s.groupOf a).any (fun p => (s.printer p).capable j) then .skippedQueue else .skippedCapability

/-! ### The whole part -/

/-- R158: the idle condition: no job is Receiving and every Delivery Queue is empty. -/
def State.idleCondition (s : State) : Bool :=
  s.jobs.recs.all (fun j => j.state != .receiving) && s.printers.all (fun e => e.2.queue.isEmpty)

/-- R159: the store drain is complete. -/
def State.drained (s : State) : Bool :=
  s.store.queue.isEmpty && s.store.underWay.isNone && s.store.dirty.isEmpty

/-- Whether some open callout of a kind is Unacknowledged (R124). -/
def State.unacknowledged (s : State) (k : CalloutKind) : Bool :=
  s.callouts.any (fun e => match e.2 with
    | some c => c.kind == k && !c.acknowledged
    | none => false)

/-- R178: whether an attention condition is pending. -/
def State.attends (s : State) : Attention → Bool
  | .urgentUnack => s.unacknowledged .urgent
  | .storeRestored => s.console.storeRestored
  | .serviceUnack => s.unacknowledged .service
  | .spoolLow => s.spool.isLow
  | .reorderNotified => s.reorders.any (fun e => match e.2 with
      | some r => !r.confirmed
      | none => false)
  | .attentionUnack => s.unacknowledged .attention
  | .accountLocked => s.accounts.any (fun e => e.2.cfg.valid && e.2.state == .locked)
  | .clockUnset => s.clock.calendar.isNone
  | .noticeOverflow => s.console.noticeOverflow
  | .strayStation => s.console.strayStation

/-- The attention conditions in rank order (R178). -/
def attentionRanks : List Attention :=
  [.urgentUnack, .storeRestored, .serviceUnack, .spoolLow, .reorderNotified, .attentionUnack, .accountLocked,
    .clockUnset, .noticeOverflow, .strayStation]

/-- R178: the pending conditions, highest rank first. -/
def State.attention (s : State) : List Attention := attentionRanks.filter s.attends

end Sys2Proof.Machine
end

