-- ==== Sys2Proof/Machine/Persist.lean ====
section
/-! DEFINITION. The Persistent Store at work (R164 to R168): the image of each record, the beginning and completion of a
program operation, and what every step does at its end: it begins an operation when one may begin (R167), and starts or
stops the idle timer by the idle condition (R158). -/

namespace Sys2Proof.Machine

/-- The image of a colorant record (R164); the creation values stand for a record that does not exist. -/
def supplyImage (r : Option Supply) : Image :=
  let v := r.getD (Supply.create SupplyFields.factory)
  .colorant v.cfg v.remaining v.usage v.armed v.serial

/-- The colorant at a place in the order K, C, M, Y. -/
def colorantAt : Nat → Colorant
  | 0 => .k
  | 1 => .c
  | 2 => .m
  | _ => .y

/-- R164: the image of the record of a slot as it stands. A callout's renotify timer is no field of R124 and is kept in no
slot. -/
def State.image (s : State) (n : Nat) : Image :=
  if n = 0 then .settings s.settings
  else if n < 26 then .classifier (s.classEntry (n - 1))
  else if n < 42 then .row (Tbl.get Row.factory s.tariff.active (n - 26))
  else if n < 58 then .row (Tbl.get Row.factory s.tariff.pending (n - 42))
  else if n < 122 then .printerConfig (s.printer (n - 58)).cfg
  else if n < 186 then
    .printerHealth ((s.printer (n - 122)).health == .withdrawn) ((s.printer (n - 122)).service == .inService)
  else if n < 4282 then .accountConfig (s.account (n - 186)).cfg
  else if n < 8378 then
    .balance (s.account (n - 4282)).spent (s.account (n - 4282)).state (s.account (n - 4282)).failures
  else if n < 8634 then supplyImage ((s.printer ((n - 8378) / 4)).supply (colorantAt ((n - 8378) % 4)))
  else if n < 8698 then .reorder (s.reorder (n - 8634))
  else .callout ((s.callout (n - 8698)).map (fun c => { c with timer := .stopped }))

/-- The image of a slot's record in its factory state, which a slot holds when it is not listed (log 4). -/
def factoryImage (n : Nat) : Image :=
  if n = 0 then .settings Settings.factory
  else if n < 25 then .classifier ClassEntry.factory
  else if n = 25 then .classifier ClassEntry.factoryDefault
  else if n < 58 then .row Row.factory
  else if n < 122 then .printerConfig printerConfigFactory
  else if n < 186 then .printerHealth false false
  else if n < 4282 then .accountConfig AccountConfig.factory
  else if n < 8378 then .balance 0 .isOpen 0
  else if n < 8634 then supplyImage none
  else if n < 8698 then .reorder none
  else .callout none

/-- The slot of a number (R164): `none` when it has failed. -/
def Store.slot (st : Store) (n : Nat) : Slot := Tbl.get (some (factoryImage n)) st.slots n

/-- Write a slot. -/
def Store.setSlot (st : Store) (n : Nat) (v : Slot) : Store :=
  { st with slots := st.slots.put (some (factoryImage n)) n v }

/-- R167: when no operation is under way and the queue is not empty, an operation begins on the head: its reference leaves
the queue, the record's image is captured, its mark and call are cleared, and waiting due records are queued (R166). -/
def State.beginProgram (s : State) : State :=
  match s.store.underWay, s.store.queue with
  | none, n :: rest =>
    State.fillQueue { s with store := { s.store with
      queue := rest, underWay := some (n, s.image n)
      dirty := s.store.dirty.filter (· ≠ n), called := s.store.called.filter (· ≠ n) } }
  | _, _ => s

/-- R158: the idle timer runs while the part is Running with an idle time other than 0 and the idle condition holds; it does
not run while a warm restart is pending (R172). It starts when these come to hold together (log 15). -/
def State.idleService (s : State) : State :=
  if s.clock.mode == .running && !s.restartPending && s.settings.idleTime != 0 && s.idleCondition then
    if s.clock.idle.runs then s else { s with clock := { s.clock with idle := .running s.settings.idleTime } }
  else { s with clock := { s.clock with idle := .stopped } }

/-- The end of every step of the part while it is up. -/
def State.finish (s : State) : State := s.beginProgram.idleService

/-- R159: the part enters Standby: spool memory goes into self-refresh and the Health Monitor's timers are suspended
(R131, R160); the checkpoint timer does not run in Standby (R168). -/
def State.enterStandby (s : State) : State :=
  { s with
    clock := { s.clock with mode := .standby, idle := .stopped, midnights := 0 }
    store := { s.store with checkpoint := .stopped }
    printers := s.printers.mapAll printerFactory (fun e =>
      { e with presence := e.presence.suspend, limit := e.limit.suspend })
    callouts := s.callouts.mapAll none (fun c => c.map (fun r => { r with timer := r.timer.suspend })) }

/-- R159: the part enters Settling: a checkpoint of every dirty record is asked for, and when the drain is already complete
the part passes on into Standby. -/
def State.enterSettling (s : State) : State :=
  let t := State.checkpointOccasion { s with clock := { s.clock with mode := .settling, idle := .stopped } }
  if t.drained then t.enterStandby else t

/-- R158, R159: work abandons Settling, and the part is Running. -/
def State.abandonSettling (s : State) : State :=
  if s.clock.mode = .settling then { s with clock := { s.clock with mode := .running } } else s

end Sys2Proof.Machine
end

