-- ==== Sys2Proof/Machine/Tariff.lean ====
section
/-! DEFINITION. The Tariff Unit (file 03): the charge computation in its five stages (R52 to R54), the row of a pricing
(R48), the bank swap (R51) and the write of a Pending row (R49). -/

namespace Sys2Proof.Machine

/-- R52: stage 1, the base price in milli-points. -/
def basePrice (n : Counts) (r : Row) : Nat := n.tm * r.rm + n.tc * r.rc + n.ts * r.ps

/-- R53: stage 2, the media class. -/
def scaledPrice (n : Counts) (m : Media) (r : Row) : Nat :=
  match m with
  | .standard => basePrice n r
  | .large => ceilDiv (basePrice n r * r.l) 16

/-- R54: stages 3 to 5, the charge in points. -/
def charge (n : Counts) (m : Media) (r : Row) : Nat :=
  if n.tm + n.tc = 0 then 0
  else min Config.maxPoints (max (max (ceilDiv (scaledPrice n m r) 1000) r.jmin) 1)

/-- R47: the entry index of a band and class. -/
def rowIndex (band cls : Nat) : Nat := band * 4 + cls

/-- R48: the Active row of a printer's band and an account's class, with its band and class. -/
def State.ratesAt (s : State) (p k : Nat) : StoredRates :=
  let band := (s.printer p).cfg.band
  let cls := (s.account k).cfg.cls
  { row := Tbl.get Row.factory s.tariff.active (rowIndex band cls), band := band, cls := cls }

/-- R55, R56: the charge of a job's declared counts at a printer. -/
def State.priceAt (s : State) (p : Nat) (j : Job) : Nat :=
  charge j.declaredCounts j.media (s.ratesAt p j.account).row

/-- R51: the bank swap of a period roll. Every Active row is marked dirty; they join the Store Write Queue in ascending slot
number, an order that R51 leaves open (log 14). -/
def State.bankSwap (s : State) : State :=
  if s.tariff.written then
    State.markAll { s with tariff := { s.tariff with active := s.tariff.pending, written := false } }
      ((List.range 16).map activeSlot)
  else s

/-- R49: the row a write stores, with L clamped. -/
def Row.stored (r : Row) : Row := { r with l := clamp 16 64 r.l }

/-- R49: an accepted write of a Pending row. -/
def State.writePending (s : State) (i : Nat) (r : Row) : State :=
  State.mark { s with tariff := { s.tariff with
    pending := s.tariff.pending.put Row.factory i (Row.stored r), written := true } } (pendingSlot i)

end Sys2Proof.Machine
end

