-- ==== Sys2Proof/Machine/Accounts.lean ====
section
/-! DEFINITION. The Account Table (file 02): lookups (R26), authentication and lockout (R27, R28), Reserve, Unreserve and
Settle (R32 to R34), the Held List (R37), the period schedule (R39) and the period roll (R40). -/

namespace Sys2Proof.Machine

/-! ### Lookups (R26) -/

/-- R26: the valid record that holds an account number. -/
def State.accountOfNumber (s : State) (n : Nat) : Option Nat :=
  (s.accounts.find? (fun e => e.2.cfg.valid && e.2.cfg.number == n)).map Prod.fst

/-- R26: the record, valid or not, that holds a badge number. -/
def State.accountOfBadge (s : State) (b : Nat) : Option Nat :=
  (s.accounts.find? (fun e => e.2.cfg.badge == some b)).map Prod.fst

/-- R25: a change of spent, state or PIN failures marks the balance dirty. -/
def State.setBalance (s : State) (k : Nat) (a : Account) : State := (s.setAccount k a).mark (balanceSlot k)

/-! ### Authentication (R27, R28) -/

/-- R28: a PIN mismatch; the fifth locks the account and sends ACCOUNT_LOCKED. -/
def State.pinMismatch (s : State) (k : Nat) : State :=
  let a := s.account k
  let n := a.failures + 1
  if n < Config.pinLimit then s.setBalance k { a with failures := n }
  else (s.setBalance k { a with failures := Config.pinLimit, state := .locked }).notify (.accountLocked k)

/-- R27: authenticate a badge and PIN: the account index, or the answer, with the state that follows. -/
def State.authenticate (s : State) (b : AskBody) : State × (Result ⊕ Nat) :=
  match s.accountOfBadge b.badge with
  | none => (s, .inl .authFailed)
  | some k =>
    let a := s.account k
    if a.cfg.valid = false then (s, .inl .authFailed)
    else if a.state ≠ .isOpen then (s, .inl .accountBlocked)
    else match a.cfg.pin with
      | none => (s, .inr k)
      | some d =>
        if b.pin = some d then
          (if a.failures = 0 then s else s.setBalance k { a with failures := 0 }, .inr k)
        else (s.pinMismatch k, .inl .authFailed)

/-! ### Quota (R32 to R34) -/

/-- R32: Reserve; none when it fails. -/
def State.reserve (s : State) (k charge : Nat) : Option State :=
  let a := s.account k
  if a.covers charge && decide (a.reserved + charge ≤ Config.maxPoints) then
    some (s.setAccount k { a with reserved := a.reserved + charge })
  else none

/-- R33: Unreserve. -/
def State.unreserve (s : State) (k amount : Nat) : State :=
  let a := s.account k
  s.setAccount k { a with reserved := a.reserved - amount }

/-- R34: Settle, then the overdrawn flag is evaluated and the balance marked dirty. -/
def State.settle (s : State) (k reservation actual : Nat) : State :=
  let a := s.account k
  ((s.setAccount k { a with reserved := a.reserved - reservation
                            spent := min Config.maxPoints (a.spent + actual) }).evalOverdrawn k).mark (balanceSlot k)

/-! ### The Held List (R17, R37) -/

/-- R17: one hold stamp precedes another. -/
def stampBefore (a b : Nat × Nat) : Bool := decide (a.1 < b.1) || (a.1 == b.1 && decide (a.2 < b.2))

/-- The hold stamp of a job of the Job Table; (0, 0) for a tag that has none, which no Held List holds. -/
def State.stampOf (s : State) (tag : Nat) : Nat × Nat := ((s.job tag).bind Job.stamp).getD (0, 0)

/-- R37: insert a tag before the first entry whose stamp is later than its own. -/
def State.insertHeld (s : State) (tag : Nat) : List Nat → List Nat
  | [] => [tag]
  | t :: rest => if stampBefore (s.stampOf tag) (s.stampOf t) then tag :: t :: rest else t :: s.insertHeld tag rest

/-- Take a tag out of an account's Held List. -/
def State.unhold (s : State) (k tag : Nat) : State :=
  let a := s.account k
  s.setAccount k { a with held := a.held.filter (· ≠ tag) }

/-! ### The period schedule and roll (R39, R40) -/

/-- R39: the first boundary of a schedule later than a day. -/
def firstBoundary (nextRoll length day : Nat) : Nat :=
  Int.toNat ((nextRoll : Int) + (length : Int) * (Int.fdiv ((day : Int) - (nextRoll : Int)) (length : Int) + 1))

/-- Set the next-roll day; a move marks the settings dirty (R165). -/
def State.setNextRoll (s : State) (d : Nat) : State :=
  if d = s.settings.nextRollDay then s
  else State.mark { s with settings := { s.settings with nextRollDay := d } } settingsSlot

/-- R39: the next-roll day after a roll raised at the next-roll day by the Fleet Clock. -/
def State.nextRollScheduled (s : State) : Nat := s.settings.nextRollDay + s.settings.periodLength

/-- R39, R41: the next-roll day after a roll raised otherwise: the first boundary later than the current day; unchanged
while the calendar is Unset. -/
def State.nextRollCaught (s : State) : Nat :=
  match s.clock.calendar with
  | some c => firstBoundary s.settings.nextRollDay s.settings.periodLength c.day
  | none => s.settings.nextRollDay

/-- R40 step 1: what a roll does to a record. -/
def Account.rolled (a : Account) : Account := if a.cfg.valid then { a with spent := 0, overdrawn := false } else a

/-- R40: a period roll, which moves the next-roll day to `next`, with or without the PERIOD_ROLLED notice. -/
def State.periodRoll (s : State) (next : Nat) (announce : Bool) : State :=
  let s1 := State.bankSwap { s with accounts := s.accounts.mapAll Account.factory Account.rolled }
  let s2 := (s1.markAll ((s1.accounts.indexesWhere (fun a => a.cfg.valid)).map balanceSlot)).checkpointOccasion
  let s3 := s2.setNextRoll next
  if announce then s3.notify (.periodRolled next) else s3

end Sys2Proof.Machine
end

