-- ==== Sys2Proof/Machine/Supplies.lean ====
section
/-! DEFINITION. The Supply Monitor (file 07): faces counted (R137), the colorant part of a STATUS (R138), cartridge change
(R140), the day roll (R142), the reorder test (R143, R144), opening and closing of reorder records (R145, R150), and the
removal of colorant records (R136). -/

namespace Sys2Proof.Machine

/-- Replace a colorant record of a printer. -/
def State.putSupply (s : State) (p : Nat) (col : Colorant) (r : Option Supply) : State :=
  s.updPrinter p (fun e => e.setSupply col r)

/-- R134: replace a colorant record that exists, marking it dirty when a field of its slot changes. -/
def State.setSupply (s : State) (p : Nat) (col : Colorant) (r : Supply) : State :=
  let t := s.putSupply p col (some r)
  if supplyImage ((s.printer p).supply col) = supplyImage (some r) then t else t.mark (colorantSlot p col)

/-- The current level of a colorant (R145); 0 for one the printer does not have. -/
def State.levelOf (s : State) (p : Nat) (col : Colorant) : Nat := (((s.printer p).supply col).map Supply.level).getD 0

/-! ### The Reorder Table (R144, R145, R150) -/

/-- R145: open reorder record `i` for a colorant; the colorant becomes disarmed and owes no order (R144, R150). -/
def State.openReorder (s : State) (p : Nat) (col : Colorant) (i : Nat) : State :=
  match (s.printer p).supply col with
  | none => s
  | some r =>
    let o : Reorder := { printer := p, colorant := col, confirmed := false, openedDay := s.clock.calendar.map Calendar.day
                         level := r.level, days := r.daysLeft }
    let t := (s.setReorder i (some o)).mark (reorderSlot i)
    (t.setSupply p col { r with armed := false, owed := false }).notify (.reorder i o r.level .opened)

/-- R146: close a reorder record with its notice; the record is free and dirty. -/
def State.closeReorder (s : State) (i : Nat) (d : ReorderDetail) : State :=
  match s.reorder i with
  | none => s
  | some o => ((s.setReorder i none).mark (reorderSlot i)).notify (.reorder i o (s.levelOf o.printer o.colorant) d)

/-- The colorants that owe an order, in the order of R150. -/
def State.owedOrders (s : State) : List (Nat × Colorant) :=
  s.configured.flatMap (fun p =>
    (colorants.filter (fun col => (((s.printer p).supply col).map Supply.owed).getD false)).map (fun col => (p, col)))

/-- R150: offer a freed reorder record to owed orders. -/
def State.offerReorder (s : State) (i : Nat) : State :=
  match s.owedOrders with
  | [] => s
  | (p, col) :: _ => s.openReorder p col i

/-- R143, R144: the reorder test of one colorant record. -/
def State.reorderTest (s : State) (p : Nat) (col : Colorant) : State :=
  match (s.printer p).supply col with
  | none => s
  | some r =>
    if r.short && (s.orderOf p col).isNone then
      match lowestFree s.reorders Config.reorders with
      | some i => s.openReorder p col i
      | none => s.putSupply p col (some { r with owed := true })
    else s.putSupply p col (some { r with owed := false })

/-- The reorder test of every record of a printer, in the order K, C, M, Y. -/
def State.reorderTests (s : State) (p : Nat) : State := colorants.foldl (fun t col => t.reorderTest p col) s

/-! ### Cartridges and reports (R138, R140) -/

/-- R140: a cartridge change: the colorant is armed and owes nothing, and its open reorder is fulfilled (R150). -/
def State.cartridgeChange (s : State) (p : Nat) (col : Colorant) : State :=
  match (s.printer p).supply col with
  | none => s
  | some r =>
    let t := s.setSupply p col { r with armed := true, owed := false }
    match t.orderOf p col with
    | none => t
    | some i => (t.closeReorder i .fulfilled).offerReorder i

/-- R138: one colorant report of a FULL printer. -/
def State.takeReport (s : State) (p : Nat) (rep : ColorantReport) : State :=
  match (s.printer p).supply rep.colorant with
  | none => s
  | some r =>
    let level := min rep.level 1000
    let r1 : Supply := { r with remaining := level * r.cfg.yield / 1000, empty := level == 0 }
    match rep.serial with
    | none => s.setSupply p rep.colorant r1
    | some n =>
      if r.serial = some n then s.setSupply p rep.colorant r1
      else (s.setSupply p rep.colorant { r1 with serial := some n }).cartridgeChange p rep.colorant

/-- R138: the colorant part of a STATUS, colorant by colorant in the order K, C, M, Y, and then the reorder test. -/
def State.takeReports (s : State) (p : Nat) (reps : List ColorantReport) : State :=
  (colorants.foldl (fun t col =>
    (reps.filter (fun r => r.colorant == col)).foldl (fun u r => u.takeReport p r) t) s).reorderTests p

/-! ### Faces (R137) -/

/-- R137: count `n` faces in one colorant record; an estimating printer's R falls by them. A record that counts no face of a
hand-over is not marked dirty; one that counts faces is, its R being 0 already or not (log 35). -/
def State.countFaces (s : State) (p : Nat) (col : Colorant) (n : Nat) : State :=
  match (s.printer p).supply col with
  | none => s
  | some r =>
    let r1 : Supply := { r with today := min Config.maxFacesToday (r.today + n) }
    if (s.printer p).cfg.mode = .full || n = 0 then s.putSupply p col (some r1)
    else (s.putSupply p col (some { r1 with remaining := r.remaining - n })).mark (colorantSlot p col)

/-- R137: faces handed to the Supply Monitor: every face counts in K, a colour face in each of C, M and Y too. -/
def State.supplyFaces (s : State) (p mono colour : Nat) : State :=
  (((s.countFaces p .k (mono + colour)).countFaces p .c colour).countFaces p .m colour).countFaces p .y colour

/-! ### The day roll (R142, R147) -/

/-- R142 step 1 for one record. -/
def State.averageUsage (s : State) (p : Nat) (col : Colorant) : State :=
  match (s.printer p).supply col with
  | none => s
  | some r => s.setSupply p col { r with usage := usageStep r.today r.usage, today := 0 }

/-- R147: renotify a reorder record that is Notified. -/
def State.renotifyReorder (s : State) (i : Nat) : State :=
  match s.reorder i with
  | none => s
  | some o =>
    if o.confirmed then s else s.notify (.reorder i o (s.levelOf o.printer o.colorant) .renotified)

/-- R142: a day roll, each step over every record of every configured entry. -/
def State.dayRoll (s : State) : State :=
  let s1 := s.configured.foldl (fun t p => colorants.foldl (fun u col => u.averageUsage p col) t) s
  let s2 := (s1.reorders.map Prod.fst).foldl State.renotifyReorder s1
  s2.configured.foldl State.reorderTests s2

/-! ### Records coming and going (R136) -/

/-- R136: create a colorant record. -/
def State.createSupply (s : State) (p : Nat) (col : Colorant) (f : SupplyFields) : State :=
  (s.putSupply p col (some (Supply.create f))).mark (colorantSlot p col)

/-- R136: remove colorant records: their reorder records are closed, all of them are removed, and only then is each freed
reorder record offered to owed orders (R150). They are closed and offered in the order of their colorants, and each is closed
with the level of the record about to go (log 30). -/
def State.removeSupplies (s : State) (p : Nat) (cols : List Colorant) (why : CloseReason) : State :=
  let freed := cols.filterMap (fun col => s.orderOf p col)
  let s1 := freed.foldl (fun t i => t.closeReorder i (.closed why)) s
  let s2 := cols.foldl (fun t col => (t.putSupply p col none).unmark (colorantSlot p col)) s1
  freed.foldl State.offerReorder s2

end Sys2Proof.Machine
end

