-- ==== Sys2Proof/Machine/Callouts.lean ====
section
/-! DEFINITION. The Callout Table (file 06, 6.5): raising (R125), renotify and escalation (R126), the close test (R128), and
the offering of a freed record to owed callouts (R129). -/

namespace Sys2Proof.Machine

/-- The callout owed to a printer becomes `o` (R110, R125). -/
def State.setOwed (s : State) (p : Nat) (o : Option (CalloutKind × CalloutCause)) : State :=
  s.updPrinter p (fun e => { e with owed := o })

/-- R125 step 3: open record `i` for a printer. -/
def State.openCallout (s : State) (p : Nat) (k : CalloutKind) (c : CalloutCause) (i : Nat) : State :=
  let r : Callout := { printer := p, kind := k, acknowledged := false, opened := s.clock.uptime, count := 0, cause := c
                       timer := s.startTimer s.settings.renotify }
  (((s.setCallout i (some r)).setOwed p none).mark (calloutSlot i)).notify (.callout i r .opened)

/-- R125: raise a callout for a printer. -/
def State.raiseCallout (s : State) (p : Nat) (k : CalloutKind) (c : CalloutCause) : State :=
  match s.calloutOf p with
  | some i =>
    match s.callout i with
    | some r =>
      if r.kind.rank < k.rank then
        let u : Callout := { r with kind := k, cause := c, acknowledged := false, count := 0
                                    timer := s.startTimer s.settings.renotify }
        ((s.setCallout i (some u)).mark (calloutSlot i)).notify (.callout i u .upgraded)
      else s
    | none => s
  | none =>
    match lowestFree s.callouts Config.callouts with
    | some i => s.openCallout p k c i
    | none =>
      match (s.printer p).owed with
      | none => s.setOwed p (some (k, c))
      | some (k0, _) => if k0.rank < k.rank then s.setOwed p (some (k, c)) else s

/-- Close a callout record with its notice: the record is free and dirty (R128, R129, R130). -/
def State.closeRecord (s : State) (i : Nat) (why : CloseReason) : State :=
  match s.callout i with
  | none => s
  | some r => ((s.setCallout i none).mark (calloutSlot i)).notify (.callout i r (.closed why))

/-- R129: offer a freed record to the printers given, ascending: one that passes the close test has its owed callout
cleared, the first that fails it has it opened, and the offering ends. -/
def State.offerCalloutTo (i : Nat) : State → List Nat → State
  | s, [] => s
  | s, p :: rest =>
    match (s.printer p).owed with
    | none => State.offerCalloutTo i s rest
    | some (k, c) =>
      if (s.printer p).passesClose then State.offerCalloutTo i (s.setOwed p none) rest else s.openCallout p k c i

/-- R129: offer a freed record to owed callouts. -/
def State.offerCallout (s : State) (i : Nat) : State := State.offerCalloutTo i s s.configured

/-- R128: the close test for a printer. -/
def State.closeTest (s : State) (p : Nat) : State :=
  if (s.printer p).passesClose then
    let t := match s.calloutOf p with
      | none => s
      | some i => (s.closeRecord i .recovered).offerCallout i
    t.setOwed p none
  else s

/-- R126: the kind one step up; Urgent stays Urgent. -/
def CalloutKind.next : CalloutKind → CalloutKind
  | .attention => .service
  | .service => .urgent
  | .urgent => .urgent

/-- R126: the expiry of a renotify timer. -/
def State.renotifyCallout (s : State) (i : Nat) : State :=
  match s.callout i with
  | none => s
  | some r =>
    if r.acknowledged || !r.timer.runs then s
    else
      let r1 : Callout := { r with count := r.count + 1, timer := s.startTimer s.settings.renotify }
      let s1 := s.notify (.callout i r1 .renotified)
      if r1.count < 3 then s1.setCallout i (some r1)
      else
        let r2 : Callout := { r1 with count := 0, kind := r.kind.next }
        if r.kind = .urgent then s1.setCallout i (some r2)
        else ((s1.setCallout i (some r2)).mark (calloutSlot i)).notify (.callout i r2 .escalated)

end Sys2Proof.Machine
end

