-- ==== Sys2Proof/Machine/Delivery.lean ====
section
/-! DEFINITION. The Delivery Engine's operations (file 05) and the end of a job (R3): joining and leaving a Delivery Queue
(R85, R88), the start of a stream (R89), the control list (R90), settlement (R100), return to hold (R21), and
evacuation (R103 to R106). -/

namespace Sys2Proof.Machine

/-! ### Service state and the Delivery Queue -/

/-- R85: the entry becomes Parked: its standing limit timer stops (R122) and its health record is dirty. -/
def State.becomeParked (s : State) (p : Nat) : State :=
  (s.updPrinter p (fun e => { e with service := .parked, limit := .stopped })).mark (healthSlot p)

/-- R85: a Parking printer whose queue is empty becomes Parked. -/
def State.parkIfEmpty (s : State) (p : Nat) : State :=
  if (s.printer p).service = .parking && (s.printer p).queue.isEmpty then s.becomeParked p else s

/-- R88: a job leaves a Delivery Queue; the others keep their order. -/
def State.unqueue (s : State) (p tag : Nat) : State :=
  (s.updPrinter p (fun e => { e with queue := e.queue.filter (· ≠ tag) })).parkIfEmpty p

/-- R88: a job joins a Delivery Queue at the tail; work abandons Settling (R158). -/
def State.enterQueue (s : State) (p tag : Nat) : State :=
  (s.updPrinter p (fun e => { e with queue := e.queue ++ [tag] })).abandonSettling

/-! ### The end of a job (R3) -/

/-- Free the receiving context of a job, its receive idle timer with it (R3, R11). -/
def State.freeContext (s : State) (tag : Nat) : State :=
  { s with jobs := { s.jobs with contexts := s.jobs.contexts.map (fun c =>
      match c with
      | some x => if x.tag = tag then none else some x
      | none => none) } }

/-- R3: free a job's chain and drop its promise. -/
def State.freeSpool (s : State) (j : Job) : State :=
  { s with spool := { s.spool with free := pushChain j.chain s.spool.free, promises := s.spool.promises - j.promise } }

/-- Take a job out of its account's Held List or its Delivery Queue, whichever holds it (R3). -/
def State.leaveCollection (s : State) (j : Job) : State :=
  match j.state with
  | .receiving => s
  | .held => s.unhold j.account j.tag
  | _ => match s.queueOf j.tag with
    | some p => s.unqueue p j.tag
    | none => s

/-- R3: the end of a job, with its end reason. -/
def State.endJob (s : State) (j : Job) (why : EndReason) : State :=
  let printer := if j.state.inDelivery then s.queueOf j.tag else none
  let s1 := ((s.freeSpool j).freeContext j.tag).leaveCollection j
  ((s1.jobStatus j .ended printer (some why) j.charged).dropJob j.tag).spoolLowTest

/-- R3 for the job a tag names. -/
def State.endTag (s : State) (tag : Nat) (why : EndReason) : State :=
  match s.job tag with
  | some j => s.endJob j why
  | none => s

/-! ### Stream control (R89, R90, R94) -/

/-- R89: the chunks of a job, ceil(received bytes / 1,024). -/
def Job.chunks (j : Job) : Nat := ceilDiv j.received Config.chunkBytes

/-- Whether a message is the STREAM_BEGIN of a tag. -/
def OwnMsg.isBeginOf (m : OwnMsg) (tag : Nat) : Bool :=
  match m.body with
  | .streamBegin .. => m.jobTag == tag
  | _ => false

/-- The station code a message for a printer is addressed to. -/
def State.stationOf (s : State) (p : Nat) : Nat := (s.printer p).cfg.station.getD 0

/-- R93, R94: the stall timer from the full stall timeout, suspended while the standing set is not empty. -/
def PrinterOf.stallFromFull (e : Printer) : Timer :=
  if e.standing.isEmpty then .running e.cfg.stallTimeout else .suspended e.cfg.stallTimeout

/-- Start the stall timer again from the full timeout. -/
def State.restartStall (s : State) (p : Nat) : State := s.updPrinter p (fun e => { e with stall := e.stallFromFull })

/-- R90: a stream control message is placed in the F-port Own-frame Queue, or in the control list when that queue is full or
the list is not empty. The placing of a STREAM_BEGIN starts the stall timer (R94). -/
def State.sendControl (s : State) (p : Nat) (m : OwnMsg) : State :=
  if (s.printer p).control.isEmpty && s.fport.room then
    let t := { s with fport := s.fport.place m }
    if m.body = .streamCancel then t else t.restartStall p
  else s.updPrinter p (fun e => { e with control := e.control ++ [m] })

/-- The Printing job leaves Printing: the stall timer stops, and a STREAM_BEGIN still in the control list is withdrawn
(R90, R94, R97). -/
def State.leavePrinting (s : State) (p tag : Nat) : State :=
  s.updPrinter p (fun e => { e with stall := .stopped, control := e.control.filter (fun m => !m.isBeginOf tag) })

/-- R90, R102, R104: stop the stream of the Printing job: STREAM_CANCEL, unless its STREAM_BEGIN was still waiting. Its request
tag is 0 (log 27). -/
def State.cancelStream (s : State) (p tag : Nat) : State :=
  let waiting := (s.printer p).control.any (fun m => m.isBeginOf tag)
  let t := s.leavePrinting p tag
  if waiting then t else t.sendControl p (t.form (t.stationOf p) tag 0 .streamCancel)

/-- R89: start the next stream of a printer when no job of its queue is Printing, one is Released, and its standing set is
empty. The request tag of STREAM_BEGIN is 0 (log 27). -/
def State.startStream (s : State) (p : Nat) : State :=
  if (s.printer p).standing.isEmpty && (s.firstIn p .printing).isNone then
    match s.firstIn p .released with
    | none => s
    | some j =>
      let s1 := s.updJob j.tag (fun x => { x with state := .printing, sent := 0, allowed := 0 })
      let s2 := s1.sendControl p (s1.form (s1.stationOf p) j.tag 0 (.streamBegin j.declaredCounts j.media j.received))
      s2.jobStatus j .printing (some p) none none
  else s

/-! ### Settlement and return to hold (R21, R100) -/

/-- Zero counts. -/
def Counts.zero : Counts := { tm := 0, tc := 0, ts := 0 }

/-- A job's reported counts, absent counts taken as zero (R100). -/
def Job.reportedOrZero (j : Job) : Counts := j.reported.getD Counts.zero

/-- R58, R100: the charge of totals at a job's stored rates. -/
def Job.chargeOf (j : Job) (n : Counts) : Nat :=
  match j.rates with
  | some r => charge n j.media r.row
  | none => 0

/-- R100: settle a job on totals. -/
def State.settleJob (s : State) (tag : Nat) (n : Counts) : State :=
  match s.job tag with
  | none => s
  | some j =>
    (s.settle j.account (j.reservation.getD 0) (j.chargeOf n)).updJob tag
      (fun x => { x with reservation := none, charged := some (j.chargeOf n) })

/-- R21: what a return to hold does to the job record, at an uptime minute. -/
def Job.returned (j : Job) (now : Nat) : Job :=
  { j with rates := none, reservation := none, charged := none, reported := none, sent := 0, allowed := 0
           interrupted := true, expiry := some (max (j.expiry.getD 0) (now + 60)), state := .held, finish := .stopped }

/-- R21: a job returns to hold from a printer. -/
def State.returnToHold (s : State) (p tag : Nat) : State :=
  match s.job tag with
  | none => s
  | some j =>
    let s1 := (s.unqueue p tag).updJob tag (fun x => x.returned s.clock.uptime)
    let a := s1.account j.account
    let s2 := s1.setAccount j.account { a with held := s1.insertHeld tag a.held }
    s2.jobStatus j .held (some p) none none

/-! ### Evacuation (R103 to R106) -/

/-- R104: step 1, the Printing job is stopped. -/
def State.stopPrinting (s : State) (p : Nat) : State :=
  match s.firstIn p .printing with
  | none => s
  | some j => ((s.cancelStream p j.tag).settleJob j.tag j.reportedOrZero).returnToHold p j.tag

/-- R105: step 2 for one Finishing job. -/
def State.endFinishing (s : State) (tag : Nat) : State :=
  match s.job tag with
  | none => s
  | some j => (s.settleJob tag j.reportedOrZero).endTag tag .printed

/-- R106: step 3 for one Released job. -/
def State.reroute (s : State) (p tag : Nat) : State :=
  match s.job tag with
  | none => s
  | some j =>
    let s1 := s.unreserve j.account (j.reservation.getD 0)
    match s1.partner p j with
    | none => s1.returnToHold p tag
    | some t =>
      match s1.reserve j.account (s1.priceAt t j) with
      | none => s1.returnToHold p tag
      | some s2 =>
        let s3 := (s2.unqueue p tag).updJob tag
          (fun x => { x with rates := some (s1.ratesAt t j.account), reservation := some (s1.priceAt t j) })
        (((s3.enterQueue t tag).jobStatus j .released (some t) none none)).startStream t

/-- R103: an evacuation, full or standing. -/
def State.evacuate (s : State) (p : Nat) (full : Bool) : State :=
  let s1 := s.stopPrinting p
  let s2 := if full then ((s1.jobsIn p .finishing).map Job.tag).foldl State.endFinishing s1 else s1
  ((s2.jobsIn p .released).map Job.tag).foldl (fun t tag => t.reroute p tag) s2

end Sys2Proof.Machine
end

