-- ==== Sys2Proof/Machine/HealthUnit.lean ====
section
/-! DEFINITION. The Health Monitor's operations (file 06): the score and its bands (R113, R114, R116, R117), the standing
set and its pause (R120, R122), and presence (R121). -/

namespace Sys2Proof.Machine

/-! ### Score and health -/

/-- R116: send HEALTH_CHANGE for a printer whose state is now `new`. -/
def State.healthChange (s : State) (p : Nat) (old new : Health) : State :=
  s.notify (.healthChange p old new (s.printer p).score)

/-- R116, R117: bring the health state of a printer that is not Withdrawn to the band of its score, with the effects of the
move. -/
def State.moveBand (s : State) (p : Nat) : State :=
  let old := (s.printer p).health
  let new := bandOf (s.printer p).score
  if old = .withdrawn || old = new then s
  else
    let t := (s.updPrinter p (fun e => { e with health := new })).healthChange p old new
    if new.rank < old.rank then (if new.well then t.closeTest p else t)
    else match new with
      | .degraded => t.raiseCallout p .service .degraded
      | .withdrawn => ((t.raiseCallout p .urgent .withdrawn).mark (healthSlot p)).evacuate p true
      | _ => t

/-- R113: a fault of a printer. -/
def State.takeFault (s : State) (p : Nat) (k : FaultKind) : State :=
  let t := s.updPrinter p (fun e => { e with lastFault := some (s.clock.uptime, k), faulted := true })
  if (t.printer p).health = .withdrawn then t
  else (t.updPrinter p (fun e => { e with score := min Config.maxScore (e.score + k.weight) })).moveBand p

/-- R114, R115: lower the score of a printer that is not Withdrawn, with a floor of 0. -/
def State.lowerScore (s : State) (p n : Nat) : State :=
  if (s.printer p).health = .withdrawn then s
  else (s.updPrinter p (fun e => { e with score := e.score - n })).moveBand p

/-- R96 step 2, R98, R99: faces are handed to the Supply Monitor and to the Health Monitor, and added to the lifetime
counters. No face hands nothing on. -/
def State.handFaces (s : State) (p mono colour : Nat) : State :=
  if mono + colour = 0 then s
  else ((s.supplyFaces p mono colour).lowerScore p (mono + colour)).updPrinter p (fun e =>
    { e with lifeMono := min Config.maxLifetime (e.lifeMono + mono)
             lifeColour := min Config.maxLifetime (e.lifeColour + colour) })

/-- R115: one printer at an hour event. -/
def State.quietHour (s : State) (p : Nat) : State :=
  let t := if (s.printer p).faulted then s else s.lowerScore p 8
  t.updPrinter p (fun e => { e with faulted := false })

/-! ### The standing set and the pause (R120, R122) -/

/-- R122: the standing limit timer starts when the printer is In service or Parking. -/
def State.startLimit (s : State) (p : Nat) : State :=
  let e := s.printer p
  if e.service = .inService || e.service = .parking then
    s.updPrinter p (fun e => { e with limit := s.startTimer e.cfg.standingLimit })
  else s

/-- R122: a pause begins: the stall timer is suspended and the standing limit timer starts. -/
def State.beginPause (s : State) (p : Nat) : State :=
  (s.updPrinter p (fun e => { e with stall := e.stall.suspend })).startLimit p

/-- R93, R122: a pause ends: the standing limit timer stops, the stall timer of the Printing job restarts from the full
stall timeout, and a stream may start. -/
def State.endPause (s : State) (p : Nat) : State :=
  (s.updPrinter p (fun e =>
    { e with limit := .stopped
             stall := match e.stall with
               | .suspended _ => .running e.cfg.stallTimeout
               | x => x })).startStream p

/-- Replace a printer's standing set, beginning or ending the pause when it stops or starts being empty (R120, R122). -/
def State.setStanding (s : State) (p : Nat) (x : Standing) : State :=
  let was := (s.printer p).standing.isEmpty
  let t := s.updPrinter p (fun e => { e with standing := x })
  if was && !x.isEmpty then t.beginPause p else if !was && x.isEmpty then t.endPause p else t

/-! ### Presence (R121) -/

/-- R121: UNREACHABLE is removed, the close test is made, and the pause ends when the set is then empty. -/
def State.becomePresent (s : State) (p : Nat) : State :=
  if (s.printer p).standing.unreachable then
    let x := { (s.printer p).standing with unreachable := false }
    let t := (s.updPrinter p (fun e => { e with standing := x })).closeTest p
    if x.isEmpty then t.endPause p else t
  else s

/-- R121: a frame from a printer. -/
def State.frameFrom (s : State) (p : Nat) : State :=
  let t := s.becomePresent p
  if (t.printer p).cfg.mode = .silent then t
  else t.updPrinter p (fun e => { e with presence := t.startTimer e.cfg.presenceInterval })

end Sys2Proof.Machine
end

