-- ==== Sys2Proof/Machine/Operands.lean ====
section
/-! DEFINITION. How a command's operands reach its meaning: what every message passes before its block acts on it. Job
messages (R182, R183, R185), panel requests (R62, R64, R161), printer messages (R121, R160, R182, R183), management
requests (R158, R174, R175), and the expiries and events of the part itself. A meaning gives what its block does; these
operations give the rest, and the end of the step. -/

namespace Sys2Proof.Machine

/-- The outcome of a step. -/
abbrev StepOutcome := Host.Outcome State Fault Refusal

/-- R169: nothing reaches a block while the part has no power or is reading its slots. -/
def State.whenUp (s : State) (act : State → State) : StepOutcome :=
  if s.phase = .up then .next (act s).finish else .next s

/-- R161: a wake source that arrives in Standby begins Waking. -/
def State.wake (s : State) : State :=
  if s.clock.mode = .standby then { s with clock := { s.clock with mode := .waking } } else s

/-- R181, R184: STRAY_STATION becomes pending (R182). -/
def State.stray (s : State) : State := { s with console := { s.console with strayStation := true } }

/-! ### Job messages -/

/-- R182, R183, R185: a job message. It is discarded on the F-port, and while the outgoing list holds 32 messages or more; a
body that does not fit its kind is answered BAD_LENGTH; else the Job Table acts. -/
def jobMessage {α : Type} (h : Hdr) (b : Option α) (act : α → State → State) (s : State) : StepOutcome :=
  s.whenUp (fun s =>
    if h.port = .fleet || decide (Config.outgoingBusy ≤ s.jobs.outgoing.length) then s
    else match b with
      | none => s.jobReply h h.jobTag .badLength 0
      | some x => act x s)

/-! ### Printer messages -/

/-- R182: a printer message is a message of the entry that holds its source station code; on the O-port, or from a station
that no configured entry holds, it is discarded and sets STRAY_STATION. -/
def printerMessage (h : Hdr) (act : Nat → State → State) (s : State) : StepOutcome :=
  s.whenUp (fun s =>
    if h.port = .office then s.stray
    else match s.printerOf h.src with
      | none => s.stray
      | some p => act p s)

/-- R160, R183: GRANT, PAGE_REPORT and STATUS are discarded in Standby and Waking; a body that does not fit its kind is a
frame for presence alone; else the frame is taken (R121) and then the message. -/
def deliveryMessage {α : Type} (h : Hdr) (b : Option α) (act : α → Nat → State → State) (s : State) : StepOutcome :=
  printerMessage h (fun p s =>
    if s.asleep then s
    else match b with
      | none => s.frameFrom p
      | some x => act x p (s.frameFrom p)) s

/-! ### Panel requests -/

/-- A RELEASE_ANSWER to the asking printer (R63). -/
def State.answerPanel (s : State) (h : Hdr) (tag : Nat) (r : Result) (target : Option Nat) (es : List AnswerEntry) :
    State :=
  s.sendAnswer (s.form h.src tag h.reqTag (.releaseAnswer r target es))

/-- What a panel request does once it is authenticated: the state, the result, the target index and the entries. -/
structure PanelAnswer where
  state : State
  result : Result
  target : Option Nat
  entries : List AnswerEntry

/-- R62, R63, R64, R161, R183: a RELEASE_ASK, `act` being the rule of its request, none for a request that is not one of the
four. The frame is taken first (R121). While an answer waits the request is discarded, and is still a wake source unless
it does not fit its kind. -/
def panelRequest (h : Hdr) (b : Option AskBody) (act : Option (Nat → Nat → State → PanelAnswer)) (s : State) :
    StepOutcome :=
  printerMessage h (fun p s0 =>
    let s := s0.frameFrom p
    match b with
    | none => if s.answer.isSome then s else s.answerPanel h h.jobTag .badLength none []
    | some ask =>
      if s.asleep then
        let t := s.wake
        if t.answer.isSome then t else t.answerPanel h 0 .waking none []
      else if s.answer.isSome then s
      else match act with
        | none => s.answerPanel h 0 .unknownRequest none []
        | some f =>
          match s.authenticate ask with
          | (t, .inl r) => t.answerPanel h 0 r none []
          | (t, .inr k) =>
            let r := f p k t
            r.state.answerPanel h 0 r.result r.target r.entries) s

/-! ### Management requests -/

/-- What a management request does once it is carried out: the state, the result and what the reply carries. -/
structure Reply where
  state : State
  result : Result
  body : ReplyBody := .none

/-- R174: an answer that changes nothing. -/
def Reply.refuse (s : State) (r : Result) : Reply := { state := s, result := r }

/-- R5: the classifier's hit for a station code: the matching entry of lowest index, or 24 for DEFAULT. -/
def ClassEntry.isMatch (e : ClassEntry) (station : Nat) : Bool :=
  e.valid && (station &&& e.mask) == (e.value &&& e.mask)

/-- R5: the hit of a station code. -/
def State.hit (s : State) (station : Nat) : Nat :=
  ((s.classifier.find? (fun e => decide (e.1 < 24) && ClassEntry.isMatch e.2 station)).map Prod.fst).getD 24

/-- R158: a MGMT_REQUEST taken while the part is Running and the idle timer runs starts it again, from the idle time that the
settings hold before the request is carried out (log 15). -/
def State.restartIdle (s : State) : State :=
  if s.clock.mode == .running && s.clock.idle.runs then
    { s with clock := { s.clock with idle := .running s.settings.idleTime } }
  else s

/-- R175: reply to a MGMT_REQUEST. -/
def State.reply (s : State) (h : Hdr) (tag : Nat) (r : Result) (body : ReplyBody) : State :=
  s.sendReply (s.form h.src tag h.reqTag (.mgmtReply r body))

/-- R174, R175: a MGMT_REQUEST through its steps 1 to 4, `act` being steps 5 to 7. It is discarded on the F-port (R182), and
while a reply waits. The idle timer starts again before the request is carried out (log 15). -/
def mgmtRequest {α : Type} (h : Hdr) (b : Option α) (act : α → State → Reply) (s : State) : StepOutcome :=
  s.whenUp (fun s0 =>
    if h.port = .fleet || s0.console.reply.isSome then s0
    else
      let s := s0.restartIdle
      match b with
      | none => s.reply h h.jobTag .badLength .none
      | some x =>
        if !(s.classEntry (s.hit h.src)).rights then s.reply h 0 .notPermitted .none
        else if s.asleep then s.wake.reply h 0 .waking .none
        else if s.restartPending then s.reply h 0 .busy .none
        else
          let r := act x s
          r.state.reply h 0 r.result r.body)

/-- The operand of a request that carries none: `fit` says whether the request fits its kind. -/
def noOperand (fit : Bool) : Option Unit := if fit then some () else none

/-- R174 step 6 for a printer index, and the answer NOT_ACCEPTED for an Unused entry. -/
def onPrinter (act : Nat → State → Reply) (p : Nat) (s : State) : Reply :=
  if Config.printers ≤ p then Reply.refuse s .badIndex
  else if (s.printer p).service = .unused then Reply.refuse s .notAccepted
  else act p s

/-- R29, R30, R36: an account index above 4,095 answers BAD_INDEX, and a record that is not valid UNKNOWN_ACCOUNT. -/
def onAccount (act : Nat → State → Reply) (k : Nat) (s : State) : Reply :=
  if Config.accounts ≤ k then Reply.refuse s .badIndex
  else if (s.account k).cfg.valid = false then Reply.refuse s .unknownAccount
  else act k s

/-- R141, R146: an index above 63 answers BAD_INDEX, and an Unused entry or a colorant it does not have NOT_ACCEPTED. -/
def onColorant (act : Nat → Colorant → Supply → State → Reply) (b : Nat × Colorant) (s : State) : Reply :=
  onPrinter (fun p s =>
    match (s.printer p).supply b.2 with
    | none => Reply.refuse s .notAccepted
    | some r => act p b.2 r s) b.1 s

end Sys2Proof.Machine
end

