-- ==== Sys2Proof/Machine/Release.lean ====
section
/-! DEFINITION. The Release Engine (file 04): the release step (R68), the examination of one job (R72), the walk of
RELEASE_ALL (R73), the LIST answer (R70, R71), the direct path (R77), and the meanings of the panel requests. -/

namespace Sys2Proof.Machine

/-- R68: the release of a Held job to a target; none when Reserve fails. -/
def State.releaseJob (s : State) (p : Nat) (j : Job) : Option State :=
  match s.reserve j.account (s.priceAt p j) with
  | none => none
  | some s1 =>
    let s2 := (s1.unhold j.account j.tag).updJob j.tag (fun x =>
      { x with rates := some (s.ratesAt p j.account), reservation := some (s.priceAt p j), state := .released })
    some (((s2.enterQueue p j.tag).jobStatus j .released (some p) none none).startStream p)

/-- R63: the entry of a RELEASE_ANSWER for a job. -/
def Job.answerEntry (j : Job) (price : Nat) (fate : Fate) : AnswerEntry :=
  { tag := j.tag, name := j.name, faces := j.declaredCounts.tm + j.declaredCounts.tc, colour := j.colour, price := price
    fate := fate }

/-- R71: the outcome a LIST shows for a job, and the target it would be released to. It is that of the procedure of R71, which
tests the available quota alone and not the range of reserved that Reserve tests (R32, log 29). -/
def State.listFate (s : State) (a : Nat) (j : Job) : Fate × Option Nat :=
  match s.target a j with
  | none => (s.skipReason a j, none)
  | some t => if (s.account j.account).covers (s.priceAt t j) then (.released, some t) else (.skippedQuota, none)

/-- The first of the targets that is not the asking printer. -/
def firstRedirect (a : Nat) (ts : List (Option Nat)) : Option Nat := (ts.filterMap id).find? (fun t => t ≠ a)

/-- R70, R71: the entries of a LIST answer with the target of each. -/
def State.listEntries (s : State) (a k : Nat) : List (AnswerEntry × Option Nat) :=
  (((s.account k).held.take Config.examineLimit).filterMap s.job).map (fun j =>
    (j.answerEntry (s.priceAt a j) (s.listFate a j).1, (s.listFate a j).2))

/-- R72: one job examined: the state, its entry, and its target when it was released. A job that Reserve fails is not redirected,
whatever its target (log 37). -/
structure Examined where
  state : State
  entry : AnswerEntry
  target : Option Nat

/-- R72: examine one job for a request at `a`. -/
def State.examine (s : State) (a : Nat) (j : Job) : Examined :=
  match s.target a j with
  | none => { state := s, entry := j.answerEntry (s.priceAt a j) (s.skipReason a j), target := none }
  | some t =>
    match s.releaseJob t j with
    | some s1 => { state := s1, entry := j.answerEntry (s.priceAt t j) .released, target := some t }
    | none => { state := s, entry := j.answerEntry (s.priceAt t j) .skippedQuota, target := none }

/-- R73: the walk over the tags given, `n` jobs having been released: the state, the entries and the targets. -/
def State.walk (a : Nat) : List Nat → Nat → State → State × List AnswerEntry × List (Option Nat)
  | [], _, s => (s, [], [])
  | tag :: rest, n, s =>
    if Config.releaseLimit ≤ n then (s, [], [])
    else match s.job tag with
      | none => State.walk a rest n s
      | some j =>
        let x := s.examine a j
        let r := State.walk a rest (if x.target.isSome then n + 1 else n) x.state
        (r.1, x.entry :: r.2.1, x.target :: r.2.2)

/-- R74: the Held job of an account that a tag names. -/
def State.heldJob (s : State) (k tag : Nat) : Option Job :=
  match s.job tag with
  | some j => if j.account = k && j.state == .held then some j else none
  | none => none

/-! ### The four requests -/

/-- R70, R71. -/
def listRule (a k : Nat) (s : State) : PanelAnswer :=
  { state := s, result := .ok, target := firstRedirect a ((s.listEntries a k).map Prod.snd)
    entries := (s.listEntries a k).map Prod.fst }

/-- R72, R73. -/
def releaseAllRule (a k : Nat) (s : State) : PanelAnswer :=
  let r := State.walk a ((s.account k).held.take Config.examineLimit) 0 s
  { state := r.1, result := .ok, target := firstRedirect a r.2.2, entries := r.2.1 }

/-- R74. -/
def releaseOneRule (tag a k : Nat) (s : State) : PanelAnswer :=
  match s.heldJob k tag with
  | none => { state := s, result := .noSuchJob, target := none, entries := [] }
  | some j =>
    let x := s.examine a j
    { state := x.state, result := .ok, target := firstRedirect a [x.target], entries := [x.entry] }

/-- R75. -/
def deleteOneRule (tag k : Nat) (s : State) : PanelAnswer :=
  match s.heldJob k tag with
  | none => { state := s, result := .noSuchJob, target := none, entries := [] }
  | some j => { state := s.endJob j .userCancelled, result := .ok, target := none, entries := [j.answerEntry 0 .deleted] }

/-- LIST (R70). -/
def execList (h : Hdr) (b : Option AskBody) (s : State) : StepOutcome := panelRequest h b (some listRule) s

/-- RELEASE_ALL (R72). -/
def execReleaseAll (h : Hdr) (b : Option AskBody) (s : State) : StepOutcome := panelRequest h b (some releaseAllRule) s

/-- RELEASE_ONE (R74). -/
def execReleaseOne (h : Hdr) (b : Option AskBody) (s : State) : StepOutcome :=
  panelRequest h b (some (releaseOneRule h.jobTag)) s

/-- DELETE_ONE (R75). -/
def execDeleteOne (h : Hdr) (b : Option AskBody) (s : State) : StepOutcome :=
  panelRequest h b (some (fun _ k t => deleteOneRule h.jobTag k t)) s

/-- A RELEASE_ASK whose request is not one of the four (R62 step 2). -/
def execUnknownReleaseRequest (h : Hdr) (b : Option AskBody) (s : State) : StepOutcome := panelRequest h b none s

/-! ### The direct path (R77) -/

/-- R77: the direct path of a job that has just become Held, to a target station. -/
def State.directPath (s : State) (j : Job) (station : Nat) : State :=
  match s.printerOf station with
  | none => s
  | some p =>
    if (s.account j.account).state ≠ .isOpen then s
    else if (s.printer p).eligible j then (s.releaseJob p j).getD s
    else s

end Sys2Proof.Machine
end

