-- ==== Sys2Proof/Machine/Jobs.lean ====
section
/-! DEFINITION. Jobs, intake and the spool (file 01): admission (R7 to R10), reception (R12, R13), the close (R14, R17),
cancelling (R19, R101, R102), expiry (R11, R18) and the meanings of the job messages. -/

namespace Sys2Proof

/-- R8: the size tests. -/
def JobOpenBody.sizeRefusal (b : JobOpenBody) : Option Machine.Result :=
  if b.faces = 0 || b.bytes = 0 then some .emptyJob
  else if 4000 < b.faces || 99 < b.copies || 67108864 < b.bytes then some .tooLarge
  else none

/-- R8: the declared counts, from the adjusted quantities. -/
def JobOpenBody.declaredCounts (b : JobOpenBody) : Machine.Counts :=
  let fc := min b.colourFaces b.faces
  let n := if b.copies = 0 then 1 else b.copies
  let sheets := if b.duplex then ceilDiv b.faces 2 else b.faces
  { tm := (b.faces - fc) * n, tc := fc * n, ts := sheets * n }

/-- R9: the need, in segments. -/
def JobOpenBody.need (b : JobOpenBody) : Nat := ceilDiv b.bytes Config.segmentBytes

/-- R10: the record of an accepted job. -/
def JobOpenBody.record (b : JobOpenBody) (tag origin k hit : Nat) : Machine.Job :=
  { tag := tag, origin := origin, account := k, hit := hit, declaredCounts := b.declaredCounts, media := b.media
    target := if b.target = 0 then none else some b.target
    name := if b.name.isEmpty then none else some b.name
    declared := b.bytes, received := 0, chain := [], promise := b.need, stamp := none, expiry := none
    state := .receiving, rates := none, reservation := none, charged := none, reported := none, sent := 0, allowed := 0
    interrupted := false, finish := .stopped }

end Sys2Proof

namespace Sys2Proof.Machine

/-! ### Admission (R2, R7 to R10) -/

/-- R2: the tag after another. -/
def nextTag (t : Nat) : Nat := if 65535 ≤ t then 1 else t + 1

/-- R2: the first tag after the last issued that no record holds, in at most `n` passes over held ones. -/
def State.freeTag (s : State) : Nat → Nat → Nat
  | 0, t => nextTag t
  | n + 1, t => if (s.job (nextTag t)).isSome then s.freeTag n (nextTag t) else nextTag t

/-- R7 step 3: the account a JOB_OPEN is charged to: the account found, or the guest account of the hit. -/
def State.accountFor (s : State) (number hit : Nat) : Option Nat :=
  match s.accountOfNumber number with
  | some k => some k
  | none => (s.classEntry hit).guest.filter (fun g => (s.account g).cfg.valid)

/-- The records of an account in the Job Table. -/
def State.jobsOf (s : State) (k : Nat) : List Job := s.jobs.recs.filter (fun j => j.account == k)

/-- R7 step 4. -/
def State.noHoldRoom (s : State) (k : Nat) : Bool :=
  decide ((s.account k).cfg.heldCap ≤
    (s.account k).held.length + ((s.jobsOf k).filter (fun j => j.state == .receiving)).length)
    || decide (Config.accountJobs ≤ (s.jobsOf k).length)

/-- R7: the tests of a JOB_OPEN in order: the refusal, or the account and the classifier hit. -/
def State.admission (s : State) (h : Hdr) (b : JobOpenBody) : Result ⊕ (Nat × Nat) :=
  let hit := s.hit h.src
  if (s.classEntry hit).policy = .refuse then .inl .notAccepted
  else if s.jobs.contexts.all Option.isSome then .inl .busy
  else match s.accountFor b.account hit with
    | none => .inl .unknownAccount
    | some k =>
      if (s.account k).state ≠ .isOpen then .inl .accountBlocked
      else if s.noHoldRoom k then .inl .holdLimit
      else match b.sizeRefusal with
        | some r => .inl r
        | none =>
          if s.spool.headroom < Config.intakeReserve + b.need then .inl .spoolLow
          else if Config.jobRecords ≤ s.jobs.recs.length then .inl .busy
          else .inr (k, hit)

/-- Give a job the free receiving context of lowest index (log 8). -/
def takeContext (x : Context) : List (Option Context) → List (Option Context)
  | [] => []
  | none :: t => some x :: t
  | some y :: t => some y :: takeContext x t

/-- R10: a JOB_OPEN is accepted. A job that becomes Receiving abandons Settling (R158). -/
def State.acceptJob (s : State) (h : Hdr) (b : JobOpenBody) (k hit : Nat) : State :=
  let tag := s.freeTag s.jobs.recs.length s.jobs.lastTag
  let s1 : State := { s with
    jobs := { s.jobs with
      recs := s.jobs.recs ++ [b.record tag h.src k hit], lastTag := tag
      contexts := takeContext { tag := tag, idle := .running Config.receiveIdleSeconds } s.jobs.contexts }
    spool := { s.spool with promises := s.spool.promises + b.need } }
  ((s1.abandonSettling).jobReply h tag .ok 0).spoolLowTest

/-- R7, R161: a JOB_OPEN examined. -/
def openJob (h : Hdr) (b : JobOpenBody) (s : State) : State :=
  if s.asleep then s.wake.jobReply h 0 .waking 0
  else match s.admission h b with
    | .inl r => s.jobReply h 0 r 0
    | .inr (k, hit) => s.acceptJob h b k hit

/-- JOB_OPEN (R7). -/
def execJobOpen (h : Hdr) (b : Option JobOpenBody) (s : State) : StepOutcome := jobMessage h b (openJob h) s

/-! ### Reception (R12, R13) -/

/-- The job a message names by its tag, its origin being the source station (R12, R14, R19). -/
def State.jobFrom (s : State) (h : Hdr) : Option Job := (s.job h.jobTag).filter (fun j => j.origin == h.src)

/-- R13: take the segment at the head of the Free Segment List into a job's chain, against its promise. -/
def State.takeSegment (s : State) (tag : Nat) : State :=
  match takeHead s.spool.free with
  | none => s
  | some (g, rest) =>
    ({ s with spool := { s.spool with free := rest, promises := s.spool.promises - 1 } } : State).updJob tag
      (fun j => { j with chain := j.chain ++ [g], promise := j.promise - 1 })

/-- Start the receive idle timer of a job's context again (R11, R12). -/
def State.restartReceiveIdle (s : State) (tag : Nat) : State :=
  { s with jobs := { s.jobs with contexts := s.jobs.contexts.map (fun c =>
      match c with
      | some x => if x.tag = tag then some { x with idle := .running Config.receiveIdleSeconds } else some x
      | none => none) } }

/-- R12, R183: whether the data of a JOB_DATA is of a length that fits its kind. -/
def dataFits (d : JobDataBody) : Bool := decide (1 ≤ d.data.length ∧ d.data.length ≤ Config.dataBytes)

/-- R12, R13: received bytes rise by `n`, a segment being taken first when the data reach beyond the chain. -/
def State.extendJob (s : State) (j : Job) (n : Nat) : State :=
  (if j.chain.length * Config.segmentBytes < j.received + n then s.takeSegment j.tag else s).updJob j.tag
    (fun x => { x with received := x.received + n })

/-- R12: data accepted for a job: a segment is taken when the data reach beyond the chain, received bytes rise, the bytes are
written, and the idle timer restarts. -/
def State.acceptData (s : State) (j : Job) (d : JobDataBody) : State :=
  let s1 := s.extendJob j d.data.length
  let chain := ((s1.job j.tag).map Job.chain).getD []
  State.restartReceiveIdle { s1 with spool := { s1.spool with mem := writeData chain d.data d.offset s1.spool.mem } } j.tag

/-- R12: a JOB_DATA examined. Data that are none, or more than 1,400 bytes, do not fit the kind (R183). -/
def takeData (h : Hdr) (d : JobDataBody) (s : State) : State :=
  if dataFits d then
    match s.jobFrom h with
    | none => s.jobReply h h.jobTag .noSuchJob 0
    | some j =>
      if j.state ≠ .receiving then s.jobReply h h.jobTag .tooLate 0
      else if d.offset ≠ j.received then s.jobReply h h.jobTag .outOfOrder j.received
      else if j.declared < d.offset + d.data.length then s.jobReply h h.jobTag .tooLarge 0
      else (s.acceptData j d).jobReply h h.jobTag .ok (j.received + d.data.length)
  else s.jobReply h h.jobTag .badLength 0

/-- JOB_DATA (R12). -/
def execJobData (h : Hdr) (b : Option JobDataBody) (s : State) : StepOutcome := jobMessage h b (takeData h) s

/-! ### The close (R14, R17) -/

/-- R14 steps 1 to 3, R17: the promise is dropped, the context freed, and the job becomes Held at the tail of its account's
Held List with its hold stamp and expiry. -/
def State.becomeHeld (s : State) (j : Job) : State :=
  let s1 := ({ s with spool := { s.spool with promises := s.spool.promises - j.promise } } : State).updJob j.tag (fun x =>
    { x with promise := 0, state := .held, stamp := some (s.clock.uptime, s.jobs.holdSeq)
             expiry := some (s.clock.uptime + (s.classEntry j.hit).hold * 60) })
  let s2 := s1.spoolLowTest.freeContext j.tag
  let s3 : State := { s2 with jobs := { s2.jobs with
    holdSeq := if Config.maxHoldSeq ≤ s.jobs.holdSeq then 0 else s.jobs.holdSeq + 1 } }
  let a := s3.account j.account
  s3.setAccount j.account { a with held := a.held ++ [j.tag] }

/-- R14, R76: an accepted close, with the direct path when the policy of the hit is DIRECT and the job has a target. -/
def State.acceptClose (s : State) (h : Hdr) (j : Job) : State :=
  let t := ((s.becomeHeld j).jobReply h h.jobTag .ok 0).jobStatus j .held none none none
  match j.target with
  | some station => if (s.classEntry j.hit).policy = .direct then t.directPath j station else t
  | none => t

/-- R14: a JOB_CLOSE examined. A close with no byte received forms its JOB_REPLY EMPTY_JOB before the JOB_STATUS Ended (log 36). -/
def closeJob (h : Hdr) (total : Nat) (s : State) : State :=
  match s.jobFrom h with
  | none => s.jobReply h h.jobTag .noSuchJob 0
  | some j =>
    if j.state ≠ .receiving then
      s.jobReply h h.jobTag (if total = j.received then .ok else .noSuchJob) 0
    else if total ≠ j.received then s.jobReply h h.jobTag .outOfOrder j.received
    else if j.received = 0 then (s.jobReply h h.jobTag .emptyJob 0).endJob j .refused
    else s.acceptClose h j

/-- JOB_CLOSE (R14). -/
def execJobClose (h : Hdr) (total : Option Nat) (s : State) : StepOutcome := jobMessage h total (closeJob h) s

/-! ### Cancel (R19, R101, R102) -/

/-- R101: a JOB_CANCEL of a Released job. -/
def State.cancelReleased (s : State) (h : Hdr) (j : Job) : State :=
  let s1 := ((s.unreserve j.account (j.reservation.getD 0)).updJob j.tag (fun x => { x with reservation := none }))
  (s1.jobReply h h.jobTag .ok 0).endTag j.tag .userCancelled

/-- R102: a JOB_CANCEL of a Printing job. -/
def State.cancelPrinting (s : State) (h : Hdr) (j : Job) : State :=
  match s.queueOf j.tag with
  | none => s
  | some p =>
    let s1 := (s.cancelStream p j.tag).settleJob j.tag j.reportedOrZero
    ((s1.jobReply h h.jobTag .ok 0).endTag j.tag .userCancelled).startStream p

/-- R19: a JOB_CANCEL examined. -/
def cancelJob (h : Hdr) (s : State) : State :=
  match s.jobFrom h with
  | none => s.jobReply h h.jobTag .noSuchJob 0
  | some j =>
    match j.state with
    | .receiving => (s.jobReply h h.jobTag .ok 0).endJob j .userCancelled
    | .held => (s.jobReply h h.jobTag .ok 0).endJob j .userCancelled
    | .released => s.cancelReleased h j
    | .printing => s.cancelPrinting h j
    | .finishing => s.jobReply h h.jobTag .tooLate 0

/-- JOB_CANCEL (R19). -/
def execJobCancel (h : Hdr) (fit : Bool) (s : State) : StepOutcome :=
  jobMessage h (noOperand fit) (fun _ => cancelJob h) s

/-! ### Expiry (R11, R18) -/

/-- RECEIVE_IDLE_EXPIRY (R11): the job of a context whose receive idle timer runs ends ABANDONED. -/
def execReceiveIdleExpiry (context : Nat) (s : State) : StepOutcome :=
  s.whenUp (fun s =>
    match s.jobs.contexts[context]? with
    | some (some x) => if x.idle.runs then s.endTag x.tag .abandoned else s
    | _ => s)

/-- Insert a job by its hold stamp into a list of jobs in stamp order. -/
def insertByStamp (j : Job) : List Job → List Job
  | [] => [j]
  | x :: t => if stampBefore (j.stamp.getD (0, 0)) (x.stamp.getD (0, 0)) then j :: x :: t else x :: insertByStamp j t

/-- R18: the Held jobs whose expiry has been reached, in the order of their hold stamps. -/
def State.expiring (s : State) : List Job :=
  (s.jobs.recs.filter (fun j => j.state == .held && decide (j.expiry.getD 0 ≤ s.clock.uptime))).foldr insertByStamp []

/-- R18: hold expiry. -/
def State.expireHeld (s : State) : State := (s.expiring.map Job.tag).foldl (fun t g => t.endTag g .expired) s

/-- PURGE_JOB (R20). -/
def purgeRule (tag : Nat) (s : State) : Reply :=
  match s.job tag with
  | none => Reply.refuse s .noSuchJob
  | some j => if j.state.inDelivery then Reply.refuse s .tooLate else { state := s.endJob j .purged, result := .ok }

/-- PURGE_JOB (R20). -/
def execPurgeJob (h : Hdr) (tag : Option Nat) (s : State) : StepOutcome := mgmtRequest h tag purgeRule s

end Sys2Proof.Machine
end

