-- ==== Sys2Proof/Machine/Printers.lean ====
section
/-! DEFINITION. What a printer sends, what its timers do, and the console's commands on printers (files 05, 06, 07): the
meanings of GRANT, PAGE_REPORT, STATUS, FAULT, the expiries of a printer's timers, the hour event, and the commands PARK to
CARTRIDGE_REPLACED. -/

namespace Sys2Proof.Machine

/-! ### Messages of the stream (R91, R95 to R97) -/

/-- R91: a GRANT taken from a printer. -/
def grantRule (h : Hdr) (n p : Nat) (s : State) : State :=
  if !(s.printer p).queue.contains h.jobTag then s.takeFault p .streamError
  else match s.job h.jobTag with
    | none => s
    | some j =>
      if j.state = .printing && decide (j.allowed < n) then
        (s.updJob j.tag (fun x => { x with allowed := n })).restartStall p
      else s

/-- GRANT (R91). -/
def execGrant (h : Hdr) (chunks : Option Nat) (s : State) : StepOutcome :=
  deliveryMessage h chunks (grantRule h) s

/-- R96 step 1: each reported count becomes the greater of the two. -/
def Counts.raise (old : Counts) (r : PageReportBody) : Counts :=
  { tm := max old.tm r.mono, tc := max old.tc r.colour, ts := max old.ts r.sheets }

/-- R97: a final PAGE_REPORT ends its job. -/
def State.finalReport (s : State) (p : Nat) (j : Job) (n : Counts) (cancelled : Bool) : State :=
  let s1 := if j.state = .printing then s.leavePrinting p j.tag else s
  ((s1.settleJob j.tag n).endTag j.tag (if cancelled then .printerCancelled else .printed)).startStream p

/-- R96: a PAGE_REPORT that names the Printing or a Finishing job. -/
def State.takePageReport (s : State) (p : Nat) (j : Job) (r : PageReportBody) : State :=
  let old := j.reportedOrZero
  let n := old.raise r
  let s1 := (s.updJob j.tag (fun x => { x with reported := some n })).handFaces p (n.tm - old.tm) (n.tc - old.tc)
  let s2 := if j.state = .printing then s1.restartStall p
            else s1.updJob j.tag (fun x => { x with finish := .running Config.finishSeconds })
  if r.final then s2.finalReport p j n r.cancelled else s2

/-- R95, R96: a PAGE_REPORT taken from a printer. -/
def pageReportRule (h : Hdr) (r : PageReportBody) (p : Nat) (s : State) : State :=
  if (s.printer p).cfg.mode = .silent then s
  else if !(s.printer p).queue.contains h.jobTag then s.takeFault p .streamError
  else match s.job h.jobTag with
    | none => s
    | some j => if j.state = .printing || j.state = .finishing then s.takePageReport p j r else s

/-- PAGE_REPORT (R96). -/
def execPageReport (h : Hdr) (b : Option PageReportBody) (s : State) : StepOutcome :=
  deliveryMessage h b (pageReportRule h) s

/-! ### STATUS and FAULT (R112, R120, R138) -/

/-- R120: the standing set a STATUS leaves. -/
def Standing.reported (x : Standing) (r : StatusBody) : Standing :=
  { jam := r.jam, mediaOut := r.mediaOut, doorOpen := r.doorOpen, unreachable := x.unreachable }

/-- R120, R138: a STATUS taken from a printer, the Health Monitor first, then the colorant part of a FULL printer. -/
def statusRule (r : StatusBody) (p : Nat) (s : State) : State :=
  let t := (s.setStanding p ((s.printer p).standing.reported r)).closeTest p
  if (t.printer p).cfg.mode = .full then t.takeReports p r.reports else t

/-- STATUS (R120). -/
def execStatus (h : Hdr) (b : Option StatusBody) (s : State) : StepOutcome := deliveryMessage h b statusRule s

/-- R112: the fault kind of a FAULT message, taken as a frame and as a fault. -/
def State.takeFaultMessage (s : State) (p code : Nat) : State :=
  match faultOfCode code with
  | some k => (s.frameFrom p).takeFault p k
  | none => s.frameFrom p

/-- R161: a FAULT that begins Waking or arrives in Waking is kept if fewer than 8 are. -/
def State.keepFault (s : State) (p code : Nat) : State :=
  let t := s.wake
  if t.clock.kept.length < Config.keptFaults then
    { t with clock := { t.clock with kept := t.clock.kept ++ [(p, code)] } }
  else t

/-- FAULT (R112, R161). -/
def execFault (h : Hdr) (kind : Option Nat) (s : State) : StepOutcome :=
  printerMessage h (fun p t =>
    match kind with
    | none => if t.asleep then t else t.frameFrom p
    | some code => if t.asleep then t.keepFault p code else t.takeFaultMessage p code) s

/-! ### Expiries (R94, R98, R121, R123, R126) and the hour event (R115) -/

/-- R94: the stall timer of the Printing job expires. The next stream may start once the fault is taken (log 13). -/
def State.stallExpiry (s : State) (p : Nat) : State :=
  match s.firstIn p .printing with
  | none => s
  | some j =>
    ((((s.cancelStream p j.tag).settleJob j.tag j.reportedOrZero).returnToHold p j.tag).takeFault p .stall).startStream p

/-- STALL_TIMER_EXPIRY (R94). -/
def execStallTimerExpiry (p : Nat) (s : State) : StepOutcome :=
  s.whenUp (fun s => if (s.printer p).stall.runs then s.stallExpiry p else s)

/-- R98: the finish timer of a Finishing job expires. -/
def State.finishExpiry (s : State) (p : Nat) (j : Job) : State :=
  let r := j.reportedOrZero
  let s1 := s.handFaces p (j.declaredCounts.tm - r.tm) (j.declaredCounts.tc - r.tc)
  ((s1.settleJob j.tag j.declaredCounts).endTag j.tag .printed).takeFault p .reportMissing

/-- FINISH_TIMER_EXPIRY (R98). -/
def execFinishTimerExpiry (tag : Nat) (s : State) : StepOutcome :=
  s.whenUp (fun s =>
    match s.job tag, s.queueOf tag with
    | some j, some p => if j.state = .finishing && j.finish.runs then s.finishExpiry p j else s
    | _, _ => s)

/-- PRESENCE_TIMER_EXPIRY (R121): UNREACHABLE joins the standing set; the timer does not run while the printer is Absent. -/
def execPresenceTimerExpiry (p : Nat) (s : State) : StepOutcome :=
  s.whenUp (fun s =>
    if (s.printer p).presence.runs then
      (s.updPrinter p (fun e => { e with presence := .stopped })).setStanding p
        { (s.printer p).standing with unreachable := true }
    else s)

/-- STANDING_LIMIT_EXPIRY (R123). -/
def execStandingLimitExpiry (p : Nat) (s : State) : StepOutcome :=
  s.whenUp (fun s =>
    if (s.printer p).limit.runs then
      ((s.updPrinter p (fun e => { e with limit := .stopped })).evacuate p false).raiseCallout p .attention
        (.standingLimit (s.printer p).standing)
    else s)

/-- RENOTIFY_TIMER_EXPIRY (R126). -/
def execRenotifyTimerExpiry (record : Nat) (s : State) : StepOutcome := s.whenUp (fun s => s.renotifyCallout record)

/-- R115: the hour event, over every configured entry in ascending printer index. -/
def State.hourDecay (s : State) : State := s.configured.foldl State.quietHour s

/-! ### Service state (R85 to R87) -/

/-- R85. -/
def parkRule (p : Nat) (s : State) : Reply :=
  if (s.printer p).service = .inService then
    if (s.printer p).queue.isEmpty then { state := s.becomeParked p, result := .ok }
    else { state := (s.updPrinter p (fun e => { e with service := .parking })).mark (healthSlot p), result := .ok }
  else { state := s, result := .ok }

/-- PARK (R85). -/
def execPark (h : Hdr) (printer : Option Nat) (s : State) : StepOutcome := mgmtRequest h printer (onPrinter parkRule) s

/-- R86, R122: UNPARK of a Parked printer starts the standing limit timer when the standing set is not empty. -/
def unparkRule (p : Nat) (s : State) : Reply :=
  match (s.printer p).service with
  | .parked =>
    let t := (s.updPrinter p (fun e => { e with service := .inService })).mark (healthSlot p)
    { state := if (t.printer p).standing.isEmpty then t else t.startLimit p, result := .ok }
  | .parking => { state := (s.updPrinter p (fun e => { e with service := .inService })).mark (healthSlot p), result := .ok }
  | _ => { state := s, result := .ok }

/-- UNPARK (R86). -/
def execUnpark (h : Hdr) (printer : Option Nat) (s : State) : StepOutcome :=
  mgmtRequest h printer (onPrinter unparkRule) s

/-- R87. -/
def parkNowRule (p : Nat) (s : State) : Reply :=
  if (s.printer p).service = .parked then { state := s, result := .ok }
  else { state := (s.evacuate p true).becomeParked p, result := .ok }

/-- PARK_NOW (R87). -/
def execParkNow (h : Hdr) (printer : Option Nat) (s : State) : StepOutcome :=
  mgmtRequest h printer (onPrinter parkNowRule) s

/-! ### Health (R118, R119) -/

/-- R118. -/
def withdrawRule (p : Nat) (s : State) : Reply :=
  let old := (s.printer p).health
  if old = .withdrawn then { state := s, result := .ok }
  else
    let t := (s.updPrinter p (fun e => { e with health := .withdrawn })).healthChange p old .withdrawn
    { state := (t.mark (healthSlot p)).evacuate p true, result := .ok }

/-- WITHDRAW (R118). -/
def execWithdraw (h : Hdr) (printer : Option Nat) (s : State) : StepOutcome :=
  mgmtRequest h printer (onPrinter withdrawRule) s

/-- R119. -/
def reinstateRule (p : Nat) (s : State) : Reply :=
  let old := (s.printer p).health
  let s1 := s.updPrinter p (fun e => { e with score := 0, health := .active })
  let s2 := if old = .active then s1 else s1.healthChange p old .active
  let s3 := if old = .withdrawn then s2.mark (healthSlot p) else s2
  { state := s3.closeTest p, result := .ok }

/-- REINSTATE (R119). -/
def execReinstate (h : Hdr) (printer : Option Nat) (s : State) : StepOutcome :=
  mgmtRequest h printer (onPrinter reinstateRule) s

/-! ### Callouts (R127, R129) -/

/-- R127. -/
def ackRule (p : Nat) (s : State) : Reply :=
  if Config.printers ≤ p then Reply.refuse s .badIndex
  else match s.calloutOf p with
    | none => Reply.refuse s .notAccepted
    | some i =>
      match s.callout i with
      | none => Reply.refuse s .notAccepted
      | some c =>
        if c.acknowledged then { state := s, result := .ok }
        else { state := (s.setCallout i (some { c with acknowledged := true, timer := .stopped })).mark (calloutSlot i)
               result := .ok }

/-- ACK_CALLOUT (R127). -/
def execAckCallout (h : Hdr) (printer : Option Nat) (s : State) : StepOutcome := mgmtRequest h printer ackRule s

/-- R129. -/
def closeCalloutRule (p : Nat) (s : State) : Reply :=
  if Config.printers ≤ p then Reply.refuse s .badIndex
  else match s.calloutOf p with
    | some i => { state := (s.closeRecord i .console).offerCallout i, result := .ok }
    | none =>
      if (s.printer p).owed.isSome then { state := s.setOwed p none, result := .ok } else Reply.refuse s .notAccepted

/-- CLOSE_CALLOUT (R129). -/
def execCloseCallout (h : Hdr) (printer : Option Nat) (s : State) : StepOutcome :=
  mgmtRequest h printer closeCalloutRule s

/-! ### Orders and cartridges (R141, R146, R148, R149) -/

/-- R148. -/
def confirmRule (p : Nat) (col : Colorant) (_ : Supply) (s : State) : Reply :=
  match s.orderOf p col with
  | none => Reply.refuse s .notAccepted
  | some i =>
    match s.reorder i with
    | none => Reply.refuse s .notAccepted
    | some o =>
      if o.confirmed then { state := s, result := .ok }
      else { state := (s.setReorder i (some { o with confirmed := true })).mark (reorderSlot i), result := .ok }

/-- CONFIRM_ORDER (R148). -/
def execConfirmOrder (h : Hdr) (b : Option (Nat × Colorant)) (s : State) : StepOutcome :=
  mgmtRequest h b (onColorant confirmRule) s

/-- R149. -/
def cancelRule (p : Nat) (col : Colorant) (r : Supply) (s : State) : Reply :=
  match s.orderOf p col with
  | some i =>
    let t := (s.setSupply p col { r with armed := false }).closeReorder i (.closed .console)
    { state := t.offerReorder i, result := .ok }
  | none =>
    if r.owed then { state := s.setSupply p col { r with armed := false, owed := false }, result := .ok }
    else Reply.refuse s .notAccepted

/-- CANCEL_ORDER (R149). -/
def execCancelOrder (h : Hdr) (b : Option (Nat × Colorant)) (s : State) : StepOutcome :=
  mgmtRequest h b (onColorant cancelRule) s

/-- R141. -/
def cartridgeRule (p : Nat) (col : Colorant) (r : Supply) (s : State) : Reply :=
  let t := s.setSupply p col { r with remaining := r.cfg.yield, empty := false }
  { state := (t.cartridgeChange p col).reorderTest p col, result := .ok }

/-- CARTRIDGE_REPLACED (R141). -/
def execCartridgeReplaced (h : Hdr) (b : Option (Nat × Colorant)) (s : State) : StepOutcome :=
  mgmtRequest h b (onColorant cartridgeRule) s

end Sys2Proof.Machine
end

