-- ==== Sys2Proof/Machine/Clock.lean ====
section
/-! DEFINITION. The Fleet Clock (file 08): minute, hour and midnight (R153 to R156), SET_CLOCK (R157), the standby states
(R158, R159), wake completion (R131, R162), the period roll commands (R41), and the checkpoint timer (R168). -/

namespace Sys2Proof.Machine

/-! ### Hours and midnights (R153, R154) -/

/-- R115, R153: take the hour event of the last minute event, if it is not yet taken (log 3). -/
def State.takeHour (s : State) : State :=
  if s.clock.hourRaised then State.hourDecay { s with clock := { s.clock with hourRaised := false } } else s

/-- R154, R156: the rolls of a midnight that brings the calendar to a day: the day roll, and then the period roll when that day
is the next-roll day. -/
def State.midnightRolls (s : State) (day : Nat) : State :=
  let t := s.dayRoll
  if day = t.settings.nextRollDay then t.periodRoll t.nextRollScheduled true else t

/-- R154, R155, R160: calendar midnight. At the end of day 65,535 the calendar becomes Unset, with no roll; in Standby and
Waking the midnight is counted toward the roll of wake completion. -/
def State.midnight (s : State) : State :=
  match s.clock.calendar with
  | none => s
  | some c =>
    if Config.lastDay ≤ c.day then { s with clock := { s.clock with calendar := none } }
    else
      let t : State := { s with clock := { s.clock with calendar := some { day := c.day + 1, minute := 0 } } }
      if s.asleep then { t with clock := { t.clock with midnights := s.clock.midnights + 1 } }
      else t.midnightRolls (c.day + 1)

/-- R154: take the midnight of the last minute event, if it is not yet taken (log 3). -/
def State.takeMidnight (s : State) : State :=
  if s.clock.midnightRaised then State.midnight { s with clock := { s.clock with midnightRaised := false } } else s

/-- Take whatever the last minute event raised and nothing has taken yet (log 3). -/
def State.takeRaised (s : State) : State := s.takeHour.takeMidnight

/-- R153: uptime rises by 1; past the end of its range it becomes a free value (log 6). -/
def State.advanceUptime (s : State) : State :=
  let n := if s.clock.uptime < Config.maxUptime then s.clock.uptime + 1 else (Config.uptimePastEnd s.freeCount).toNat
  { s with clock := { s.clock with uptime := n, hourRaised := n % 60 == 0 }
           freeCount := if s.clock.uptime < Config.maxUptime then s.freeCount else s.freeCount + 1 }

/-- R154: the minute of the day rises by 1; at 1,439 it passes midnight. -/
def State.advanceCalendar (s : State) : State :=
  match s.clock.calendar with
  | none => s
  | some c =>
    if c.minute < Config.lastMinute then
      { s with clock := { s.clock with calendar := some { c with minute := c.minute + 1 } } }
    else { s with clock := { s.clock with midnightRaised := true } }

/-- R18, R153, R160: the minute event. Hold expiry is not tested in Standby and Waking. -/
def State.minute (s : State) : State :=
  let t := s.takeRaised.advanceUptime
  (if t.asleep then t else t.expireHeld).advanceCalendar

/-- MINUTE_EVENT (R153). -/
def execMinuteEvent (s : State) : StepOutcome := s.whenUp State.minute

/-- HOUR_EVENT (R115). -/
def execHourEvent (s : State) : StepOutcome := s.whenUp State.takeHour

/-- CALENDAR_MIDNIGHT (R154). -/
def execCalendarMidnight (s : State) : StepOutcome := s.whenUp State.takeMidnight

/-! ### SET_CLOCK (R157) -/

/-- R157: the rolls of a SET_CLOCK to day `d`, from the calendar before it. -/
def State.clockRolls (s : State) (before : Option Calendar) (d : Nat) : State :=
  let later := match before with
    | some c => decide (c.day < d)
    | none => false
  let t := if later then s.dayRoll else s
  if (later || before.isNone) && decide (t.settings.nextRollDay ≤ d) then t.periodRoll t.nextRollCaught true else t

/-- R157. -/
def setClockRule (b : Nat × Nat) (s : State) : Reply :=
  if Config.lastDay < b.1 || Config.lastMinute < b.2 then Reply.refuse s .notAccepted
  else
    let t := s.takeRaised
    { state := State.clockRolls { t with clock := { t.clock with calendar := some { day := b.1, minute := b.2 } } }
        t.clock.calendar b.1
      result := .ok }

/-- SET_CLOCK (R157). -/
def execSetClock (h : Hdr) (b : Option (Nat × Nat)) (s : State) : StepOutcome := mgmtRequest h b setClockRule s

/-! ### The roll commands (R41) -/

/-- R41. -/
def rollRule (announce : Bool) (s : State) : Reply := { state := s.periodRoll s.nextRollCaught announce, result := .ok }

/-- ROLL_PERIOD (R41). -/
def execRollPeriod (h : Hdr) (fit : Bool) (s : State) : StepOutcome :=
  mgmtRequest h (noOperand fit) (fun _ => rollRule true) s

/-- FORCE_ROLL (R41). -/
def execForceRoll (h : Hdr) (fit : Bool) (s : State) : StepOutcome :=
  mgmtRequest h (noOperand fit) (fun _ => rollRule false) s

/-! ### Standby (R158, R159) -/

/-- IDLE_TIMER_EXPIRY (R158): a running idle timer expires and the part enters Settling. -/
def execIdleTimerExpiry (s : State) : StepOutcome :=
  s.whenUp (fun s =>
    if s.clock.mode == .running && s.clock.idle.runs && s.idleCondition then s.takeRaised.enterSettling else s)

/-- STORE_DRAIN_COMPLETE (R159): in Settling, with the drain complete, the part enters Standby. -/
def execStoreDrainComplete (s : State) : StepOutcome :=
  s.whenUp (fun s =>
    if s.clock.mode == .settling && s.drained then
      let t := s.takeRaised
      if t.drained then t.enterStandby else t
    else s)

/-- R159. -/
def standbyRule (s : State) : Reply :=
  if s.clock.mode = .settling then { state := s, result := .ok }
  else if s.idleCondition then { state := s.takeRaised.enterSettling, result := .ok }
  else Reply.refuse s .busy

/-- STANDBY (R159). -/
def execStandby (h : Hdr) (fit : Bool) (s : State) : StepOutcome :=
  mgmtRequest h (noOperand fit) (fun _ => standbyRule) s

/-! ### Wake completion (R131, R162) -/

/-- R162: the rolls of wake completion, the day roll before the period roll. -/
def State.wakeRolls (s : State) : State :=
  match s.clock.calendar with
  | none => s
  | some c =>
    let t := if 0 < s.clock.midnights then s.dayRoll else s
    if t.settings.nextRollDay ≤ c.day then t.periodRoll t.nextRollCaught true else t

/-- R131 steps 1 and 2 for one entry: the presence timer of a Present printer that is not SILENT starts from its full
interval, and the standing limit timer runs on. -/
def PrinterOf.woken (e : Printer) : Printer :=
  { e with
    limit := e.limit.carryOn
    presence := if e.service != .unused && e.cfg.mode != .silent && !e.standing.unreachable
                then .running e.cfg.presenceInterval else .stopped }

/-- R131 steps 1 and 2: the Health Monitor's timers at wake completion. -/
def State.resumeTimers (s : State) : State :=
  { s with
    printers := s.printers.mapAll printerFactory PrinterOf.woken
    callouts := s.callouts.mapAll none (fun c => c.map (fun r => { r with timer := r.timer.carryOn })) }

/-- R131 step 3: the kept FAULT messages are taken in the order of their arrival. -/
def State.takeKept (s : State) : State :=
  s.clock.kept.foldl (fun t f => t.takeFaultMessage f.1 f.2) { s with clock := { s.clock with kept := [] } }

/-- R162: wake completion: the rolls, then the Job Table, then the Health Monitor. The checkpoint timer starts from the full
interval (R168). -/
def State.awaken (s : State) : State :=
  let t := s.takeRaised
  let s1 : State := { t with clock := { t.clock with mode := .running }
                             store := { t.store with checkpoint := .running t.settings.checkpoint } }
  let s2 := s1.wakeRolls
  let s3 : State := { s2 with clock := { s2.clock with midnights := 0 } }
  s3.expireHeld.resumeTimers.takeKept

/-- WAKE_COMPLETION (R162). -/
def execWakeCompletion (s : State) : StepOutcome :=
  s.whenUp (fun s => if s.clock.mode = .waking then s.awaken else s)

/-! ### The checkpoint timer (R168) -/

/-- CHECKPOINT_TIMER_EXPIRY (R168): a checkpoint occasion; the timer starts again from the full interval. -/
def execCheckpointTimerExpiry (s : State) : StepOutcome :=
  s.whenUp (fun s =>
    if s.store.checkpoint.runs then
      let t := s.checkpointOccasion
      { t with store := { t.store with checkpoint := .running t.settings.checkpoint } }
    else s)

end Sys2Proof.Machine
end

