-- ==== Sys2Proof/Machine/StartUp.lean ====
section
/-! DEFINITION. Program operations, checkpoint and warm restart by command, the loss of power, the cold start and the
start-up (file 09), with the start values of each block (R22, R45, R60, R82, R108, R132, R151, R163). -/

namespace Sys2Proof.Machine

/-! ### Program operations and the checkpoint (R167, R168) -/

/-- PROGRAM_OPERATION_COMPLETE (R167): the slot is good and holds the captured image; the next operation may begin. -/
def execProgramOperationComplete (s : State) : StepOutcome :=
  s.whenUp (fun s =>
    match s.store.underWay with
    | none => s
    | some (n, img) => { s with store := { s.store.setSlot n (some img) with underWay := none } })

/-- R168: CHECKPOINT answers with the number of records it calls (log 14). -/
def checkpointRule (s : State) : Reply :=
  let t := s.checkpointOccasion
  { state := t, result := .ok
    body := .called (s.store.dirty.filter (fun n => deferred n && !s.store.called.contains n)).length }

/-- CHECKPOINT (R168). -/
def execCheckpoint (h : Hdr) (fit : Bool) (s : State) : StepOutcome :=
  mgmtRequest h (noOperand fit) (fun _ => checkpointRule) s

/-! ### Warm restart (R172, R173) -/

/-- R172: RESTART accepted; the answers WAKING and BUSY are given before (R174). -/
def restartRule (s : State) : Reply :=
  { state := State.abandonSettling { s with
      restartPending := true
      store := { s.store with reset := { s.store.reset with cause := .console } } }
    result := .ok }

/-- RESTART (R172). -/
def execRestart (h : Hdr) (fit : Bool) (s : State) : StepOutcome :=
  mgmtRequest h (noOperand fit) (fun _ => restartRule) s

/-- R46: what a warm restart does to an account. -/
def Account.restarted (a : Account) : Account := { a with reserved := 0, held := [] }

/-- R109, R133: what a warm restart does to a Printer Table entry. -/
def PrinterOf.restarted (e : Printer) : Printer :=
  { e with
    service := if e.service = .parking then .parked else e.service
    queue := [], control := [], stall := .stopped, standing := Standing.none, limit := .stopped
    presence := if e.service != .unused && e.cfg.mode != .silent then .running e.cfg.presenceInterval else .stopped }

/-- R22, R23: the Job Table after a reset, with a last tag issued. -/
def JobTable.fresh (lastTag : Nat) : JobTable :=
  { recs := [], lastTag := lastTag, holdSeq := 0, contexts := List.replicate Config.contexts none, outgoing := [] }

/-- R22, R23: the Spool Manager after a reset; the bytes of spool memory are as given. -/
def Spool.fresh (mem : List Host.Cell) : Spool :=
  { free := [⟨0, Config.segments⟩], promises := 0, low := false, mem := mem }

/-- R173: the work discarded and the installation kept, before STARTED and the marks of the restart itself. -/
def State.discardWork (s : State) : State :=
  { s with
    restartPending := false
    jobs := JobTable.fresh s.jobs.lastTag
    spool := Spool.fresh s.spool.mem
    accounts := s.accounts.mapAll Account.factory Account.restarted
    answer := none
    printers := s.printers.mapAll printerFactory PrinterOf.restarted
    lastPrinter := Config.printers - 1
    clock := { s.clock with mode := .running, idle := .stopped, kept := [], midnights := 0 }
    console := { s.console with reply := none, notices := [] }
    oport := { PortState.start 3 with wire := s.oport.wire }
    fport := { PortState.start 2 with wire := s.fport.wire }
    store := { s.store with reset := { cause := .console, failed := List.replicate 10 0, conservative := 0 } } }

/-- R173: the completion of a warm restart. The health records of several printers that become Parked join the Store Write Queue by
ascending printer index, an order that the spec leaves open (log 14). -/
def State.completeRestart (s : State) : State :=
  (s.discardWork.notify (.started .console 0)).markAll
    ((s.printers.indexesWhere (fun e => e.service == .parking)).map healthSlot)

/-- RESTART_COMPLETE (R173): a pending restart completes when the queue is empty and no operation is under way (R172). -/
def execRestartComplete (s : State) : StepOutcome :=
  s.whenUp (fun s =>
    if s.restartPending && s.store.queue.isEmpty && s.store.underWay.isNone then s.completeRestart else s)

/-! ### Loss of power (R24, R167) -/

/-- R167: the slot under program is left failed. -/
def Store.torn (st : Store) : Store :=
  match st.underWay with
  | none => st
  | some (n, _) => st.setSlot n none

/-- R22, R24, R163, R185: the values that a cold start begins from, with slots as given; no timer runs. -/
def State.bare (s : State) (slots : Tbl Slot) : State :=
  { State.reset with
    phase := .off
    clock := { State.reset.clock with idle := .stopped }
    store := { State.reset.store with slots := slots, checkpoint := .stopped }
    oport := PortState.start 3
    freeCount := s.freeCount
    pending := s.pending }

/-- R167, R24: without power only the slots last. The rest is held at the values a cold start begins from (log 24). -/
def State.unpowered (s : State) : State := s.bare s.store.torn.slots

/-- POWER_LOSS (R167). -/
def execPowerLoss (s : State) : StepOutcome := .next (if s.phase = .off then s else s.unpowered)

/-! ### Cold start: the records of the slots (R169, R170) -/

/-- R170: the settings of slot 0. -/
def Store.settings (st : Store) : Settings :=
  match st.slot settingsSlot with
  | some (.settings x) => x
  | _ => Settings.factory

/-- R6, R170: the Classifier entry of an index, 24 being the Default entry. -/
def Store.classEntry (st : Store) (i : Nat) : ClassEntry :=
  match st.slot (classSlot i) with
  | some (.classifier e) => e
  | _ => if i = 24 then ClassEntry.factoryDefault else ClassEntry.factory

/-- R60, R170: the tariff row of a slot. -/
def Store.row (st : Store) (n : Nat) : Row :=
  match st.slot n with
  | some (.row r) => r
  | _ => Row.factory

/-- R45, R170: the configuration of an account, none when its slot has failed. -/
def Store.accountConfig (st : Store) (k : Nat) : Option AccountConfig :=
  match st.slot (accountSlot k) with
  | some (.accountConfig c) => some c
  | _ => none

/-- R45, R170: spent of a balance restored from a failed slot behind a good configuration. -/
def conservativeSpent (c : AccountConfig) : Nat :=
  match c.valid, c.budget with
  | true, .finite b => b
  | _, _ => 0

/-- R45, R170: an account restored. -/
def Store.account (st : Store) (k : Nat) : Account :=
  match st.accountConfig k with
  | none => Account.factory
  | some c =>
    let base : Account := match st.slot (balanceSlot k) with
      | some (.balance spent state failures) =>
        { Account.factory with cfg := c, spent := spent, state := state, failures := failures }
      | _ => { Account.factory with cfg := c, spent := conservativeSpent c }
    { base with overdrawn := overdrawnFlag c.budget base.spent }

/-- R151, R170: a colorant record restored. -/
def Store.supply (st : Store) (p : Nat) (col : Colorant) : Supply :=
  match st.slot (colorantSlot p col) with
  | some (.colorant cfg remaining usage armed serial) =>
    { Supply.create cfg with remaining := remaining, usage := usage, armed := armed, serial := serial }
  | _ => { Supply.create SupplyFields.factory with remaining := 0 }

/-- R132, R170: the Withdrawn flag and whether the entry is In service. -/
def Store.health (st : Store) (p : Nat) : Bool × Bool :=
  match st.slot (healthSlot p) with
  | some (.printerHealth w i) => (w, i)
  | _ => (false, false)

/-- R108, R132, R151: a Printer Table entry restored. Its timers start at start-up. -/
def Store.printer (st : Store) (p : Nat) : Printer :=
  match st.slot (printerSlot p) with
  | some (.printerConfig c) =>
    if c.station.isNone then { printerFactory with cfg := c }
    else
      let w := (st.health p).1
      { printerFactory with
        cfg := c
        service := if (st.health p).2 then .inService else .parked
        score := if w then 640 else 0
        health := if w then .withdrawn else .active
        standing := { Standing.none with unreachable := c.mode != .silent }
        k := some (st.supply p .k)
        c := if c.colourCapable then some (st.supply p .c) else none
        m := if c.colourCapable then some (st.supply p .m) else none
        y := if c.colourCapable then some (st.supply p .y) else none }
  | _ => printerFactory

/-- R151, R170: a reorder record restored. -/
def Store.reorder (st : Store) (i : Nat) : Option Reorder :=
  match st.slot (reorderSlot i) with
  | some (.reorder r) => r
  | _ => none

/-- R132, R170: a callout record restored; its timer starts at start-up. -/
def Store.callout (st : Store) (i : Nat) : Option Callout :=
  match st.slot (calloutSlot i) with
  | some (.callout c) => c
  | _ => none

/-- The indexes, within a kind that begins at a slot and has `n` slots, of the slots that are listed. Every other slot holds
its good factory image, which restores the factory record. -/
def Store.listed (st : Store) (first n : Nat) : List Nat :=
  (st.slots.filter (fun e => decide (first ≤ e.1 ∧ e.1 < first + n))).map (fun e => e.1 - first)

/-! ### Keys held twice (R169) -/

/-- Whether an entry of lower index in a table passes a test. -/
def heldBelow {α : Type} (t : Tbl α) (i : Nat) (p : α → Bool) : Bool := t.any (fun e => decide (e.1 < i) && p e.2)

/-- R169: an account after the resolution of keys held twice: its validity, then its badge. -/
def resolveAccount (t : Tbl Account) (k : Nat) (a : Account) : Account :=
  let number := a.cfg.valid && heldBelow t k (fun b => b.cfg.valid && b.cfg.number == a.cfg.number)
  let badge := a.cfg.badge.isSome && heldBelow t k (fun b => b.cfg.badge == a.cfg.badge)
  { a with cfg := { a.cfg with valid := a.cfg.valid && !number, badge := if badge then none else a.cfg.badge } }

/-- R169: a Printer Table entry after the resolution of station codes held twice. -/
def resolvePrinter (t : Tbl Printer) (p : Nat) (e : Printer) : Printer :=
  if e.cfg.station.isSome && heldBelow t p (fun x => x.cfg.station == e.cfg.station) then printerFactory else e

/-- Change every listed record of a table by its index, keeping the canonical form. -/
def Tbl.mapIdx {α : Type} [DecidableEq α] (d : α) (f : Nat → α → α) (t : Tbl α) : Tbl α :=
  (t.map (fun e => (e.1, f e.1 e.2))).filter (fun e => e.2 ≠ d)

/-- The indexes of the listed records that a change moves. -/
def Tbl.moved {α : Type} [DecidableEq α] (f : Nat → α → α) (t : Tbl α) : List Nat :=
  (t.filter (fun e => f e.1 e.2 ≠ e.2)).map Prod.fst

/-! ### Cold start: counts and marks (R169, R170) -/

/-- R164: the first slot and the number of slots of each of the ten kinds. -/
def slotKinds : List (Nat × Nat) :=
  [(0, 1), (1, 25), (26, 32), (58, 64), (122, 64), (186, 4096), (4282, 4096), (8378, 256), (8634, 64), (8698, 32)]

/-- The failed slots, rising. -/
def Store.failedSlots (st : Store) : List Nat := (st.slots.filter (fun e => e.2.isNone)).map Prod.fst

/-- R169: the number of failed slots of each kind. -/
def Store.failedCounts (st : Store) : List Nat :=
  slotKinds.map (fun k => (st.failedSlots.filter (fun n => decide (k.1 ≤ n ∧ n < k.1 + k.2))).length)

/-- R169, R170: the account balances restored conservatively. -/
def Store.conservativeCount (st : Store) : Nat :=
  (st.failedSlots.filter (fun n => decide (4282 ≤ n ∧ n < 8378) &&
    ((st.accountConfig (n - 4282)).map AccountConfig.valid).getD false)).length

/-- R170: the records that a failed slot marks dirty: its own, both of an account whose configuration failed, and a
colorant's only while its entry has the colorant. -/
def marksOfFailed (printers : Tbl Printer) (n : Nat) : List Nat :=
  if 186 ≤ n ∧ n < 4282 then [n, n + 4096]
  else if 8378 ≤ n ∧ n < 8634 then
    if ((Tbl.get printerFactory printers ((n - 8378) / 4)).supply (colorantAt ((n - 8378) % 4))).isSome then [n] else []
  else [n]

/-- The dirty marks of a list of slots, rising and each once. -/
def marksOf (l : List Nat) : List Nat := l.foldl (fun d n => insertSlot n d) []

/-- R169: the reading of the slots: the part as it stands when the last has been read and keys held twice are resolved, before
any block starts. What no slot holds takes the values of a cold start (R22, R163, R185). Two open callouts of one printer, or two open
orders of one colorant, are both restored (log 34). -/
def State.restored (s : State) (cause : ResetCause) : State :=
  let st := s.store
  let accounts := Tbl.build Account.factory st.account (st.listed 186 4096 ++ st.listed 4282 4096)
  let printers := Tbl.build printerFactory st.printer (st.listed 58 64)
  let resolved := Tbl.mapIdx printerFactory (resolvePrinter printers) printers
  let unkeyed := (Tbl.moved (resolvePrinter printers) printers).flatMap (fun p => [printerSlot p, healthSlot p])
  let active := Tbl.build Row.factory (fun i => st.row (activeSlot i)) (st.listed 26 16)
  let banked := Tbl.build Row.factory (fun i => st.row (pendingSlot i)) (st.listed 42 16)
  { s.bare st.slots with
    phase := .starting
    settings := st.settings
    classifier := Tbl.build ClassEntry.factory st.classEntry ((st.listed 1 24))
    dflt := st.classEntry 24
    tariff := { active := active, pending := banked, written := decide (active ≠ banked) }
    accounts := Tbl.mapIdx Account.factory (resolveAccount accounts) accounts
    printers := resolved
    reorders := Tbl.build none st.reorder (st.listed 8634 64)
    callouts := Tbl.build none st.callout (st.listed 8698 32)
    store := { (s.bare st.slots).store with
      dirty := marksOf (st.failedSlots.flatMap (marksOfFailed resolved)
        ++ (Tbl.moved (resolveAccount accounts) accounts).map accountSlot ++ unkeyed)
      reset := { cause := cause, failed := st.failedCounts, conservative := st.conservativeCount } } }

/-- The reset cause of a cold start (R169). -/
def ColdCause.reset : ColdCause → ResetCause
  | .power => .power
  | .supplyDip => .supplyDip

/-- COLD_START (R169). A part that still has power loses it first (log 9). -/
def execColdStart (cause : ColdCause) (s : State) : StepOutcome :=
  .next (State.restored (if s.phase = .off then s else s.unpowered) (ColdCause.reset cause))

/-! ### Start-up (R132, R151, R163, R169 to R171) -/

/-- R132: whether a restored callout's printer is configured. -/
def State.hasPrinter (s : State) (p : Nat) : Bool := (s.printer p).service != .unused

/-- R132, R151: open records whose printer or colorant is not there: reorders, then callouts. -/
def State.orphans (s : State) : List Nat × List Nat :=
  (s.reorders.indexesWhere (fun r => match r with
      | some o => ((s.printer o.printer).supply o.colorant).isNone
      | none => false),
   s.callouts.indexesWhere (fun r => match r with
      | some c => !s.hasPrinter c.printer
      | none => false))

/-- R132, R151: orphans closed with no notice, each marked dirty. -/
def State.closeOrphans (s : State) : State :=
  { s with
    reorders := s.orphans.1.foldl (fun t i => t.put none i none) s.reorders
    callouts := s.orphans.2.foldl (fun t i => t.put none i none) s.callouts
    store := { s.store with
      dirty := (s.orphans.1.map reorderSlot ++ s.orphans.2.map calloutSlot).foldl (fun d n => insertSlot n d)
        s.store.dirty } }

/-- R132: the standing limit timer of an In service entry with a non-empty set, at start-up. -/
def PrinterOf.started (e : Printer) : Printer :=
  if e.service = .inService && !e.standing.isEmpty then { e with limit := .running e.cfg.standingLimit } else e

/-- R132: the renotify timer of an open Unacknowledged record, at start-up. -/
def Callout.started (renotify : Nat) (c : Callout) : Callout :=
  { c with timer := if c.acknowledged then .stopped else .running renotify }

/-- R132, R168, R169: the part is up and its timers run. -/
def State.startBlocks (s : State) : State :=
  { s with
    phase := .up
    printers := s.printers.mapAll printerFactory PrinterOf.started
    callouts := s.callouts.mapAll none (fun c => c.map (Callout.started s.settings.renotify))
    store := { s.store with checkpoint := .running s.settings.checkpoint }
    console := { s.console with storeRestored := decide (0 < s.store.reset.conservative) } }

/-- R169, R171: start-up: the dirty immediate records are queued in slot order, and STARTED is placed. -/
def State.startUp (s : State) : State :=
  s.closeOrphans.startBlocks.fillQueue.notify (.started s.store.reset.cause s.store.reset.conservative)

/-- START_UP_COMPLETE (R171). -/
def execStartUpComplete (s : State) : StepOutcome := .next (if s.phase = .starting then s.startUp.finish else s)

end Sys2Proof.Machine
end

