-- ==== Sys2Proof/Machine/Console.lean ====
section
/-! DEFINITION. The Console Agent (file 10): table reads (R176), the writes of the Settings, Classifier, Tariff and Account
Tables, refused writes and unknown requests, QUERY (R178), and the account commands (R29, R30, R36). -/

namespace Sys2Proof.Machine

/-! ### Reads (R176) -/

/-- R44: what a read of an account returns. -/
def Account.view (a : Account) : AccountView :=
  { cfg := { a.cfg with pin := none }, pinPresent := a.cfg.pin.isSome, spent := a.spent, state := a.state
    failures := a.failures, reserved := a.reserved, overdrawn := a.overdrawn, held := a.held, available := a.available }

/-- R177: what a read of the settings returns. The dirty records waiting are those not in the queue (log 31). -/
def State.settingsView (s : State) : SettingsView :=
  { settings := s.settings, uptime := s.clock.uptime, calendar := s.clock.calendar, mode := s.clock.mode
    reset := s.store.reset, queueLength := s.store.queue.length
    waiting := (s.store.dirty.filter (fun n => !s.store.queue.contains n)).length
    notices := s.console.notices.length, headroom := s.spool.headroom }

/-- The kind code of a stream control message (R186). -/
def OwnMsg.controlKind (m : OwnMsg) : Nat :=
  match m.body with
  | .streamBegin .. => 0x30
  | _ => 0x33

/-- A Printer Table entry with its control list as kinds and tags (R83); that these two stand for each message is the model's
choice (log 17). -/
def PrinterOf.shown (e : Printer) : PrinterOf (Nat × Nat) :=
  { cfg := e.cfg, service := e.service, queue := e.queue
    control := e.control.map (fun m => (m.controlKind, m.jobTag))
    lifeMono := e.lifeMono, lifeColour := e.lifeColour, stall := e.stall, score := e.score, health := e.health
    standing := e.standing, faulted := e.faulted, lastFault := e.lastFault, owed := e.owed, presence := e.presence
    limit := e.limit, k := e.k, c := e.c, m := e.m, y := e.y }

/-- R83, R124, R134: what a read of a Printer Table entry returns. -/
def State.printerView (s : State) (p : Nat) : PrinterView :=
  { entry := (s.printer p).shown
    jobs := ((s.printer p).queue.filterMap s.job).map (fun j => (j.tag, j.state))
    progress := (s.firstIn p .printing).map (fun j => (j.sent, j.allowed))
    callout := s.calloutOf p
    orders := colorants.map (fun col => s.orderOf p col) }

/-- R55: the scaled price from which a job's reservation was made. -/
def Job.scaled (j : Job) : Option Nat :=
  match j.reservation, j.rates with
  | some _, some r => some (scaledPrice j.declaredCounts j.media r.row)
  | _, _ => none

/-- R176: the greatest entry index of a table. -/
def TableId.last : TableId → Nat
  | .settings => 0
  | .classifier => 24
  | .tariff => 15
  | .account => 4095
  | .printer => 63
  | .job => 65535
  | .callout => 31
  | .reorder => 63

/-- R176: the record read. -/
def State.readBody (s : State) (i : Nat) : TableId → ReplyBody
  | .settings => .settings s.settingsView
  | .classifier => .classifier i (s.classEntry i)
  | .tariff => .tariff (Tbl.get Row.factory s.tariff.pending i) (Tbl.get Row.factory s.tariff.active i) s.tariff.written
  | .account => .account (s.account i).view
  | .printer => .printer (s.printerView i)
  | .job => match s.job i with
    | some j => .job j j.scaled
    | none => .none
  | .callout => .callout (s.callout i)
  | .reorder => .reorder (s.reorder i)

/-- R176: TABLE_READ. -/
def readRule (b : TableId × Nat) (s : State) : Reply :=
  if TableId.last b.1 < b.2 then Reply.refuse s .badIndex
  else if b.1 = .job ∧ (s.job b.2).isNone then Reply.refuse s .noSuchJob
  else { state := s, result := .ok, body := s.readBody b.2 b.1 }

/-- TABLE_READ (R176). -/
def execTableRead (h : Hdr) (b : Option (TableId × Nat)) (s : State) : StepOutcome := mgmtRequest h b readRule s

/-! ### Settings, Classifier and Tariff writes (R6, R39, R49, R177) -/

/-- R39: a written next-roll day, clamped and placed on the calendar. -/
def placedRollDay (calendar : Option Calendar) (length day : Nat) : Nat :=
  match calendar with
  | some c => if day ≤ c.day then firstBoundary day length c.day else day
  | none => day

/-- R39, R111, R158, R168, R177: the settings a write stores. -/
def Settings.stored (b : Settings) (calendar : Option Calendar) : Settings :=
  let length := clamp 1 62 b.periodLength
  { b with
    periodLength := length
    nextRollDay := placedRollDay calendar length (min b.nextRollDay Config.lastDay)
    renotify := clamp 5 240 b.renotify
    idleTime := if b.idleTime = 0 then 0 else clamp 10 240 b.idleTime
    checkpoint := clamp 5 120 b.checkpoint }

/-- R177. -/
def settingsRule (b : Nat × Settings) (s : State) : Reply :=
  if 0 < b.1 then Reply.refuse s .badIndex
  else { state := State.mark { s with settings := Settings.stored b.2 s.clock.calendar } settingsSlot, result := .ok }

/-- SETTINGS_WRITE (R177). -/
def execSettingsWrite (h : Hdr) (b : Option (Nat × Settings)) (s : State) : StepOutcome := mgmtRequest h b settingsRule s

/-- R6: the entry a write stores. -/
def ClassEntry.stored (i : Nat) (e : ClassEntry) : ClassEntry :=
  { e with valid := e.valid && decide (i < 24), hold := clamp 1 168 e.hold }

/-- R6. -/
def classifierRule (b : Nat × ClassEntry) (s : State) : Reply :=
  if 24 < b.1 then Reply.refuse s .badIndex
  else
    let e := ClassEntry.stored b.1 b.2
    let t : State := if b.1 < 24 then { s with classifier := s.classifier.put ClassEntry.factory b.1 e }
                     else { s with dflt := e }
    { state := t.mark (classSlot b.1), result := .ok }

/-- CLASSIFIER_WRITE (R6). -/
def execClassifierWrite (h : Hdr) (b : Option (Nat × ClassEntry)) (s : State) : StepOutcome :=
  mgmtRequest h b classifierRule s

/-- R49. -/
def tariffRule (b : Nat × Row) (s : State) : Reply :=
  if 15 < b.1 then Reply.refuse s .badIndex else { state := s.writePending b.1 b.2, result := .ok }

/-- TARIFF_WRITE (R49). -/
def execTariffWrite (h : Hdr) (b : Option (Nat × Row)) (s : State) : StepOutcome := mgmtRequest h b tariffRule s

/-! ### Account writes (R42, R43) -/

/-- R42 step 1, R25: whether a written PIN is absent, or 4 to 8 decimal digits (log 21). -/
def pinFits (pin : Option (List Nat)) : Bool :=
  match pin with
  | none => true
  | some d => decide (4 ≤ d.length ∧ d.length ≤ 8) && d.all (fun x => decide (x ≤ 9))

/-- R42: the tests of an account write: the refusal, if any. -/
def State.accountRefusal (s : State) (k : Nat) (c : AccountConfig) : Option Result :=
  let a := s.account k
  if c.number = 0 || 1048575 < c.number || 3 < c.cls || !pinFits c.pin then some .notAccepted
  else if c.badge.isSome && s.accounts.any (fun e => decide (e.1 ≠ k) && e.2.cfg.badge == c.badge) then some .entryLocked
  else if c.valid && s.accounts.any (fun e => decide (e.1 ≠ k) && e.2.cfg.valid && e.2.cfg.number == c.number) then
    some .entryLocked
  else if 0 < a.reserved && (c.number ≠ a.cfg.number || c.cls ≠ a.cfg.cls) then some .entryLocked
  else none

/-- R25, R42: a budget as stored; one outside the range of R25 becomes a free value (log 7). -/
def Budget.stored (n : Nat) : Budget → Budget
  | .unlimited => .unlimited
  | .finite b => if b ≤ Config.maxPoints then .finite b else .finite (Config.budgetPastRange b n).toNat

/-- Whether a budget is in the range of R25. -/
def Budget.inRange : Budget → Bool
  | .unlimited => true
  | .finite b => decide (b ≤ Config.maxPoints)

/-- R42: the writable fields as stored, with the held cap clamped. -/
def AccountConfig.stored (c : AccountConfig) (n : Nat) : AccountConfig :=
  { c with budget := Budget.stored n c.budget, heldCap := clamp 1 64 c.heldCap }

/-- R42: what follows from a write of the PIN and the budget. -/
def State.afterAccountWrite (s : State) (k : Nat) (old new : AccountConfig) : State :=
  let s1 := if new.pin ≠ old.pin then s.setBalance k { s.account k with failures := 0 } else s
  let s2 := if new.budget ≠ old.budget then s1.evalOverdrawn k else s1
  s2.mark (accountSlot k)

/-- R43: validation. -/
def State.validate (s : State) (k : Nat) : State :=
  s.setBalance k { s.account k with spent := 0, failures := 0, state := .isOpen, overdrawn := false }

/-- R43: invalidation: the Receiving jobs end in the order of their acceptance, then the Held jobs in the order of their hold
stamps, which is that of the Held List (R37). -/
def State.invalidate (s : State) (k : Nat) : State :=
  (((s.jobsOf k).filter (fun j => j.state == .receiving)).map Job.tag ++ (s.account k).held).foldl
    (fun t tag => t.endTag tag .purged) s

/-- R42, R43: an account write accepted. -/
def State.writeAccount (s : State) (k : Nat) (c : AccountConfig) : State :=
  let old := (s.account k).cfg
  let new := AccountConfig.stored c s.freeCount
  let s1 := s.setAccount k { s.account k with cfg := new }
  let s2 : State := { s1 with freeCount := if Budget.inRange c.budget then s.freeCount else s.freeCount + 1 }
  let s3 := s2.afterAccountWrite k old new
  if !old.valid && new.valid then s3.validate k else if old.valid && !new.valid then s3.invalidate k else s3

/-- R42, R43. -/
def accountRule (b : Nat × AccountConfig) (s : State) : Reply :=
  if Config.accounts ≤ b.1 then Reply.refuse s .badIndex
  else match s.accountRefusal b.1 b.2 with
    | some r => Reply.refuse s r
    | none => { state := s.writeAccount b.1 b.2, result := .ok }

/-- ACCOUNT_WRITE (R42). -/
def execAccountWrite (h : Hdr) (b : Option (Nat × AccountConfig)) (s : State) : StepOutcome :=
  mgmtRequest h b accountRule s

/-! ### Writes that no table accepts, unknown requests, and QUERY (R174, R176, R178) -/

/-- R176: the greatest entry index of a table that accepts no write. -/
def ClosedTable.last : ClosedTable → Nat
  | .job => 65535
  | .callout => 31
  | .reorder => 63

/-- R176. -/
def closedRule (b : ClosedTable × Nat) (s : State) : Reply :=
  Reply.refuse s (if ClosedTable.last b.1 < b.2 then .badIndex else .notPermitted)

/-- TABLE_WRITE of a table that accepts no write (R176). -/
def execTableWrite (h : Hdr) (b : Option (ClosedTable × Nat)) (s : State) : StepOutcome := mgmtRequest h b closedRule s

/-- A MGMT_REQUEST whose request kind, table id or command code names nothing defined (R174 step 5). -/
def execUnknownMgmtRequest (h : Hdr) (fit : Bool) (s : State) : StepOutcome :=
  mgmtRequest h (noOperand fit) (fun _ s => Reply.refuse s .unknownRequest) s

/-- R178: the sticky conditions cleared. -/
def State.clearSticky (s : State) : State :=
  { s with console := { s.console with storeRestored := false, noticeOverflow := false, strayStation := false } }

/-- R178. -/
def queryRule (clear : Bool) (s : State) : Reply :=
  { state := if clear then s.clearSticky else s, result := .ok, body := .attention s.attention s.attention.head? }

/-- QUERY (R178). -/
def execQuery (h : Hdr) (clear : Option Bool) (s : State) : StepOutcome := mgmtRequest h clear queryRule s

/-! ### Account commands (R29, R30, R36) -/

/-- R36: spent plus a signed amount, clamped. An amount outside the range of R36, which the 4 bytes of R186 can carry, is carried
out as any other (log 33). -/
def adjusted (spent : Nat) (amount : Int) : Nat := min Config.maxPoints (Int.toNat ((spent : Int) + amount))

/-- R36; the amount is not tested against its range (log 33). -/
def adjustRule (b : Nat × Int) (s : State) : Reply :=
  onAccount (fun k s =>
    let a := s.account k
    let t := (s.setAccount k { a with spent := adjusted a.spent b.2 }).evalOverdrawn k
    { state := t.mark (balanceSlot k), result := .ok, body := .newSpent (adjusted a.spent b.2) }) b.1 s

/-- ADJUST_ACCOUNT (R36). -/
def execAdjustAccount (h : Hdr) (b : Option (Nat × Int)) (s : State) : StepOutcome := mgmtRequest h b adjustRule s

/-- R29. -/
def unlockRule (k : Nat) (s : State) : Reply :=
  let a := s.account k
  { state := s.setBalance k { a with failures := 0, state := if a.state = .locked then .isOpen else a.state }
    result := .ok }

/-- UNLOCK_ACCOUNT (R29). -/
def execUnlockAccount (h : Hdr) (account : Option Nat) (s : State) : StepOutcome :=
  mgmtRequest h account (onAccount unlockRule) s

/-- R30: SUSPEND. -/
def suspendRule (k : Nat) (s : State) : Reply :=
  match (s.account k).state with
  | .isOpen => { state := s.setBalance k { s.account k with state := .suspended }, result := .ok }
  | .suspended => { state := s, result := .ok }
  | .locked => Reply.refuse s .entryLocked

/-- SUSPEND (R30). -/
def execSuspend (h : Hdr) (account : Option Nat) (s : State) : StepOutcome :=
  mgmtRequest h account (onAccount suspendRule) s

/-- R30: RESUME. -/
def resumeRule (k : Nat) (s : State) : Reply :=
  match (s.account k).state with
  | .isOpen => { state := s, result := .ok }
  | .suspended => { state := s.setBalance k { s.account k with state := .isOpen }, result := .ok }
  | .locked => Reply.refuse s .entryLocked

/-- RESUME (R30). -/
def execResume (h : Hdr) (account : Option Nat) (s : State) : StepOutcome :=
  mgmtRequest h account (onAccount resumeRule) s

end Sys2Proof.Machine
end

