-- ==== Sys2Proof/Machine/PrinterWrite.lean ====
section
/-! DEFINITION. The write of a Printer Table entry: its tests, locks and clamps (R84, R111, R135), and what the entry's health
fields and colorant records do when its configuration changes (R130, R136). -/

namespace Sys2Proof.Machine

/-- R84: a field that is locked while the entry is In service or Parking changes. -/
def lockedChange (old new : PrinterConfig) : Bool :=
  old.station != new.station || old.group != new.group || old.colourCapable != new.colourCapable
    || old.largeCapable != new.largeCapable || old.band != new.band || old.mode != new.mode

/-- R84: the tests of a write: the refusal, if any. -/
def State.printerRefusal (s : State) (p : Nat) (f : PrinterFields) : Option Result :=
  let e := s.printer p
  if (f.cfg.name.any (fun n => decide (16 < n.length))) || 15 < f.cfg.group || 3 < f.cfg.band || !f.modeKnown then
    some .notAccepted
  else if f.cfg.station.isSome
      && s.printers.any (fun x => decide (x.1 ≠ p) && x.2.cfg.station == f.cfg.station) then some .entryLocked
  else if (e.service = .inService || e.service = .parking) && lockedChange e.cfg f.cfg then some .entryLocked
  else none

/-- R84, R111: the configuration as stored. -/
def printerConfigStored (c : PrinterConfig) : PrinterConfig :=
  { c with stallTimeout := clamp 10 300 c.stallTimeout, presenceInterval := clamp 1 30 c.presenceInterval
           standingLimit := clamp 5 240 c.standingLimit }

/-- R135: the written fields of a colorant record as stored. -/
def supplyStored (f : SupplyFields) : SupplyFields :=
  { yield := clamp 500 100000 f.yield, lead := clamp 1 60 f.lead, floor := min f.floor 500 }

end Sys2Proof.Machine

namespace Sys2Proof

/-- The fields a write carries for a colorant (R135). -/
def PrinterFields.supply (f : PrinterFields) : Colorant → SupplyFields
  | .k => f.k
  | .c => f.c
  | .m => f.m
  | .y => f.y

end Sys2Proof

namespace Sys2Proof.Machine

/-- R110, R130: the health fields an entry takes when it becomes configured; its last argument is whether UNREACHABLE is the
one member of its standing set. -/
def PrinterOf.healthReset (e : Printer) (unreachable : Bool) : Printer :=
  { e with score := 0, health := .active, standing := { Standing.none with unreachable := unreachable }, faulted := false
           lastFault := none, owed := none, presence := .stopped, limit := .stopped }

/-- R136: the colorants a configuration gives an entry. -/
def colorantsOf (colourCapable : Bool) : List Colorant := if colourCapable then colorants else [.k]

/-- R84, R130, R136: a station code is written to an Unused entry, and it becomes Parked. -/
def State.configure (s : State) (p : Nat) (f : PrinterFields) : State :=
  let c := printerConfigStored f.cfg
  let s1 := s.updPrinter p (fun e => { e.healthReset (c.mode != .silent) with cfg := c, service := .parked })
  let s2 := (s1.mark (printerSlot p)).mark (healthSlot p)
  (colorantsOf c.colourCapable).foldl (fun t col => t.createSupply p col (supplyStored (f.supply col))) s2

/-- R84, R130, R136: the station code is removed, and the entry becomes Unused (log 30). -/
def State.unconfigure (s : State) (p : Nat) (f : PrinterFields) : State :=
  let s1 := s.updPrinter p (fun e => { e.healthReset false with cfg := printerConfigStored f.cfg, service := .unused })
  let s2 := (s1.mark (printerSlot p)).mark (healthSlot p)
  let s3 := match s2.calloutOf p with
    | some i => (s2.closeRecord i .entryRemoved).offerCallout i
    | none => s2
  s3.removeSupplies p (colorants.filter (fun col => ((s3.printer p).supply col).isSome)) .entryRemoved

/-- R130: a change of report mode to SILENT, or from it. -/
def State.changeMode (s : State) (p : Nat) (old new : ReportMode) : State :=
  if old ≠ .silent ∧ new = .silent then
    (s.updPrinter p (fun e =>
      { e with standing := { e.standing with unreachable := false }, presence := .stopped })).closeTest p
  else if old = .silent ∧ new ≠ .silent then
    s.updPrinter p (fun e => { e with presence := s.startTimer e.cfg.presenceInterval })
  else s

/-- R135, R136: a write to a colorant record the entry has. A change of mode from FULL clears its reported-empty flag. -/
def State.writeSupply (s : State) (p : Nat) (f : SupplyFields) (leavesFull : Bool) (col : Colorant) : State :=
  match (s.printer p).supply col with
  | none => s
  | some r =>
    s.setSupply p col { r with cfg := supplyStored f, remaining := min r.remaining (supplyStored f).yield
                               empty := r.empty && !leavesFull }

/-- R136: a change of the colour capability creates or removes C, M and Y. -/
def State.changeColour (s : State) (p : Nat) (old new : Bool) : State :=
  if old = new then s
  else if new then [Colorant.c, .m, .y].foldl (fun t col => t.createSupply p col SupplyFields.factory) s
  else s.removeSupplies p [.c, .m, .y] .entryChanged

/-- R84, R111, R130, R135, R136: a write to an entry that is configured and stays so. -/
def State.reconfigure (s : State) (p : Nat) (f : PrinterFields) : State :=
  let old := (s.printer p).cfg
  let new := printerConfigStored f.cfg
  let s1 := (s.updPrinter p (fun e => { e with cfg := new })).mark (printerSlot p)
  let s2 := (s1.changeMode p old.mode new.mode)
  let s3 := (colorantsOf (old.colourCapable && new.colourCapable)).foldl
    (fun t col => t.writeSupply p (f.supply col) (old.mode == .full && new.mode != .full) col) s2
  s3.changeColour p old.colourCapable new.colourCapable

/-- R84: a write to an Unused entry that leaves it Unused. -/
def State.writeUnused (s : State) (p : Nat) (f : PrinterFields) : State :=
  (s.updPrinter p (fun e => { e with cfg := printerConfigStored f.cfg })).mark (printerSlot p)

/-- R84, R130, R136: a printer write accepted. -/
def State.writePrinter (s : State) (p : Nat) (f : PrinterFields) : State :=
  match (s.printer p).service, f.cfg.station with
  | .unused, none => s.writeUnused p f
  | .unused, some _ => s.configure p f
  | _, none => s.unconfigure p f
  | _, some _ => s.reconfigure p f

/-- R84, R111, R135. -/
def printerRule (b : Nat × PrinterFields) (s : State) : Reply :=
  if Config.printers ≤ b.1 then Reply.refuse s .badIndex
  else match s.printerRefusal b.1 b.2 with
    | some r => Reply.refuse s r
    | none => { state := s.writePrinter b.1 b.2, result := .ok }

/-- PRINTER_WRITE (R84). -/
def execPrinterWrite (h : Hdr) (b : Option (Nat × PrinterFields)) (s : State) : StepOutcome := mgmtRequest h b printerRule s

end Sys2Proof.Machine
end

