-- ==== Sys2Proof/Machine/Wire.lean ====
section
/-! DEFINITION. The bytes of the part's own messages (R186): the header, the body of each kind, and the field blocks of reads
and notices. The choices that R186 leaves open are those of log 17. -/

namespace Sys2Proof.Machine

/-! ### Fields (R186) -/

/-- A number in `n` bytes, most significant byte first. -/
def bytesOf : Nat → Nat → List Byte
  | 0, _ => []
  | n + 1, v => BitVec.ofNat 8 (v / 256 ^ n) :: bytesOf n v

/-- A yes/no field. -/
def flagByte (b : Bool) : List Byte := bytesOf 1 (if b then 1 else 0)

/-- The value of a byte of flags, the first listed at bit 0. -/
def flagsValue : List Bool → Nat
  | [] => 0
  | b :: t => (if b then 1 else 0) + 2 * flagsValue t

/-- An optional field of a given size. -/
def optBytes {α : Type} (size : Nat) (f : α → List Byte) : Option α → List Byte
  | none => bytesOf 1 0 ++ bytesOf size 0
  | some x => bytesOf 1 1 ++ f x

/-- An optional number. -/
def optNumber (size : Nat) (o : Option Nat) : List Byte := optBytes size (bytesOf size) o

/-- Characters after their length byte. -/
def textBytes (t : List Byte) : List Byte := bytesOf 1 t.length ++ t

/-- An optional text. -/
def optText (o : Option (List Byte)) : List Byte := optBytes 1 textBytes o

/-- A list as a 1-byte count and its entries; one of more than 255 entries is a free value. `ns` names the entries. -/
def listBytes {α : Type} (ns : List Nat) (f : α → List Byte) (l : List α) : List Byte :=
  if l.length ≤ 255 then bytesOf 1 l.length ++ l.flatMap f else Config.longListBytes ns

/-- A budget or an available quota. -/
def budgetBytes : Budget → List Byte
  | .finite n => bytesOf 4 n
  | .unlimited => bytesOf 4 0xFFFFFFFF

/-! ### Codes (R186) -/

/-- The code of the media classes of R1. -/
def Media.code : Media → Nat
  | .standard => 0
  | .large => 1

/-- The code of the policies of R5. -/
def Policy.code : Policy → Nat
  | .hold => 0
  | .direct => 1
  | .refuse => 2

/-- The code of the result codes of R186. -/
def Result.code : Result → Nat
  | .ok => 0
  | .busy => 1
  | .notAccepted => 2
  | .unknownAccount => 3
  | .accountBlocked => 4
  | .holdLimit => 5
  | .spoolLow => 6
  | .tooLarge => 7
  | .emptyJob => 8
  | .outOfOrder => 9
  | .noSuchJob => 10
  | .tooLate => 11
  | .authFailed => 12
  | .waking => 13
  | .notPermitted => 14
  | .badIndex => 15
  | .entryLocked => 16
  | .unknownRequest => 17
  | .badLength => 18

/-- The code of the events of a JOB_STATUS (R186). -/
def JobEvent.code : JobEvent → Nat
  | .held => 0
  | .released => 1
  | .printing => 2
  | .ended => 3

/-- The code of the end reasons, in the order of R1. -/
def EndReason.code : EndReason → Nat
  | .printed => 0
  | .printerCancelled => 1
  | .userCancelled => 2
  | .expired => 3
  | .purged => 4
  | .abandoned => 5
  | .refused => 6

/-- The code of the outcomes, in the order of R63. -/
def Fate.code : Fate → Nat
  | .released => 0
  | .skippedQuota => 1
  | .skippedCapability => 2
  | .skippedQueue => 3
  | .deleted => 4

/-- The code of the job states, in the order of R1. -/
def JobState.code : JobState → Nat
  | .receiving => 0
  | .held => 1
  | .released => 2
  | .printing => 3
  | .finishing => 4

/-- The code of the account states, in the order of R25. -/
def AccountState.code : AccountState → Nat
  | .isOpen => 0
  | .locked => 1
  | .suspended => 2

/-- The code of the report modes, in the order of R83. -/
def ReportMode.code : ReportMode → Nat
  | .full => 0
  | .pages => 1
  | .silent => 2

/-- The code of the service states, in the order of R83. -/
def Service.code : Service → Nat
  | .unused => 0
  | .parked => 1
  | .inService => 2
  | .parking => 3

/-- R112's five kinds first, then STREAM_ERROR, STALL and report missing (log 17). -/
def FaultKind.code : FaultKind → Nat
  | .jam => 0
  | .mediaOut => 1
  | .doorOpen => 2
  | .engine => 3
  | .supplyFault => 4
  | .streamError => 5
  | .stall => 6
  | .reportMissing => 7

/-- The code of the standby states, in the order of R158. -/
def Mode.code : Mode → Nat
  | .running => 0
  | .settling => 1
  | .standby => 2
  | .waking => 3

/-- The code of the reset causes (R186). -/
def ResetCause.code : ResetCause → Nat
  | .power => 0
  | .supplyDip => 1
  | .console => 2

/-- The code of the close reasons (R186). -/
def CloseReason.code : CloseReason → Nat
  | .recovered => 0
  | .console => 1
  | .entryRemoved => 2
  | .entryChanged => 3

/-- R178: an attention code is the rank of its condition. -/
def Attention.code : Attention → Nat
  | .urgentUnack => 1
  | .storeRestored => 2
  | .serviceUnack => 3
  | .spoolLow => 4
  | .reorderNotified => 5
  | .attentionUnack => 6
  | .accountLocked => 7
  | .clockUnset => 8
  | .noticeOverflow => 9
  | .strayStation => 10

/-! ### Records (R177, R5, R25, R47, R83, R110, R134, R1, R124, R145) -/

/-- R177: the writable fields of the settings. -/
def Settings.bytes (x : Settings) : List Byte :=
  bytesOf 2 x.frameType ++ bytesOf 3 x.ownStation ++ bytesOf 3 x.noticeStation ++ [x.enables] ++ bytesOf 1 x.periodLength
    ++ bytesOf 3 x.nextRollDay ++ bytesOf 1 x.renotify ++ bytesOf 1 x.idleTime ++ bytesOf 1 x.checkpoint

/-- R177: the calendar, its state (Set 0, Unset 1), and its day and minute as optional fields. -/
def calendarBytes (c : Option Calendar) : List Byte :=
  bytesOf 1 (if c.isSome then 0 else 1) ++ optNumber 2 (c.map Calendar.day) ++ optNumber 2 (c.map Calendar.minute)

/-- The bytes of a failed-slot count of each kind: two for the kinds of more than 255 slots. -/
def failedBytes (l : List Nat) : List Byte :=
  (List.zipWith bytesOf [1, 1, 1, 1, 1, 2, 2, 2, 1, 1] l).flatten

/-- R177: a read of the settings. -/
def SettingsView.bytes (v : SettingsView) : List Byte :=
  Settings.bytes v.settings ++ bytesOf 4 v.uptime ++ calendarBytes v.calendar ++ bytesOf 1 v.mode.code
    ++ bytesOf 1 (ResetCause.code v.reset.cause) ++ failedBytes v.reset.failed ++ bytesOf 2 v.reset.conservative
    ++ bytesOf 1 v.queueLength ++ bytesOf 2 v.waiting ++ bytesOf 1 v.notices ++ bytesOf 3 v.headroom

/-- A Classifier entry; the Default entry has no valid flag. -/
def ClassEntry.bytes (i : Nat) (e : ClassEntry) : List Byte :=
  (if i < 24 then flagByte e.valid else []) ++ bytesOf 3 e.value ++ bytesOf 3 e.mask ++ bytesOf 1 (Policy.code e.policy)
    ++ optNumber 2 e.guest ++ bytesOf 1 e.hold ++ flagByte e.rights

/-- R47: the five values of a row. -/
def Row.bytes (r : Row) : List Byte :=
  bytesOf 2 r.rm ++ bytesOf 2 r.rc ++ bytesOf 2 r.ps ++ bytesOf 1 r.l ++ bytesOf 1 r.jmin

/-- R44: a read of an account. -/
def AccountView.bytes (v : AccountView) : List Byte :=
  flagByte v.cfg.valid ++ bytesOf 3 v.cfg.number ++ optNumber 4 v.cfg.badge ++ flagByte v.pinPresent
    ++ bytesOf 1 v.cfg.cls ++ budgetBytes v.cfg.budget ++ bytesOf 1 v.cfg.heldCap ++ bytesOf 3 v.spent
    ++ bytesOf 3 v.reserved ++ bytesOf 1 v.state.code ++ bytesOf 1 v.failures ++ bytesOf 1 v.held.length
    ++ flagByte v.overdrawn ++ listBytes v.held (bytesOf 2) v.held ++ budgetBytes v.available

/-- The standing conditions as a byte, JAM at bit 0. -/
def Standing.byte (x : Standing) : List Byte := bytesOf 1 (flagsValue [x.jam, x.mediaOut, x.doorOpen, x.unreachable])

/-- R124: a cause: its code and the standing members. -/
def CalloutCause.bytes : CalloutCause → List Byte
  | .standingLimit m => bytesOf 1 0 ++ m.byte
  | .degraded => bytesOf 1 1 ++ bytesOf 1 0
  | .withdrawn => bytesOf 1 2 ++ bytesOf 1 0

/-- R134: the fields of a colorant record; zeros for one the entry does not have. -/
def supplyBytes : Option Supply → List Byte
  | none => bytesOf 19 0
  | some r =>
    bytesOf 3 r.cfg.yield ++ bytesOf 3 r.remaining ++ flagByte r.empty ++ optText r.serial ++ bytesOf 2 r.today
      ++ bytesOf 3 r.usage ++ bytesOf 1 r.cfg.lead ++ bytesOf 2 r.cfg.floor ++ flagByte r.armed ++ flagByte r.owed

/-- R134: the further values of a colorant: its level, days left and open reorder record; zeros for one the entry does not
have. -/
def supplyFurther (order : Option Nat) : Option Supply → List Byte
  | none => bytesOf 8 0
  | some r => bytesOf 2 r.level ++ optNumber 3 r.daysLeft ++ optNumber 1 order

/-- The delivery fields of R83. A message of the control list is carried as its kind code and its job tag (log 17). -/
def deliveryBytes (v : PrinterView) : List Byte :=
  let e := v.entry
  optNumber 3 e.cfg.station ++ optText e.cfg.name ++ bytesOf 1 e.cfg.group ++ flagByte e.cfg.colourCapable
    ++ flagByte e.cfg.largeCapable ++ bytesOf 1 e.cfg.band ++ bytesOf 1 (ReportMode.code e.cfg.mode)
    ++ bytesOf 2 e.cfg.stallTimeout ++ bytesOf 1 e.service.code
    ++ listBytes e.queue (fun j => bytesOf 2 j.1 ++ bytesOf 1 (JobState.code j.2)) v.jobs
    ++ listBytes [] (fun m => bytesOf 1 m.1 ++ bytesOf 2 m.2) e.control ++ bytesOf 4 e.lifeMono ++ bytesOf 4 e.lifeColour

/-- The health fields of R110. -/
def healthBytes (v : PrinterView) : List Byte :=
  let e := v.entry
  bytesOf 2 e.score ++ bytesOf 1 e.health.rank ++ e.standing.byte ++ flagByte e.standing.unreachable
    ++ bytesOf 1 e.cfg.presenceInterval ++ bytesOf 1 e.cfg.standingLimit ++ flagByte e.faulted
    ++ optBytes 5 (fun f => bytesOf 4 f.1 ++ bytesOf 1 (FaultKind.code f.2)) e.lastFault
    ++ optBytes 3 (fun o => bytesOf 1 (CalloutKind.rank o.1) ++ CalloutCause.bytes o.2) e.owed

/-- R186: the further values of a read of a Printer Table entry: chunks sent and chunks allowed (R83), the open callout (R124),
and those of the colorants K, C, M and Y (R134). Their order across the three rules, and a presence byte for each of the two
chunk numbers, are the model's choice (log 17). -/
def furtherBytes (v : PrinterView) : List Byte :=
  let e := v.entry
  optNumber 3 (v.progress.map Prod.fst) ++ optNumber 4 (v.progress.map Prod.snd) ++ optNumber 1 v.callout
    ++ (List.zipWith supplyFurther v.orders [e.k, e.c, e.m, e.y]).flatten

/-- R186: a read of a Printer Table entry: the fields of R83, those of R110, the colorant records K, C, M and Y, and then the
further values. -/
def PrinterView.bytes (v : PrinterView) : List Byte :=
  let e := v.entry
  deliveryBytes v ++ healthBytes v ++ [e.k, e.c, e.m, e.y].flatMap supplyBytes ++ furtherBytes v

/-- Three totals. -/
def countsBytes (n : Counts) : List Byte := bytesOf 3 n.tm ++ bytesOf 3 n.tc ++ bytesOf 3 n.ts

/-- Stored rates with the band and class of their row. -/
def ratesBytes (r : StoredRates) : List Byte := Row.bytes r.row ++ bytesOf 1 r.band ++ bytesOf 1 r.cls

/-- R1: a job record; its end reason is absent while the record exists. -/
def Job.bytes (j : Job) : List Byte :=
  bytesOf 2 j.tag ++ bytesOf 3 j.origin ++ bytesOf 2 j.account ++ bytesOf 1 j.hit ++ countsBytes j.declaredCounts
    ++ bytesOf 1 (Media.code j.media) ++ flagByte j.colour ++ optNumber 3 j.target ++ optText j.name
    ++ bytesOf 4 j.declared ++ bytesOf 4 j.received ++ listBytes j.chain (bytesOf 2) j.chain ++ bytesOf 2 j.promise
    ++ optBytes 8 (fun p => bytesOf 4 p.1 ++ bytesOf 4 p.2) j.stamp ++ optNumber 4 j.expiry ++ bytesOf 1 j.state.code
    ++ optBytes 10 ratesBytes j.rates ++ optNumber 3 j.reservation ++ optNumber 3 j.charged
    ++ optBytes 9 countsBytes j.reported ++ bytesOf 3 j.sent ++ bytesOf 4 j.allowed ++ flagByte j.interrupted
    ++ optNumber 1 none

/-- R124: a callout record, with zeros when it is not open. -/
def calloutBytes : Option Callout → List Byte
  | none => bytesOf 11 0
  | some c =>
    flagByte true ++ bytesOf 1 c.printer ++ bytesOf 1 c.kind.rank ++ flagByte c.acknowledged ++ bytesOf 4 c.opened
      ++ bytesOf 1 c.count ++ c.cause.bytes

/-- R145: a reorder record, with zeros when it is not open. -/
def reorderBytes : Option Reorder → List Byte
  | none => bytesOf 13 0
  | some r =>
    flagByte true ++ bytesOf 1 r.printer ++ bytesOf 1 (colorantIndex r.colorant) ++ flagByte r.confirmed
      ++ optNumber 2 r.openedDay ++ bytesOf 2 r.level ++ optNumber 3 r.days

/-- What follows the result code of a MGMT_REPLY. -/
def ReplyBody.bytes : ReplyBody → List Byte
  | .none => []
  | .newSpent n => bytesOf 3 n
  | .called n => bytesOf 2 n
  | .attention l top => listBytes (l.map Attention.code) (fun a => bytesOf 1 (Attention.code a)) l
      ++ bytesOf 1 ((top.map Attention.code).getD 0)
  | .settings v => v.bytes
  | .classifier i e => ClassEntry.bytes i e
  | .tariff p a w => Row.bytes p ++ Row.bytes a ++ flagByte w
  | .account v => v.bytes
  | .printer v => v.bytes
  | .job j scaled => j.bytes ++ optNumber 5 scaled
  | .callout c => calloutBytes c
  | .reorder r => reorderBytes r

/-! ### Notices (R186, 10.5) -/

/-- The subject of a notice: the index it names, the colorant, and the record index. -/
def subjectBytes (index colorant record : Nat) : List Byte := bytesOf 2 index ++ bytesOf 1 colorant ++ bytesOf 1 record

/-- R186: the subject of a notice. -/
def Notice.subject : Notice → List Byte
  | .started _ _ => subjectBytes 0 0 0
  | .spoolLow _ => subjectBytes 0 0 0
  | .accountLocked k => subjectBytes k 0 0
  | .accountOverdrawn k _ _ => subjectBytes k 0 0
  | .periodRolled _ => subjectBytes 0 0 0
  | .healthChange p _ _ _ => subjectBytes p 0 0
  | .callout i r _ => subjectBytes r.printer 0 i
  | .reorder i r _ _ => subjectBytes r.printer (colorantIndex r.colorant) i

/-- The detail word of a CALLOUT notice, and its reason. -/
def CalloutDetail.bytes : CalloutDetail → List Byte × List Byte
  | .opened => (bytesOf 1 0, [])
  | .upgraded => (bytesOf 1 1, [])
  | .renotified => (bytesOf 1 2, [])
  | .escalated => (bytesOf 1 3, [])
  | .closed why => (bytesOf 1 4, bytesOf 1 why.code)

/-- The detail word of a REORDER notice, and its reason. -/
def ReorderDetail.bytes : ReorderDetail → List Byte × List Byte
  | .opened => (bytesOf 1 0, [])
  | .renotified => (bytesOf 1 1, [])
  | .fulfilled => (bytesOf 1 2, [])
  | .closed why => (bytesOf 1 3, bytesOf 1 why.code)

/-- The detail of a notice: its word, then the values its forming rule names, then the reason of a closing (log 17). -/
def Notice.detail : Notice → List Byte
  | .started cause n => bytesOf 1 (ResetCause.code cause) ++ bytesOf 2 n
  | .spoolLow entered => bytesOf 1 (if entered then 0 else 1)
  | .accountLocked _ => []
  | .accountOverdrawn _ spent budget => bytesOf 3 spent ++ budgetBytes budget
  | .periodRolled d => bytesOf 3 d
  | .healthChange _ old new score => bytesOf 1 old.rank ++ bytesOf 1 new.rank ++ bytesOf 2 score
  | .callout _ r d => d.bytes.1 ++ bytesOf 1 r.kind.rank ++ flagByte r.acknowledged ++ bytesOf 1 r.count ++ r.cause.bytes
      ++ d.bytes.2
  | .reorder _ r current d => d.bytes.1 ++ flagByte r.confirmed ++ bytesOf 2 r.level ++ optNumber 3 r.days
      ++ bytesOf 2 current ++ d.bytes.2

/-! ### Messages (R186) -/

/-- The kind code of a message the part sends. -/
def MsgBody.kind : MsgBody → Nat
  | .jobReply .. => 0x18
  | .jobStatus .. => 0x19
  | .releaseAnswer .. => 0x28
  | .streamBegin .. => 0x30
  | .streamData .. => 0x31
  | .streamEnd .. => 0x32
  | .streamCancel => 0x33
  | .mgmtReply .. => 0x48
  | .notice .. => 0x50

/-- R63: an entry of a RELEASE_ANSWER. -/
def AnswerEntry.bytes (e : AnswerEntry) : List Byte :=
  bytesOf 2 e.tag ++ bytesOf 4 e.faces ++ flagByte e.colour ++ bytesOf 3 e.price ++ bytesOf 1 e.fate.code
    ++ textBytes (e.name.getD [])

/-- The body of a message. -/
def MsgBody.bytes : MsgBody → List Byte
  | .jobReply r expected => bytesOf 1 r.code ++ bytesOf 4 expected
  | .jobStatus e p why charged =>
    bytesOf 1 e.code ++ bytesOf 1 (flagsValue [p.isSome, why.isSome, charged.isSome]) ++ bytesOf 1 (p.getD 0)
      ++ bytesOf 1 ((why.map EndReason.code).getD 0) ++ bytesOf 3 (charged.getD 0)
  | .releaseAnswer r t es =>
    bytesOf 1 r.code ++ bytesOf 1 (t.getD 0xFF) ++ listBytes (es.map AnswerEntry.tag) AnswerEntry.bytes es
  | .streamBegin n m b => countsBytes n ++ bytesOf 1 (Media.code m) ++ bytesOf 4 b
  | .streamData k d => bytesOf 2 k ++ d
  | .streamEnd n => bytesOf 4 n
  | .streamCancel => []
  | .mgmtReply r b => bytesOf 1 r.code ++ b.bytes
  | .notice n => bytesOf 1 n.kind.index ++ n.subject ++ textBytes n.detail

/-- The bytes of a message: its header and its body. -/
def OwnMsg.bytes (m : OwnMsg) : List Byte :=
  bytesOf 1 Config.version ++ bytesOf 1 m.body.kind ++ bytesOf 3 m.src ++ bytesOf 3 m.dst ++ bytesOf 2 m.jobTag
    ++ bytesOf 2 m.reqTag ++ bytesOf 2 m.body.bytes.length ++ m.body.bytes

end Sys2Proof.Machine
end

