-- ==== Sys2Proof/Machine/Ports.lean ====
section
/-! DEFINITION. The ports (file 11): pass-through frames (R181, R184), discarded FPT frames (R182), the transmit arbiter, the
turns of the producers (R184) and of the printers (R90), and what each producer places. -/

namespace Sys2Proof.Machine

/-! ### Reception (R181, R182, R184) -/

/-- R184: the bytes of frame a Pass-through Queue holds. -/
def PortState.passHeld (q : PortState) : Nat := (q.pass.map (fun f => f.bytes.length)).sum

/-- R184: a frame enters a Pass-through Queue when it fits, and is dropped otherwise. -/
def PortState.pass1 (q : PortState) (f : EthFrame) : PortState :=
  if q.passHeld + f.bytes.length ≤ Config.passBytes then { q with pass := q.pass ++ [f] } else q

/-- PASS_THROUGH_FRAME (R181): a frame that was of another type than FPT's when it arrived goes to the opposite port's
Pass-through Queue. Its type is examined at its arrival (`State.receive`), and no later write changes that (log 23). -/
def execPassThroughFrame (port : Port) (f : EthFrame) (s : State) : StepOutcome :=
  s.whenUp (fun s =>
    match port with
    | .office => { s with fport := s.fport.pass1 f }
    | .fleet => { s with oport := s.oport.pass1 f })

/-- R186: the kind codes of the printer messages. -/
def isPrinterKind (k : Nat) : Bool := k == 0x20 || k == 0x38 || k == 0x39 || k == 0x3A || k == 0x3B

/-- R181, R182: whether a discarded FPT frame is a printer message that came on the O-port, or from a station that no
configured entry holds. -/
def State.isStray (s : State) (port : Port) (payload : List Byte) : Bool :=
  decide (Config.headerBytes ≤ payload.length) && valueOf (payload.take 1) == Config.version
    && isPrinterKind (valueOf ((payload.drop 1).take 1))
    && (port == .office || (s.printerOf (valueOf ((payload.drop 2).take 3))).isNone)

/-- FPT_DISCARD (R181, R182): a discarded frame changes no record; a stray printer message makes STRAY_STATION pending. -/
def execFptDiscard (port : Port) (payload : List Byte) (s : State) : StepOutcome :=
  s.whenUp (fun s => if s.isStray port payload then s.stray else s)

/-! ### The arbiter (R184) -/

/-- R184: what a port sends next, and the port once its transmission has begun. -/
def PortState.transmit (q : PortState) : PortState :=
  match q.pass, q.own with
  | [], [] => q
  | f :: fs, [] => { q with pass := fs, lastOwn := false, wire := some (.passed f) }
  | [], m :: ms => { q with own := ms, lastOwn := true, wire := some (.own m m.bytes) }
  | f :: fs, m :: ms =>
    if q.lastOwn then { q with pass := fs, lastOwn := false, wire := some (.passed f) }
    else { q with own := ms, lastOwn := true, wire := some (.own m m.bytes) }

/-- FRAME_TRANSMIT (R184). -/
def execFrameTransmit (port : Port) (s : State) : StepOutcome :=
  s.whenUp (fun s =>
    match port with
    | .office => { s with oport := s.oport.transmit }
    | .fleet => { s with fport := s.fport.transmit })

/-! ### Turns (R90, R184) -/

/-- The first of `n` places, cyclically after the one served last, that is ready. -/
def nextTurn (n served : Nat) (ready : Nat → Bool) : Option Nat :=
  ((List.range n).map (fun i => (served + 1 + i) % n)).find? ready

/-- R184: whether an O-port producer holds a message ready, by its place in the table of R184. -/
def State.officeReady (s : State) (i : Nat) : Bool :=
  match i with
  | 0 => !s.jobs.outgoing.isEmpty
  | 1 => s.console.reply.isSome
  | _ => !s.console.notices.isEmpty

/-- R184: whether an O-port producer may place now: there is room, and it is its turn. -/
def State.officeTurn (s : State) (i : Nat) : Bool :=
  s.oport.room && nextTurn 3 s.oport.served s.officeReady == some i

/-- A message of a producer placed in a port: the producer is the one served last. -/
def PortState.placeFrom (q : PortState) (producer : Nat) (m : OwnMsg) : PortState :=
  { q with own := q.own ++ [m], served := producer }

/-- R90: the Printing job whose next chunk may be formed. -/
def State.chunkJob (s : State) (p : Nat) : Option Job :=
  if (s.printer p).control.isEmpty && (s.printer p).standing.isEmpty then
    (s.firstIn p .printing).filter (fun j => decide (j.sent < j.allowed ∧ j.sent < j.chunks))
  else none

/-- R92: the Printing job whose STREAM_END may be formed. -/
def State.endingJob (s : State) (p : Nat) : Option Job :=
  if (s.printer p).control.isEmpty then (s.firstIn p .printing).filter (fun j => decide (j.chunks ≤ j.sent)) else none

/-- R90: whether a printer has a stream message ready. -/
def State.streamReady (s : State) (p : Nat) : Bool :=
  !(s.printer p).control.isEmpty || (s.endingJob p).isSome || (s.chunkJob p).isSome

/-- R90: the printer whose turn it is, in ascending index after the one served last. -/
def State.printerTurn (s : State) : Option Nat := nextTurn Config.printers s.lastPrinter s.streamReady

/-- R184: whether an F-port producer holds a message ready: the Release Engine, then the Delivery Engine. -/
def State.fleetReady (s : State) (i : Nat) : Bool :=
  match i with
  | 0 => s.answer.isSome
  | _ => s.printerTurn.isSome

/-- R90, R184: whether a printer's stream message may be placed now. -/
def State.streamTurn (s : State) (p : Nat) : Bool :=
  s.fport.room && nextTurn 2 s.fport.served s.fleetReady == some 1 && s.printerTurn == some p

/-! ### What the producers place -/

/-- JOB_OUTGOING_PLACE (R185). -/
def execJobOutgoingPlace (s : State) : StepOutcome :=
  s.whenUp (fun s =>
    match s.jobs.outgoing with
    | [] => s
    | m :: rest =>
      if s.officeTurn 0 then
        { s with jobs := { s.jobs with outgoing := rest }, oport := s.oport.placeFrom 0 m }
      else s)

/-- MGMT_REPLY_PLACE (R175). -/
def execMgmtReplyPlace (s : State) : StepOutcome :=
  s.whenUp (fun s =>
    match s.console.reply with
    | none => s
    | some m =>
      if s.officeTurn 1 then
        { s with console := { s.console with reply := none }, oport := s.oport.placeFrom 1 m }
      else s)

/-- NOTICE_SEND (R180): the notice is addressed to the notice station as the settings then hold it. -/
def execNoticeSend (s : State) : StepOutcome :=
  s.whenUp (fun s =>
    match s.console.notices with
    | [] => s
    | q :: rest =>
      if s.officeTurn 2 then
        { s with console := { s.console with notices := rest }, oport := s.oport.placeFrom 2 (s.addressed q) }
      else s)

/-- RELEASE_ANSWER_PLACE (R64). -/
def execReleaseAnswerPlace (s : State) : StepOutcome :=
  s.whenUp (fun s =>
    match s.answer with
    | none => s
    | some m =>
      if s.fport.room && nextTurn 2 s.fport.served s.fleetReady == some 0 then
        { s with answer := none, fport := s.fport.placeFrom 0 m }
      else s)

/-- R90: a stream message of a printer is placed at its turn. -/
def State.placeStream (s : State) (p : Nat) (m : OwnMsg) : State :=
  { s with fport := s.fport.placeFrom 1 m, lastPrinter := p }

/-- R90, R94: the head of a control list is placed; a STREAM_BEGIN starts the stall timer. -/
def State.placeControl (s : State) (p : Nat) : State :=
  match (s.printer p).control with
  | [] => s
  | m :: rest =>
    let t := (s.placeStream p m).updPrinter p (fun e => { e with control := rest })
    if m.body = .streamCancel then t else t.restartStall p

/-- STREAM_CONTROL_PLACE (R90). -/
def execStreamControlPlace (p : Nat) (s : State) : StepOutcome :=
  s.whenUp (fun s => if s.streamTurn p then s.placeControl p else s)

/-- R89: the bytes of chunk `k` of a job; none when one of them was never written (log 5). -/
def State.chunkData (s : State) (j : Job) (k : Nat) : Option (List Byte) :=
  readData s.spool.mem j.chain (min Config.chunkBytes (j.received - k * Config.chunkBytes)) (k * Config.chunkBytes)

/-- R90: a chunk formed and placed: chunks sent rises by 1. The request tag of STREAM_DATA is 0 (log 27). -/
def State.placeChunk (s : State) (p : Nat) (j : Job) (d : List Byte) : State :=
  (s.placeStream p (s.form (s.stationOf p) j.tag 0 (.streamData j.sent d))).updJob j.tag
    (fun x => { x with sent := x.sent + 1 })

/-- STREAM_DATA (R90). A chunk with a byte that nothing has written stops the part (log 5). -/
def execStreamData (p : Nat) (s : State) : StepOutcome :=
  if s.phase = .up && s.streamTurn p then
    match s.chunkJob p with
    | none => s.whenUp id
    | some j =>
      match s.chunkData j j.sent with
      | none => .fault .spoolByteUnwritten
      | some d => s.whenUp (fun s => s.placeChunk p j d)
  else s.whenUp id

/-- R98, R99: what the placing of STREAM_END makes of its job: Finishing with its finish timer, or, on a SILENT printer,
settled on its declared counts and ended. -/
def State.finishStream (s : State) (p : Nat) (j : Job) : State :=
  if (s.printer p).cfg.mode = .silent then
    let t := (s.updJob j.tag (fun x => { x with state := .finishing })).handFaces p j.declaredCounts.tm j.declaredCounts.tc
    (t.settleJob j.tag j.declaredCounts).endTag j.tag .printed
  else s.updJob j.tag (fun x => { x with state := .finishing, finish := .running Config.finishSeconds })

/-- R92: STREAM_END formed and placed, its request tag 0 (log 27): the stall timer stops, the job leaves Printing, and the next
stream may start. -/
def State.placeEnd (s : State) (p : Nat) (j : Job) : State :=
  let t := s.placeStream p (s.form (s.stationOf p) j.tag 0 (.streamEnd j.chunks))
  ((t.updPrinter p (fun e => { e with stall := .stopped })).finishStream p j).startStream p

/-- STREAM_END (R92). -/
def execStreamEnd (p : Nat) (s : State) : StepOutcome :=
  s.whenUp (fun s =>
    if s.streamTurn p then
      match s.endingJob p with
      | none => s
      | some j => s.placeEnd p j
    else s)

end Sys2Proof.Machine
end

