-- ==== Sys2Proof/Machine/Dispatch.lean ====
section
/-! DEFINITION. The dispatch: for each command, one call of its meaning. -/

namespace Sys2Proof.Machine

/-- The effect of a command on everything but the queue of commands. -/
def exec (i : Instr) (s : State) : Host.Outcome State Fault Refusal :=
  match i with
  | .jobOpen h b => Sys2Proof.Machine.execJobOpen h b s
  | .jobData h b => Sys2Proof.Machine.execJobData h b s
  | .jobClose h total => Sys2Proof.Machine.execJobClose h total s
  | .jobCancel h fit => Sys2Proof.Machine.execJobCancel h fit s
  | .receiveIdleExpiry context => Sys2Proof.Machine.execReceiveIdleExpiry context s
  | .list h b => Sys2Proof.Machine.execList h b s
  | .releaseAll h b => Sys2Proof.Machine.execReleaseAll h b s
  | .releaseOne h b => Sys2Proof.Machine.execReleaseOne h b s
  | .deleteOne h b => Sys2Proof.Machine.execDeleteOne h b s
  | .grant h chunks => Sys2Proof.Machine.execGrant h chunks s
  | .pageReport h b => Sys2Proof.Machine.execPageReport h b s
  | .status h b => Sys2Proof.Machine.execStatus h b s
  | .fault h kind => Sys2Proof.Machine.execFault h kind s
  | .stallTimerExpiry printer => Sys2Proof.Machine.execStallTimerExpiry printer s
  | .finishTimerExpiry tag => Sys2Proof.Machine.execFinishTimerExpiry tag s
  | .presenceTimerExpiry printer => Sys2Proof.Machine.execPresenceTimerExpiry printer s
  | .standingLimitExpiry printer => Sys2Proof.Machine.execStandingLimitExpiry printer s
  | .renotifyTimerExpiry record => Sys2Proof.Machine.execRenotifyTimerExpiry record s
  | .minuteEvent => Sys2Proof.Machine.execMinuteEvent s
  | .hourEvent => Sys2Proof.Machine.execHourEvent s
  | .calendarMidnight => Sys2Proof.Machine.execCalendarMidnight s
  | .idleTimerExpiry => Sys2Proof.Machine.execIdleTimerExpiry s
  | .storeDrainComplete => Sys2Proof.Machine.execStoreDrainComplete s
  | .wakeCompletion => Sys2Proof.Machine.execWakeCompletion s
  | .checkpointTimerExpiry => Sys2Proof.Machine.execCheckpointTimerExpiry s
  | .programOperationComplete => Sys2Proof.Machine.execProgramOperationComplete s
  | .restartComplete => Sys2Proof.Machine.execRestartComplete s
  | .powerLoss => Sys2Proof.Machine.execPowerLoss s
  | .coldStart cause => Sys2Proof.Machine.execColdStart cause s
  | .startUpComplete => Sys2Proof.Machine.execStartUpComplete s
  | .passThroughFrame port f => Sys2Proof.Machine.execPassThroughFrame port f s
  | .fptDiscard port payload => Sys2Proof.Machine.execFptDiscard port payload s
  | .frameTransmit port => Sys2Proof.Machine.execFrameTransmit port s
  | .jobOutgoingPlace => Sys2Proof.Machine.execJobOutgoingPlace s
  | .mgmtReplyPlace => Sys2Proof.Machine.execMgmtReplyPlace s
  | .noticeSend => Sys2Proof.Machine.execNoticeSend s
  | .releaseAnswerPlace => Sys2Proof.Machine.execReleaseAnswerPlace s
  | .streamControlPlace printer => Sys2Proof.Machine.execStreamControlPlace printer s
  | .streamData printer => Sys2Proof.Machine.execStreamData printer s
  | .streamEnd printer => Sys2Proof.Machine.execStreamEnd printer s
  | .tableRead h b => Sys2Proof.Machine.execTableRead h b s
  | .settingsWrite h b => Sys2Proof.Machine.execSettingsWrite h b s
  | .classifierWrite h b => Sys2Proof.Machine.execClassifierWrite h b s
  | .tariffWrite h b => Sys2Proof.Machine.execTariffWrite h b s
  | .accountWrite h b => Sys2Proof.Machine.execAccountWrite h b s
  | .printerWrite h b => Sys2Proof.Machine.execPrinterWrite h b s
  | .tableWrite h b => Sys2Proof.Machine.execTableWrite h b s
  | .query h clear => Sys2Proof.Machine.execQuery h clear s
  | .rollPeriod h fit => Sys2Proof.Machine.execRollPeriod h fit s
  | .forceRoll h fit => Sys2Proof.Machine.execForceRoll h fit s
  | .setClock h b => Sys2Proof.Machine.execSetClock h b s
  | .standby h fit => Sys2Proof.Machine.execStandby h fit s
  | .restart h fit => Sys2Proof.Machine.execRestart h fit s
  | .checkpoint h fit => Sys2Proof.Machine.execCheckpoint h fit s
  | .park h printer => Sys2Proof.Machine.execPark h printer s
  | .unpark h printer => Sys2Proof.Machine.execUnpark h printer s
  | .parkNow h printer => Sys2Proof.Machine.execParkNow h printer s
  | .withdraw h printer => Sys2Proof.Machine.execWithdraw h printer s
  | .reinstate h printer => Sys2Proof.Machine.execReinstate h printer s
  | .ackCallout h printer => Sys2Proof.Machine.execAckCallout h printer s
  | .closeCallout h printer => Sys2Proof.Machine.execCloseCallout h printer s
  | .confirmOrder h b => Sys2Proof.Machine.execConfirmOrder h b s
  | .cancelOrder h b => Sys2Proof.Machine.execCancelOrder h b s
  | .cartridgeReplaced h b => Sys2Proof.Machine.execCartridgeReplaced h b s
  | .adjustAccount h b => Sys2Proof.Machine.execAdjustAccount h b s
  | .unlockAccount h account => Sys2Proof.Machine.execUnlockAccount h account s
  | .suspend h account => Sys2Proof.Machine.execSuspend h account s
  | .resume h account => Sys2Proof.Machine.execResume h account s
  | .purgeJob h tag => Sys2Proof.Machine.execPurgeJob h tag s
  | .unknownReleaseRequest h b => Sys2Proof.Machine.execUnknownReleaseRequest h b s
  | .unknownMgmtRequest h fit => Sys2Proof.Machine.execUnknownMgmtRequest h fit s

end Sys2Proof.Machine
end

