-- ==== Sys2Proof/Machine/Step.lean ====
section
/-! DEFINITION. The step of the part: it takes the command at the front of its queue and runs it with the queue's rest; on an
empty queue it idles (log 1). -/

namespace Sys2Proof.Machine

/-- The state with a queue of commands. -/
def State.withPending (s : State) (q : List Instr) : State := { s with pending := q }

/-- One step. -/
def step (s : State) : Host.Outcome State Fault Refusal :=
  match s.pending with
  | [] => .next s
  | c :: rest => exec c (s.withPending rest)

/-- The state with the command that a word spells at the front of its queue; no word spells one, since the opcode table gives
its rows no bits. -/
def State.withFetchWord (s : State) (nbits w : Nat) : State :=
  match decodeTableWord nbits w with
  | some c => s.withPending (c :: s.pending)
  | none => s

/-- A frame arrives at a port: the command it stands for joins the queue at the tail (R181). It is read under the frame type of
the settings as they stand at the arrival. -/
def State.receive (s : State) (port : Port) (f : EthFrame) : State :=
  s.withPending (s.pending ++ [frameCommand s.settings.frameType port f])

end Sys2Proof.Machine
end

