-- ==== Sys2Proof/Safety.lean ====
section
/-! DEFINITION. The terms that statements about the part use: its state in pieces, what a command leaves unchanged, the
conditions under which a message is taken, what an answer is, and what every step keeps. -/

namespace Sys2Proof.Machine

/-! ### The state in pieces -/

/-- The pieces of the state. The idle timer stands apart from the clock, and the writing of the store apart from its slots,
since the end of every step may start the one and begin an operation in the other (R158, R167). -/
inductive Piece
  | phase
  | jobRecords
  | tagAllocator
  | holdSequence
  | contexts
  | outgoing
  | freeSegments
  | promises
  | spoolLow
  | spoolBytes
  | classifier
  | accounts
  | tariff
  | answer
  | printers
  | printerTurn
  | callouts
  | reorders
  | clock
  | idleTimer
  | settings
  | slots
  | storeWriting
  | checkpointTimer
  | resetRecord
  | restartPending
  | reply
  | notices
  | sticky
  | officeOwn
  | officeOther
  | fleetOwn
  | fleetOther
  | freeCount
  | pending
deriving DecidableEq, Repr

/-- The clock but for its idle timer. -/
def Clock.core (c : Clock) : Clock := { c with idle := .stopped }

/-- A port but for its Own-frame Queue. -/
def PortState.other (q : PortState) : PortState := { q with own := [] }

/-- Whether two states agree on a piece. -/
def Piece.same (x : Piece) (s t : State) : Prop :=
  match x with
  | .phase => t.phase = s.phase
  | .jobRecords => t.jobs.recs = s.jobs.recs
  | .tagAllocator => t.jobs.lastTag = s.jobs.lastTag
  | .holdSequence => t.jobs.holdSeq = s.jobs.holdSeq
  | .contexts => t.jobs.contexts = s.jobs.contexts
  | .outgoing => t.jobs.outgoing = s.jobs.outgoing
  | .freeSegments => t.spool.free = s.spool.free
  | .promises => t.spool.promises = s.spool.promises
  | .spoolLow => t.spool.low = s.spool.low
  | .spoolBytes => t.spool.mem = s.spool.mem
  | .classifier => t.classifier = s.classifier ∧ t.dflt = s.dflt
  | .accounts => t.accounts = s.accounts
  | .tariff => t.tariff = s.tariff
  | .answer => t.answer = s.answer
  | .printers => t.printers = s.printers
  | .printerTurn => t.lastPrinter = s.lastPrinter
  | .callouts => t.callouts = s.callouts
  | .reorders => t.reorders = s.reorders
  | .clock => t.clock.core = s.clock.core
  | .idleTimer => t.clock.idle = s.clock.idle
  | .settings => t.settings = s.settings
  | .slots => t.store.slots = s.store.slots
  | .storeWriting =>
    t.store.dirty = s.store.dirty ∧ t.store.called = s.store.called ∧ t.store.queue = s.store.queue
      ∧ t.store.underWay = s.store.underWay
  | .checkpointTimer => t.store.checkpoint = s.store.checkpoint
  | .resetRecord => t.store.reset = s.store.reset
  | .restartPending => t.restartPending = s.restartPending
  | .reply => t.console.reply = s.console.reply
  | .notices => t.console.notices = s.console.notices
  | .sticky =>
    t.console.storeRestored = s.console.storeRestored ∧ t.console.noticeOverflow = s.console.noticeOverflow
      ∧ t.console.strayStation = s.console.strayStation
  | .officeOwn => t.oport.own = s.oport.own
  | .officeOther => t.oport.other = s.oport.other
  | .fleetOwn => t.fport.own = s.fport.own
  | .fleetOther => t.fport.other = s.fport.other
  | .freeCount => t.freeCount = s.freeCount
  | .pending => t.pending = s.pending

/-- `t` differs from `s` in no piece but those listed. -/
def ChangesOnly (l : List Piece) (s t : State) : Prop := ∀ x, x ∉ l → x.same s t

/-- The pieces that the end of a step may change: it begins a program operation (R167) and keeps the idle timer (R158). -/
def endOfStep : List Piece := [.storeWriting, .idleTimer]

/-- The pieces through which the Job Table answers (R185). -/
def jobTraffic : List Piece := [.officeOwn, .outgoing]

/-- The pieces that a notice reaches (R179, R180). -/
def noticeTraffic : List Piece := [.officeOwn, .notices, .sticky]

/-- The pieces through which the Console Agent answers (R175), with those that the end of the step may change. -/
def replyTraffic : List Piece := [.officeOwn, .reply] ++ endOfStep

/-- The pieces that the end of a job reaches (R3, R16). -/
def endPieces : List Piece :=
  [.jobRecords, .contexts, .freeSegments, .promises, .spoolLow, .accounts, .printers, .storeWriting] ++ jobTraffic
    ++ noticeTraffic

/-- The pieces that the opening and closing of callouts reach (R125 to R129). -/
def calloutPieces : List Piece := [.callouts, .printers, .storeWriting] ++ noticeTraffic

/-- The pieces that reorders and colorant records reach (R140 to R150). -/
def supplyPieces : List Piece := [.reorders, .printers, .storeWriting] ++ noticeTraffic

/-- The pieces that the Delivery Engine and the Health Monitor reach: jobs end, return to hold, are re-routed and start to
stream, callouts open and close, and Settling may be abandoned (R158). -/
def deliveryPieces : List Piece := endPieces ++ [.callouts, .clock, .fleetOwn]

/-- Every account but one is as it was. -/
def OtherAccounts (k : Nat) (s t : State) : Prop := ∀ i, i ≠ k → t.account i = s.account i

/-- Every printer but one is as it was. -/
def OtherPrinters (p : Nat) (s t : State) : Prop := ∀ i, i ≠ p → t.printer i = s.printer i

/-- Every job but one is as it was. -/
def OtherJobs (tag : Nat) (s t : State) : Prop := ∀ g, g ≠ tag → t.job g = s.job g

/-! ### Conditions under which a message is taken -/

/-- R182, R185: a job message is examined. -/
structure JobReady (h : Hdr) (s : State) : Prop where
  up : s.phase = .up
  port : h.port = .office
  room : s.jobs.outgoing.length < 32

/-- R174: a MGMT_REQUEST passes steps 2 to 4: it is accepted on the O-port, no reply waits, its station has console rights, the
part is not in Standby or Waking, and no warm restart is pending. -/
structure ConsoleReady (h : Hdr) (s : State) : Prop where
  up : s.phase = .up
  port : h.port = .office
  idle : s.console.reply = none
  rights : (s.classEntry (s.hit h.src)).rights = true
  awake : s.asleep = false
  steady : s.restartPending = false

/-- R182: a message comes from printer `p` on the F-port, and the part is not in Standby or Waking. -/
structure PrinterReady (h : Hdr) (p : Nat) (s : State) : Prop where
  up : s.phase = .up
  port : h.port = .fleet
  station : s.printerOf h.src = some p
  awake : s.asleep = false

/-- R27, R62, R64: a panel request of printer `p` is examined, and its holder is authenticated for account `k`: a valid Open
record that holds the badge and has no PIN, or the PIN of the request. -/
structure PanelReady (h : Hdr) (ask : AskBody) (p k : Nat) (s : State) : Prop extends PrinterReady h p s where
  noAnswer : s.answer = none
  badge : s.accountOfBadge ask.badge = some k
  valid : (s.account k).cfg.valid = true
  isOpen : (s.account k).state = .isOpen
  pin : (s.account k).cfg.pin = none ∨ (s.account k).cfg.pin = ask.pin

/-- R27 step 4: an account once its holder is authenticated. -/
def Account.authed (a : Account) : Account := if a.cfg.pin.isSome then { a with failures := 0 } else a

/-- R121: a Present printer whose frame has been taken while the part is neither in Standby nor in Waking. -/
def PrinterOf.heard (e : Printer) : Printer :=
  if e.cfg.mode = .silent then e else { e with presence := .running e.cfg.presenceInterval }

/-- A printer from which a frame changes nothing but its presence timer (R121): it is Present. -/
def Present (s : State) (p : Nat) : Prop := (s.printer p).standing.unreachable = false

/-! ### Answers -/

/-- R175: the MGMT_REPLY to a request: its result and what it carries. It stands last in the O-port Own-frame Queue, after
whatever the request formed before it, or waits in the Console Agent when that queue is full. -/
def Replied (s t : State) (h : Hdr) (r : Result) (b : ReplyBody) : Prop :=
  let m : OwnMsg :=
    { etherType := t.settings.frameType, src := t.settings.ownStation, dst := h.src, jobTag := 0, reqTag := h.reqTag
      body := .mgmtReply r b }
  (∃ before, t.oport.own = s.oport.own ++ before ++ [m] ∧ t.console.reply = none) ∨
    (32 ≤ t.oport.own.length ∧ t.console.reply = some m)

/-- Whether a message is the Job Table's: a JOB_REPLY or a JOB_STATUS (R184). -/
def OwnMsg.ofJobs (m : OwnMsg) : Bool :=
  match m.body with
  | .jobReply .. => true
  | .jobStatus .. => true
  | _ => false

/-- R184, R185: the Job Table's messages not yet sent, in their order: those of the O-port Own-frame Queue, and then the
outgoing list. -/
def State.jobMessages (s : State) : List OwnMsg := (s.oport.own ++ s.jobs.outgoing).filter OwnMsg.ofJobs

/-- R185: the Job Table's messages of a step, in their order, after all those it sent before. -/
def JobSent (s t : State) (ms : List OwnMsg) : Prop := t.jobMessages = s.jobMessages ++ ms

/-- R179, R180: a notice that was formed, if its kind is enabled: it stands in the O-port Own-frame Queue or in the Notice
Queue, after those that stood there before the step, or it found 16 queued and NOTICE_OVERFLOW is pending. -/
def NoticeFormed (s t : State) (n : Notice) : Prop :=
  s.noticeEnabled n.kind = true →
    let q : QueuedNotice := { etherType := s.settings.frameType, src := s.settings.ownStation, notice := n }
    (∃ a b, t.oport.own = s.oport.own ++ a ++ [s.addressed q] ++ b) ∨
    (∃ a b, t.console.notices = s.console.notices ++ a ++ [q] ++ b) ∨
    (16 ≤ t.console.notices.length ∧ t.console.noticeOverflow = true)

/-- R64: the RELEASE_ANSWER of a panel request: the last of the F-port Own-frame Queue, or waiting in the Release Engine. -/
def PanelAnswered (s t : State) (h : Hdr) (r : Result) (target : Option Nat) (es : List AnswerEntry) : Prop :=
  let m : OwnMsg :=
    { etherType := s.settings.frameType, src := s.settings.ownStation, dst := h.src, jobTag := 0, reqTag := h.reqTag
      body := .releaseAnswer r target es }
  (∃ before, t.fport.own = s.fport.own ++ before ++ [m]) ∨ (32 ≤ t.fport.own.length ∧ t.answer = some m)

/-- R165 to R167: a record changed at this step is dirty, or its image has been captured for the operation under way. -/
def Written (t : State) (n : Nat) : Prop := n ∈ t.store.dirty ∨ t.store.underWay = some (n, t.image n)

/-! ### Tests in order, and what happens to a job -/

/-- The answer of the first test of a list that finds its condition to hold. -/
def FirstOf {α : Type} : List (Prop × α) → α → Prop
  | [], _ => False
  | (p, a) :: rest, r => (p ∧ r = a) ∨ (¬p ∧ FirstOf rest r)

/-- R16: the spool-low condition stands as last tested, and a change of it has sent the SPOOL_LOW notice. -/
def SpoolLowTold (s t : State) : Prop :=
  t.spool.low = t.spool.isLow ∧ (s.spool.low ≠ t.spool.low → NoticeFormed s t (.spoolLow t.spool.low))

/-- R3: job `j` has ended: its chain is appended to the Free Segment List, its promise dropped, its receiving context freed and
its record gone. -/
structure JobEnded (s t : State) (j : Job) : Prop where
  record : t.jobs.recs = s.jobs.recs.filter (fun x => x.tag ≠ j.tag)
  chain : t.spool.freeList = s.spool.freeList ++ j.chain
  promise : t.spool.promises = s.spool.promises - j.promise
  context : t.jobs.contexts = s.jobs.contexts.map (fun c => c.filter (fun x => x.tag ≠ j.tag))
  low : SpoolLowTold s t

/-- R3, R88: a printer whose Delivery Queue a job has left; one that was Parking and whose queue is then empty is Parked. -/
def PrinterOf.without (e : Printer) (tag : Nat) : Printer :=
  if e.service = .parking ∧ e.queue.filter (· ≠ tag) = [] then
    { e with queue := [], service := .parked, limit := .stopped }
  else { e with queue := e.queue.filter (· ≠ tag) }

/-- The messages by which the Job Table answers and tells a job's origin (R4, R12, R14, R19). The request tag of a JOB_STATUS is the
model's (log 27). -/
def jobReplyTo (s : State) (h : Hdr) (tag : Nat) (r : Result) (expected : Nat) : OwnMsg :=
  { etherType := s.settings.frameType, src := s.settings.ownStation, dst := h.src, jobTag := tag, reqTag := h.reqTag
    body := .jobReply r expected }
def statusOf (s : State) (j : Job) (e : JobEvent) (printer : Option Nat) (why : Option EndReason) (charged : Option Nat) :
    OwnMsg :=
  { etherType := s.settings.frameType, src := s.settings.ownStation, dst := j.origin, jobTag := j.tag, reqTag := 0
    body := .jobStatus e printer why charged }

/-- R27, R121: the state once the frame of a panel request from printer `p` is taken and its holder authenticated for account
`k`; beside the account and the printer it may differ in the pieces of `l`. -/
structure Authenticated (l : List Piece) (s t : State) (p k : Nat) : Prop where
  account : t.account k = (s.account k).authed
  accounts : OtherAccounts k s t
  printer : t.printer p = (s.printer p).heard
  printers : OtherPrinters p s t
  rest : ChangesOnly ([Piece.accounts, .printers, .storeWriting] ++ l) s t

/-- R174: the header of a MGMT_REQUEST, and whether its operands fit its kind. -/
def managementOf : Instr → Option (Hdr × Bool)
  | .tableRead h b => some (h, b.isSome)
  | .settingsWrite h b => some (h, b.isSome)
  | .classifierWrite h b => some (h, b.isSome)
  | .tariffWrite h b => some (h, b.isSome)
  | .accountWrite h b => some (h, b.isSome)
  | .printerWrite h b => some (h, b.isSome)
  | .tableWrite h b => some (h, b.isSome)
  | .query h b => some (h, b.isSome)
  | .rollPeriod h fit => some (h, fit)
  | .forceRoll h fit => some (h, fit)
  | .setClock h b => some (h, b.isSome)
  | .standby h fit => some (h, fit)
  | .restart h fit => some (h, fit)
  | .checkpoint h fit => some (h, fit)
  | .park h b => some (h, b.isSome)
  | .unpark h b => some (h, b.isSome)
  | .parkNow h b => some (h, b.isSome)
  | .withdraw h b => some (h, b.isSome)
  | .reinstate h b => some (h, b.isSome)
  | .ackCallout h b => some (h, b.isSome)
  | .closeCallout h b => some (h, b.isSome)
  | .confirmOrder h b => some (h, b.isSome)
  | .cancelOrder h b => some (h, b.isSome)
  | .cartridgeReplaced h b => some (h, b.isSome)
  | .adjustAccount h b => some (h, b.isSome)
  | .unlockAccount h b => some (h, b.isSome)
  | .suspend h b => some (h, b.isSome)
  | .resume h b => some (h, b.isSome)
  | .purgeJob h b => some (h, b.isSome)
  | .unknownMgmtRequest h fit => some (h, fit)
  | _ => none

/-- R62: the header of a RELEASE_ASK, and what it carries when it fits its kind. -/
def panelOf : Instr → Option (Hdr × Option AskBody)
  | .list h b => some (h, b)
  | .releaseAll h b => some (h, b)
  | .releaseOne h b => some (h, b)
  | .deleteOne h b => some (h, b)
  | .unknownReleaseRequest h b => some (h, b)
  | _ => none

/-- R89, R90, R94: the start of a job's stream at a printer: its STREAM_BEGIN is placed in the F-port Own-frame Queue and the
stall timer runs from the full stall timeout, or it waits last in the control list. Its request tag is the model's (log 27). -/
def StreamBegun (s t : State) (p : Nat) (j : Job) : Prop :=
  let m : OwnMsg := { etherType := s.settings.frameType, src := s.settings.ownStation, dst := (s.printer p).cfg.station.getD 0
                      jobTag := j.tag, reqTag := 0, body := .streamBegin j.declaredCounts j.media j.received }
  if (s.printer p).control = [] ∧ s.fport.own.length < 32 then
    t.fport.own = s.fport.own ++ [m] ∧ (t.printer p).control = (s.printer p).control ∧
      (t.printer p).stall = .running (s.printer p).cfg.stallTimeout
  else
    t.fport.own = s.fport.own ∧ (t.printer p).control = (s.printer p).control ++ [m] ∧
      (t.printer p).stall = (s.printer p).stall

/-! ### What a job in delivery goes through -/

/-- R137: a colorant record that `n` faces are counted in; the R of a FULL printer is reported, and does not fall. -/
def Supply.counted (r : Supply) (n : Nat) (full : Bool) : Supply :=
  { r with today := min 65535 (r.today + n), remaining := if full then r.remaining else r.remaining - n }

/-- R137: an entry that faces are counted in: every face in K, a colour face in each of C, M and Y too. -/
def PrinterOf.counted (e : Printer) (mono colour : Nat) : Printer :=
  let full := decide (e.cfg.mode = .full)
  { e with
    k := e.k.map (fun r => r.counted (mono + colour) full), c := e.c.map (fun r => r.counted colour full)
    m := e.m.map (fun r => r.counted colour full), y := e.y.map (fun r => r.counted colour full) }

/-- R96 step 2, R98, R99, R114, R137: faces of printer `p` handed on: they are counted in its colorants, then the score falls by
them, and then the lifetime counters rise. Handing on no face changes nothing. -/
def FacesHanded (s t : State) (p mono colour : Nat) : Prop :=
  if mono + colour = 0 then t = s
  else ∃ u, u.printer p = (s.printer p).counted mono colour ∧ OtherPrinters p s u ∧
    ((s.printer p).cfg.mode ≠ .full →
      ((s.printer p).k.isSome → colorantSlot p .k ∈ u.store.dirty) ∧
      (0 < colour → ∀ col ∈ [Colorant.c, .m, .y], ((s.printer p).supply col).isSome → colorantSlot p col ∈ u.store.dirty)) ∧
    ChangesOnly [Piece.printers, .storeWriting] s u ∧
    t.printer p = { (u.lowerScore p (mono + colour)).printer p with
      lifeMono := min 4294967295 (((u.lowerScore p (mono + colour)).printer p).lifeMono + mono)
      lifeColour := min 4294967295 (((u.lowerScore p (mono + colour)).printer p).lifeColour + colour) } ∧
    OtherPrinters p (u.lowerScore p (mono + colour)) t ∧ ChangesOnly [Piece.printers] (u.lowerScore p (mono + colour)) t

/-- R96 step 1: a reported count becomes the greater of the two. -/
def Job.raised (j : Job) (r : PageReportBody) : Counts :=
  { tm := max j.reportedOrZero.tm r.mono, tc := max j.reportedOrZero.tc r.colour, ts := max j.reportedOrZero.ts r.sheets }

/-- R93, R94: the stall timer of an entry from its full stall timeout, suspended while the standing set is not empty. -/
def PrinterOf.stallFull (e : Printer) : Timer :=
  if e.standing = Standing.none then .running e.cfg.stallTimeout else .suspended e.cfg.stallTimeout

/-- R96 steps 1 to 3: a PAGE_REPORT taken from printer `p` for its Printing or Finishing job `j`. -/
def ReportTaken (s t : State) (p : Nat) (j : Job) (r : PageReportBody) : Prop :=
  ∃ u v, u.job j.tag = some { j with reported := some (j.raised r) } ∧ OtherJobs j.tag s u ∧
    u.printer p = (s.printer p).heard ∧ OtherPrinters p s u ∧ ChangesOnly [Piece.jobRecords, .printers] s u ∧
    FacesHanded u v p ((j.raised r).tm - j.reportedOrZero.tm) ((j.raised r).tc - j.reportedOrZero.tc) ∧
    (if j.state = .printing then
      t.printer p = { v.printer p with stall := (v.printer p).stallFull } ∧ OtherPrinters p v t ∧
        ChangesOnly [Piece.printers] v t
    else
      t.job j.tag = (v.job j.tag).map (fun x => { x with finish := .running 600 }) ∧ OtherJobs j.tag v t ∧
        ChangesOnly [Piece.jobRecords] v t)

/-- R34, R100: job `j` is settled on a charge. -/
structure Settled (s t : State) (j : Job) (points : Nat) : Prop where
  account : t.account j.account = { s.account j.account with
    reserved := (s.account j.account).reserved - j.reservation.getD 0
    spent := min 16777215 ((s.account j.account).spent + points)
    overdrawn := overdrawnFlag (s.account j.account).cfg.budget (min 16777215 ((s.account j.account).spent + points)) }
  accounts : OtherAccounts j.account s t
  notice : (s.account j.account).overdrawn = false → (t.account j.account).overdrawn = true →
    NoticeFormed s t (.accountOverdrawn j.account (min 16777215 ((s.account j.account).spent + points))
      (s.account j.account).cfg.budget)
  dirty : balanceSlot j.account ∈ t.store.dirty
  job : t.job j.tag = (s.job j.tag).map (fun x => { x with reservation := none, charged := some points })
  jobs : OtherJobs j.tag s t
  rest : ChangesOnly ([Piece.jobRecords, .accounts, .storeWriting] ++ noticeTraffic) s t

/-- R3: job `j` of the Delivery Queue of printer `p` ends there, with the points it is told as charged. -/
structure EndedAt (s t : State) (p : Nat) (j : Job) (why : EndReason) (charged : Option Nat) : Prop where
  ended : JobEnded s t j
  printer : t.printer p = (s.printer p).without j.tag
  printers : OtherPrinters p s t
  told : s.jobs.outgoing.length < 4096 → JobSent s t [statusOf s j .ended (some p) (some why) charged]
  rest : ChangesOnly ([Piece.jobRecords, .contexts, .freeSegments, .promises, .spoolLow, .printers, .storeWriting]
    ++ jobTraffic ++ noticeTraffic) s t

/-- R21, R37: job `j`, settled or unreserved, returns to hold from printer `p`. -/
structure ReturnedToHold (s t : State) (p : Nat) (j : Job) : Prop where
  job : t.job j.tag = some { j with
    rates := none, reservation := none, charged := none, reported := none, sent := 0, allowed := 0, interrupted := true
    expiry := some (max (j.expiry.getD 0) (s.clock.uptime + 60)), state := .held, finish := .stopped }
  jobs : OtherJobs j.tag s t
  printer : t.printer p = (s.printer p).without j.tag
  printers : OtherPrinters p s t
  held : ∃ a b, (s.account j.account).held = a ++ b ∧
    t.account j.account = { s.account j.account with held := a ++ [j.tag] ++ b } ∧
    (∀ g ∈ a, stampBefore (j.stamp.getD (0, 0)) (t.stampOf g) = false) ∧
    (∀ g, b.head? = some g → stampBefore (j.stamp.getD (0, 0)) (t.stampOf g) = true)
  accounts : OtherAccounts j.account s t
  told : s.jobs.outgoing.length < 4096 → JobSent s t [statusOf s j .held (some p) none none]
  rest : ChangesOnly ([Piece.jobRecords, .accounts, .printers, .storeWriting] ++ jobTraffic) s t

/-- R90, R94, R102, R104: the stream of the Printing job `j` of printer `p` is stopped: its STREAM_BEGIN is withdrawn while it
still waits, and else STREAM_CANCEL is placed, or waits last in the control list. Its request tag is the model's (log 27). -/
structure StreamStopped (s t : State) (p : Nat) (j : Job) : Prop where
  printers : OtherPrinters p s t
  withdrawn : (∃ m ∈ (s.printer p).control, m.isBeginOf j.tag = true) →
    t.fport = s.fport ∧ t.printer p = { s.printer p with
      stall := .stopped, control := (s.printer p).control.filter (fun m => !m.isBeginOf j.tag) }
  cancelled : (∀ m ∈ (s.printer p).control, m.isBeginOf j.tag = false) →
    let m : OwnMsg := { etherType := s.settings.frameType, src := s.settings.ownStation, dst := (s.printer p).cfg.station.getD 0
                        jobTag := j.tag, reqTag := 0, body := .streamCancel }
    if (s.printer p).control = [] ∧ s.fport.own.length < 32 then
      t.fport = { s.fport with own := s.fport.own ++ [m] } ∧ t.printer p = { s.printer p with stall := .stopped }
    else
      t.fport = s.fport ∧ t.printer p = { s.printer p with stall := .stopped, control := (s.printer p).control ++ [m] }
  rest : ChangesOnly [Piece.printers, .fleetOwn] s t

/-! ### What a printer's health goes through -/

/-- R121: the frame of a Present printer is taken. -/
structure Heard (s t : State) (p : Nat) : Prop where
  printer : t.printer p = (s.printer p).heard
  printers : OtherPrinters p s t
  rest : ChangesOnly [Piece.printers] s t

/-- The entry of printer `p` is replaced, and every other piece but those of `l` is as it was. -/
structure EntryBecomes (l : List Piece) (s t : State) (p : Nat) (e : Printer) : Prop where
  printer : t.printer p = e
  printers : OtherPrinters p s t
  rest : ChangesOnly ([Piece.printers] ++ l) s t

/-- R93, R120, R122: an entry whose standing set becomes `x`: the pause begins, ends, or goes on as it was. -/
def PrinterOf.stood (e : Printer) (x : Standing) : Printer :=
  if e.standing = Standing.none ∧ x ≠ Standing.none then
    { e with
      standing := x
      stall := match e.stall with
        | .running n => .suspended n
        | y => y
      limit := if e.service = .inService ∨ e.service = .parking then .running e.cfg.standingLimit else e.limit }
  else if e.standing ≠ Standing.none ∧ x = Standing.none then
    { e with
      standing := x
      stall := match e.stall with
        | .suspended _ => .running e.cfg.stallTimeout
        | y => y
      limit := .stopped }
  else { e with standing := x }

/-- R124: a record of the Callout Table is replaced: it is marked dirty, and no other record changes. -/
structure CalloutBecomes (l : List Piece) (s t : State) (i : Nat) (c : Option Callout) : Prop where
  record : t.callout i = c
  records : ∀ x, x ≠ i → t.callout x = s.callout x
  dirty : calloutSlot i ∈ t.store.dirty
  rest : ChangesOnly ([Piece.callouts, .storeWriting] ++ noticeTraffic ++ l) s t

/-- R125: the callout that step 3 opens for a printer. -/
def State.newCallout (s : State) (p : Nat) (k : CalloutKind) (c : CalloutCause) : Callout :=
  { printer := p, kind := k, acknowledged := false, opened := s.clock.uptime, count := 0, cause := c
    timer := if s.asleep then .suspended s.settings.renotify else .running s.settings.renotify }

/-! ### What every step keeps -/

/-- Spool memory has its canonical form (log 5). -/
def State.SpoolCanonical (s : State) : Prop := memWf s.spool.mem = true

/-- R88, R161, R166, R180, R184, R185: no queue of bounded length is over its bound, nor the outgoing list, no more than 8 FAULT
messages are kept, and a record stands in the Store Write Queue once. -/
structure State.QueuesBounded (s : State) : Prop where
  officeOwn : s.oport.own.length ≤ 32
  fleetOwn : s.fport.own.length ≤ 32
  notices : s.console.notices.length ≤ 16
  storeWrites : s.store.queue.length ≤ 64
  storeOnce : s.store.queue.Nodup
  delivery : ∀ e ∈ s.printers, e.2.queue.length ≤ 8
  kept : s.clock.kept.length ≤ 8
  outgoing : s.jobs.outgoing.length ≤ 4096

/-- R184: neither Pass-through Queue holds more than 65,536 bytes of frame. -/
structure State.PassBounded (s : State) : Prop where
  office : s.oport.passHeld ≤ 65536
  fleet : s.fport.passHeld ≤ 65536

/-- R2, R7, R17, R90, R153, R184: the counters that nothing sets stay in their ranges, the producers and the printer served last
are in their tables, and there are 32 receiving contexts. -/
structure State.CountersInRange (s : State) : Prop where
  uptime : s.clock.uptime ≤ 4294967295
  holdSeq : s.jobs.holdSeq ≤ 4294967295
  lastTag : 1 ≤ s.jobs.lastTag ∧ s.jobs.lastTag ≤ 65535
  contexts : s.jobs.contexts.length = 32
  turns : s.oport.served ≤ 2 ∧ s.fport.served ≤ 1 ∧ s.lastPrinter ≤ 63

/-- R32, R35: the overdrawn flag of an account is that of its spent and budget, and reserved is within its range. -/
structure Account.Sound (a : Account) : Prop where
  overdrawn : a.overdrawn = overdrawnFlag a.cfg.budget a.spent
  reserved : a.reserved ≤ 16777215

/-- R110, R116: the score of a printer is within its range, and one that is not Withdrawn has the health of its score's band. -/
structure PrinterOf.HealthSound (e : Printer) : Prop where
  score : e.score ≤ 1023
  band : e.health ≠ .withdrawn → e.health = bandOf e.score

/-- R32, R35: every account is sound. -/
def State.AccountsSound (s : State) : Prop := ∀ e ∈ s.accounts, e.2.Sound

/-- R116: every printer's health follows its score. -/
def State.HealthFollowsScore (s : State) : Prop := ∀ e ∈ s.printers, e.2.HealthSound

/-- R2: the Job Table holds at most 1,024 records, no two of one tag, every tag being from 1 to 65,535. -/
structure State.TagsDistinct (s : State) : Prop where
  once : (s.jobs.recs.map Job.tag).Nodup
  range : ∀ j ∈ s.jobs.recs, 1 ≤ j.tag ∧ j.tag ≤ 65535
  records : s.jobs.recs.length ≤ 1024

/-- R15: every segment is in the Free Segment List or in the chain of exactly one job. -/
structure State.SegmentsAccounted (s : State) : Prop where
  tags : (s.jobs.recs.map Job.tag).Nodup
  segments : (s.spool.freeList ++ s.jobs.recs.flatMap Job.chain).Perm (List.range 65536)

/-- R12, R13: a job's chain holds the segments its received bytes need, and a promise stands for the rest of its need while it
is Receiving. -/
structure Job.SpoolSound (j : Job) : Prop where
  chain : j.chain.length = ceilDiv j.received 4096
  received : j.received ≤ j.declared
  promise : j.state = .receiving → j.promise = ceilDiv j.declared 4096 - j.chain.length

/-- R9, R13: the promise count is the sum of the promises, and the Free Segment List covers it. -/
structure State.PromisesCovered (s : State) : Prop where
  jobs : ∀ j ∈ s.jobs.recs, j.SpoolSound
  count : s.spool.promises = (s.jobs.recs.map Job.promise).sum
  covered : s.spool.promises ≤ s.spool.freeLength

/-- R90: a control list in front of a Printing job, or with none Printing: at most one STREAM_CANCEL, and then the STREAM_BEGIN of
the Printing job while it waits; a list without it is empty while a job is Printing. -/
def ControlSound (control : List OwnMsg) (printing : Option Job) : Prop :=
  control = [] ∨ ∃ cancels, (cancels = [] ∨ ∃ m, cancels = [m] ∧ m.body = .streamCancel) ∧
    match printing with
    | none => control = cancels
    | some j => ∃ m, m.isBeginOf j.tag = true ∧ control = cancels ++ [m]

/-- R10, R32 to R34, R37, R88, R90: every job is in the collection of its state and in no other, an account's reserved is the sum of
its jobs' reservations, and no part without power holds a job. -/
structure State.JobsPlaced (s : State) : Prop where
  held : ∀ k g, g ∈ (s.account k).held ↔ ∃ j, s.job g = some j ∧ j.state = .held ∧ j.account = k
  heldOnce : ∀ k, (s.account k).held.Nodup
  delivery : ∀ g, (∃ p, g ∈ (s.printer p).queue) ↔ ∃ j, s.job g = some j ∧ j.state.inDelivery = true
  deliveryOnce : (∀ p, (s.printer p).queue.Nodup) ∧ ∀ p q, p ≠ q → ∀ g ∈ (s.printer p).queue, g ∉ (s.printer q).queue
  printing : ∀ p, (s.jobsIn p .printing).length ≤ 1
  receiving : ∀ g, some g ∈ s.jobs.contexts.map (Option.map Context.tag) ↔ ∃ j, s.job g = some j ∧ j.state = .receiving
  receivingOnce : (s.jobs.contexts.filterMap (Option.map Context.tag)).Nodup
  reserved : ∀ k, (s.account k).reserved = ((s.jobsOf k).map (fun j => j.reservation.getD 0)).sum
  reservation : ∀ j ∈ s.jobs.recs, j.reservation ≠ none → j.state.inDelivery = true
  control : ∀ p, ControlSound (s.printer p).control (s.firstIn p .printing)
  powered : s.phase ≠ .up → s.jobs.recs = []

/-- R164: the slots have their canonical form (log 4): numbers rising, and none that holds its good factory image. -/
abbrev Store.SlotsCanonical (st : Store) : Prop :=
  (st.slots.map Prod.fst).Pairwise (· < ·) ∧ ∀ e ∈ st.slots, e.2 ≠ some (factoryImage e.1)

/-- The tables have their canonical forms (log 25), and the slots theirs. -/
structure State.TablesCanonical (s : State) : Prop where
  classifier : Tbl.wf ClassEntry.factory s.classifier = true
  accounts : Tbl.wf Account.factory s.accounts = true
  active : Tbl.wf Row.factory s.tariff.active = true
  waiting : Tbl.wf Row.factory s.tariff.pending = true
  printers : Tbl.wf printerFactory s.printers = true
  callouts : Tbl.wf none s.callouts = true
  reorders : Tbl.wf none s.reorders = true
  slots : s.store.SlotsCanonical

/-! ### What a management request comes to -/

/-- R174, R175: a request is carried out, `u` being what its rule makes of the state, and its reply is given last. -/
def CarriedOut (c : Instr) (h : Hdr) (s u : State) (r : Result) (b : ReplyBody := .none) : Prop :=
  ∃ t, exec c s = .next t ∧ Replied s t h r b ∧ ChangesOnly replyTraffic u t

/-! ### Colorants and orders -/

/-- R145: the reorder record that is opened for a colorant record. -/
def State.newOrder (s : State) (p : Nat) (col : Colorant) (r : Supply) : Reorder :=
  { printer := p, colorant := col, confirmed := false, openedDay := s.clock.calendar.map Calendar.day
    level := r.remaining * 1000 / r.cfg.yield, days := if r.usage = 0 then none else some (r.remaining * 16 / r.usage) }

/-- R144, R145, R150: reorder record `i` is opened for the colorant record `r` of a printer. -/
structure OrderOpened (s t : State) (p : Nat) (col : Colorant) (r : Supply) (i : Nat) : Prop where
  record : t.reorder i = some (s.newOrder p col r)
  records : ∀ x, x ≠ i → t.reorder x = s.reorder x
  entry : t.printer p = (s.printer p).setSupply col (some { r with armed := false, owed := false })
  printers : OtherPrinters p s t
  dirty : reorderSlot i ∈ t.store.dirty ∧ (r.armed = true → colorantSlot p col ∈ t.store.dirty)
  notice : NoticeFormed s t (.reorder i (s.newOrder p col r) (s.newOrder p col r).level .opened)
  rest : ChangesOnly supplyPieces s t

/-- R146: reorder record `i` is closed. -/
structure OrderClosed (s t : State) (i : Nat) (o : Reorder) (d : ReorderDetail) : Prop where
  record : t.reorder i = none
  records : ∀ x, x ≠ i → t.reorder x = s.reorder x
  dirty : reorderSlot i ∈ t.store.dirty
  notice : NoticeFormed s t (.reorder i o ((((s.printer o.printer).supply o.colorant).map Supply.level).getD 0) d)
  rest : ChangesOnly ([Piece.reorders, .storeWriting] ++ noticeTraffic) s t

/-! ### Jobs that end one after another -/

/-- R3, R18, R43: jobs that are Receiving or Held end one after another, in the order of the list. -/
structure JobsEnded (s t : State) (l : List Job) (why : EndReason) : Prop where
  records : t.jobs.recs = s.jobs.recs.filter (fun x => x.tag ∉ l.map Job.tag)
  chains : t.spool.freeList = s.spool.freeList ++ l.flatMap Job.chain
  promises : t.spool.promises = s.spool.promises - (l.map Job.promise).sum
  contexts : t.jobs.contexts = s.jobs.contexts.map (fun c => c.filter (fun x => x.tag ∉ l.map Job.tag))
  held : ∀ k, t.account k = { s.account k with
    held := (s.account k).held.filter (fun g => ∀ j ∈ l, ¬(j.state = .held ∧ j.account = k ∧ j.tag = g)) }
  told : s.jobs.outgoing.length + l.length ≤ 4096 →
    JobSent s t (l.map (fun j => statusOf s j .ended none (some why) j.charged))
  rest : ChangesOnly ([Piece.jobRecords, .contexts, .freeSegments, .promises, .spoolLow, .accounts] ++ jobTraffic
    ++ noticeTraffic) s t

/-! ### Time, standby and the store -/

/-- R39, R40, R51, R168: a period roll, which moves the next-roll day to `next`, with or without its notice. It calls every dirty
balance and colorant record. -/
structure PeriodRolled (s t : State) (next : Nat) (announce : Bool) : Prop where
  accounts : ∀ k, t.account k = { s.account k with
    spent := if (s.account k).cfg.valid then 0 else (s.account k).spent
    overdrawn := if (s.account k).cfg.valid then false else (s.account k).overdrawn }
  balances : ∀ k ≤ 4095, (s.account k).cfg.valid = true → balanceSlot k ∈ t.store.dirty ∧ balanceSlot k ∈ t.store.called
  called : ∀ n, n ∈ t.store.called ↔ n ∈ s.store.called ∨ (4282 ≤ n ∧ n ≤ 8633 ∧ n ∈ t.store.dirty)
  banks : t.tariff = if s.tariff.written then { active := s.tariff.pending, pending := s.tariff.pending, written := false }
    else s.tariff
  rows : s.tariff.written = true → ∀ i < 16, activeSlot i ∈ t.store.dirty
  schedule : t.settings = { s.settings with nextRollDay := next }
  moved : next ≠ s.settings.nextRollDay → settingsSlot ∈ t.store.dirty
  notice : announce = true → NoticeFormed s t (.periodRolled next)
  quiet : announce = false → t.oport = s.oport ∧ t.console = s.console
  rest : ChangesOnly ([Piece.accounts, .tariff, .settings, .storeWriting] ++ noticeTraffic) s t

/-- R18: hold expiry: every Held job whose expiry is not later than uptime ends EXPIRED, in the order of the hold stamps. -/
def HeldExpired (s t : State) : Prop :=
  ∃ l : List Job, l.Perm (s.jobs.recs.filter (fun j => j.state = .held ∧ j.expiry.getD 0 ≤ s.clock.uptime)) ∧
    l.Pairwise (fun a b => stampBefore (b.stamp.getD (0, 0)) (a.stamp.getD (0, 0)) = false) ∧ JobsEnded s t l .expired

/-- R168: a checkpoint occasion: every dirty balance and colorant record is called, and waiting due records are queued. -/
def Called (s t : State) : Prop :=
  ∃ u, (∀ n, n ∈ u.store.called ↔ n ∈ s.store.called ∨ (n ∈ s.store.dirty ∧ 4282 ≤ n ∧ n ≤ 8633)) ∧
    u.store.dirty = s.store.dirty ∧ u.store.queue = s.store.queue ∧ u.store.underWay = s.store.underWay ∧
    ChangesOnly [Piece.storeWriting] s u ∧ t = u.fillQueue

/-- R159, R160: the part enters Standby. -/
structure StandbyEntered (s t : State) : Prop where
  clock : t.clock = { s.clock with mode := .standby, idle := .stopped, midnights := 0 }
  checkpoint : t.store = { s.store with checkpoint := .stopped }
  printers : ∀ p, t.printer p = { s.printer p with
    presence := (s.printer p).presence.suspend, limit := (s.printer p).limit.suspend }
  callouts : ∀ i, t.callout i = (s.callout i).map (fun c => { c with timer := c.timer.suspend })
  rest : ChangesOnly [.clock, .idleTimer, .checkpointTimer, .printers, .callouts] s t

/-- R23, R46, R109, R133, R173: what a warm restart discards, sets and keeps. -/
structure WarmRestarted (s t : State) : Prop where
  jobs : t.jobs = { recs := [], lastTag := s.jobs.lastTag, holdSeq := 0, contexts := List.replicate 32 none, outgoing := [] }
  spool : t.spool.freeList = List.range 65536 ∧ t.spool.promises = 0 ∧ t.spool.low = false ∧ t.spool.mem = s.spool.mem
  accounts : ∀ k, t.account k = { s.account k with reserved := 0, held := [] }
  printers : ∀ p, t.printer p = { s.printer p with
    service := if (s.printer p).service = .parking then .parked else (s.printer p).service
    queue := [], control := [], stall := .stopped, standing := Standing.none, limit := .stopped
    presence := if (s.printer p).service ≠ .unused ∧ (s.printer p).cfg.mode ≠ .silent
      then .running (s.printer p).cfg.presenceInterval else .stopped }
  parked : ∀ p, (s.printer p).service = .parking → Written t (healthSlot p)
  clock : t.clock.core = { s.clock.core with mode := .running, kept := [], midnights := 0 }
  waiting : t.answer = none ∧ t.console.reply = none ∧ t.console.notices = []
  office : t.oport = { s.oport with pass := [], own := t.oport.own, lastOwn := false, served := 2 }
  started : t.oport.own = if s.noticeEnabled .started then
    [s.addressed { etherType := s.settings.frameType, src := s.settings.ownStation, notice := .started .console 0 }] else []
  fleet : t.fport = { pass := [], own := [], lastOwn := false, served := 1, wire := s.fport.wire }
  turn : t.lastPrinter = 63
  resetRecord : t.store.reset = { cause := .console, failed := List.replicate 10 0, conservative := 0 }
  done : t.restartPending = false
  rest : ChangesOnly ([Piece.jobRecords, .holdSequence, .contexts, .outgoing, .freeSegments, .promises, .spoolLow, .accounts,
    .answer, .printers, .printerTurn, .clock, .resetRecord, .restartPending, .reply, .notices, .officeOwn, .officeOther,
    .fleetOwn, .fleetOther] ++ endOfStep) s t

/-- The message kinds of printers (R182), each with its header. -/
def printerMessageOf : Instr → Option Hdr
  | .grant h _ => some h
  | .pageReport h _ => some h
  | .status h _ => some h
  | .fault h _ => some h
  | .list h _ => some h
  | .releaseAll h _ => some h
  | .releaseOne h _ => some h
  | .deleteOne h _ => some h
  | .unknownReleaseRequest h _ => some h
  | _ => none

/-- The job messages (R182), each with its header and whether it fits its kind. -/
def jobMessageOf : Instr → Option (Hdr × Bool)
  | .jobOpen h b => some (h, b.isSome)
  | .jobData h b => some (h, b.isSome)
  | .jobClose h b => some (h, b.isSome)
  | .jobCancel h fit => some (h, fit)
  | _ => none

/-- R158, R167: what holds between the steps of a part that is up: a program operation is under way while the queue of slot
writes is not empty, and the idle timer runs exactly while the part is Running with an idle time, no warm restart pending (R172)
and the idle condition holding (log 15). -/
structure State.ServiceSettled (s : State) : Prop where
  writing : s.phase = .up → s.store.underWay = none → s.store.queue = []
  idle : s.phase = .up → (s.clock.idle.runs = true ↔ s.clock.mode = .running ∧ s.restartPending = false ∧
    s.settings.idleTime ≠ 0 ∧ s.idleCondition = true)

end Sys2Proof.Machine
end

