-- ==== Sys2Proof/Certificates/Slice0/Obligations.lean ====
section
/-! DEFINITION. The statements about the part. Each names the rules it is about; the conclusion of a statement about a command is
the state that its `exec` answers, with what it leaves unchanged. -/

open Sys2Proof Sys2Proof.Machine

/-! ### The part as a whole -/

/-- A step runs the command at the front of the queue with the queue's rest; on an empty queue the part idles (log 1). -/
def Obligations.StepRunsFrontCommand : Prop :=
  (∀ (c : Instr) (rest : List Instr) (s : State), step (s.withPending (c :: rest)) = exec c (s.withPending rest)) ∧
  (∀ s : State, step (s.withPending []) = .next (s.withPending []))

/-- Every command is answered by a next state with the same commands waiting, but for STREAM_DATA, which stops the part when
the chunk it is to send holds a byte that nothing has written (log 5). Until the last slot has been read, and without power,
no command but the three of the start itself does anything (R169, log 9). -/
def Obligations.CommandsGoOn : Prop :=
  (∀ (c : Instr) (s : State),
    (∃ t, exec c s = .next t ∧ t.pending = s.pending) ∨
    (∃ p j, c = .streamData p ∧ s.chunkJob p = some j ∧ s.chunkData j j.sent = none ∧
      exec c s = .fault .spoolByteUnwritten)) ∧
  (∀ (c : Instr) (s : State), s.phase ≠ .up → c ≠ .powerLoss → c ≠ .startUpComplete → (∀ x, c ≠ .coldStart x) →
    exec c s = .next s)

/-- The state right after reset is what a cold start by POWER and its start-up leave from good factory slots, whatever the
part held before it lost power (log 4, log 9). -/
def Obligations.ResetIsAColdStart : Prop :=
  ∀ s : State, s.phase ≠ .off → s.store.slots = [] → s.store.underWay = none →
    ∃ t, exec (.coldStart .power) s = .next t ∧
      exec .startUpComplete t = .next { State.reset with freeCount := s.freeCount, pending := s.pending }

/-! ### What every step keeps -/

/-- Every step keeps the queues within their lengths (R166, R180, R184), the Delivery Queues (R88), the kept FAULT messages
(R161) and the outgoing list (R185) among them; R185: a JOB_STATUS formed while that list holds 4,096 is discarded, and one
formed while it holds fewer is sent after those before it; spool memory, the tables and the slots in their canonical forms
(log 4, log 5, log 25); and the counters and the turns in their ranges (R2, R7, R17, R90, R153, R184, log 6, log 10). The
control lists are bounded by JobsStayInTheirCollections (R90). -/
def Obligations.QueuesTablesAndCountersKept : Prop :=
  (∀ s t : State, s.QueuesBounded → s.PassBounded → step s = .next t → t.QueuesBounded ∧ t.PassBounded) ∧
  (∀ s t : State, s.SpoolCanonical → s.TablesCanonical → step s = .next t → t.SpoolCanonical ∧ t.TablesCanonical) ∧
  (∀ s t : State, s.CountersInRange → step s = .next t → t.CountersInRange) ∧
  (∀ (s : State) (j : Job) (e : JobEvent) (p : Option Nat) (why : Option EndReason) (charged : Option Nat),
    (4096 ≤ s.jobs.outgoing.length → s.jobStatus j e p why charged = s) ∧
    (s.jobs.outgoing.length < 4096 → JobSent s (s.jobStatus j e p why charged) [statusOf s j e p why charged] ∧
      (s.jobStatus j e p why charged).jobs.outgoing.length ≤ 4096 ∧
      ChangesOnly jobTraffic s (s.jobStatus j e p why charged)))

/-- R35: every step keeps the overdrawn flag of every account that of its spent and its budget. -/
def Obligations.OverdrawnFollowsSpent : Prop :=
  ∀ s t : State, s.AccountsSound → step s = .next t → t.AccountsSound

/-- R116: every step keeps the health of every printer that is not Withdrawn at the band of its score. -/
def Obligations.HealthFollowsScoreKept : Prop :=
  ∀ s t : State, s.HealthFollowsScore → step s = .next t → t.HealthFollowsScore

/-- Every step keeps the tags of the Job Table distinct (R2); every segment in the Free Segment List or in the chain of
exactly one job (R15); and each chain as long as its received bytes need, the received bytes within the declared ones, the
promise count the sum of the promises, and the Free Segment List long enough for it (R9, R12, R13). -/
def Obligations.SpoolStaysAccounted : Prop :=
  (∀ s t : State, s.TagsDistinct → step s = .next t → t.TagsDistinct) ∧
  (∀ s t : State, s.SegmentsAccounted → step s = .next t → t.SegmentsAccounted) ∧
  (∀ s t : State, s.SegmentsAccounted → s.PromisesCovered → step s = .next t → t.PromisesCovered)

/-- Every step keeps each job in the collection of its state and in no other: a Receiving job in one receiving context (R10), a
Held job in its account's Held List (R37), a job in delivery in one Delivery Queue with at most one Printing (R88); the
reserved of an account the sum of its jobs' reservations (R32 to R34); and the control lists with at most one STREAM_CANCEL and
then the STREAM_BEGIN of the Printing job (R90). -/
def Obligations.JobsStayInTheirCollections : Prop :=
  ∀ s t : State, s.TagsDistinct → s.TablesCanonical → s.JobsPlaced → step s = .next t → t.JobsPlaced

/-- R158, R167: at reset and after every step of a part that is up, a program operation is under way while slot writes wait in
the Store Write Queue, and the idle timer runs exactly under the conditions of R158 (log 14, log 15). -/
def Obligations.ServiceStaysSettled : Prop :=
  State.reset.ServiceSettled ∧ ∀ s t : State, s.ServiceSettled → step s = .next t → t.ServiceSettled

/-- Right after reset the Job Table and the spool hold what R22 gives, and what every step keeps holds. -/
def Obligations.InvariantsAtReset : Prop :=
  (State.reset.jobs.recs = [] ∧ State.reset.jobs.lastTag = 65535 ∧ State.reset.jobs.holdSeq = 0 ∧
    State.reset.jobs.contexts = List.replicate 32 none ∧ State.reset.spool.freeList = List.range 65536 ∧
    State.reset.spool.promises = 0 ∧ State.reset.spool.low = false ∧ State.reset.spool.isLow = false) ∧
  State.reset.QueuesBounded ∧ State.reset.PassBounded ∧ State.reset.SpoolCanonical ∧ State.reset.TablesCanonical ∧
    State.reset.CountersInRange ∧ State.reset.AccountsSound ∧ State.reset.HealthFollowsScore ∧
    State.reset.TagsDistinct ∧ State.reset.SegmentsAccounted ∧ State.reset.PromisesCovered ∧ State.reset.JobsPlaced ∧
    State.reset.store.dirty.Pairwise (· < ·)

/-! ### Jobs, intake and the spool (file 01) -/

/-- R7 to R10: a JOB_OPEN that passes every step is accepted: the first tag after the last issued that no record holds, a
record as R1 gives for acceptance, the need promised, a free receiving context with its timer at 120 seconds, and JOB_REPLY OK
with the tag. The context taken is the free one of lowest index (log 8). R1, R8: the record of an accepted job, field by field,
and the bounds of its declared counts. R5, R7: the classifier's hit, which is the matching entry of lowest index or else DEFAULT
(24), and the account a number names, or else the guest account of the hit. -/
def Obligations.JobOpenAccepted : Prop :=
  (∀ (h : Hdr) (b : JobOpenBody) (s : State) (k : Nat),
    JobReady h s → s.asleep = false → (s.classEntry (s.hit h.src)).policy ≠ .refuse → none ∈ s.jobs.contexts →
    s.accountFor b.account (s.hit h.src) = some k → (s.account k).state = .isOpen →
    (s.account k).held.length + ((s.jobsOf k).filter (fun j => j.state == .receiving)).length < (s.account k).cfg.heldCap →
    (s.jobsOf k).length < 64 → 1 ≤ b.faces → b.faces ≤ 4000 → b.copies ≤ 99 → 1 ≤ b.bytes → b.bytes ≤ 67108864 →
    1024 + ceilDiv b.bytes 4096 ≤ s.spool.headroom → s.jobs.recs.length < 1024 →
    ∃ t tag n, exec (.jobOpen h (some b)) s = .next t ∧
      tag = nextTag^[n + 1] s.jobs.lastTag ∧ (∀ m < n, (s.job (nextTag^[m + 1] s.jobs.lastTag)).isSome) ∧
      s.job tag = none ∧ t.jobs.lastTag = tag ∧
      t.jobs.recs = s.jobs.recs ++ [b.record tag h.src k (s.hit h.src)] ∧
      t.spool.promises = s.spool.promises + ceilDiv b.bytes 4096 ∧
      (∃ i, s.jobs.contexts[i]? = some none ∧ (∀ m < i, s.jobs.contexts[m]? ≠ some none) ∧
        t.jobs.contexts = s.jobs.contexts.set i (some { tag := tag, idle := .running 120 })) ∧
      JobSent s t [jobReplyTo s h tag .ok 0] ∧ SpoolLowTold s t ∧
      t.clock.core = { s.clock.core with mode := if s.clock.mode = .settling then .running else s.clock.mode } ∧
      ChangesOnly ([Piece.jobRecords, .tagAllocator, .contexts, .promises, .spoolLow, .clock] ++ jobTraffic ++ noticeTraffic
        ++ endOfStep) s t) ∧
  (∀ (b : JobOpenBody) (tag origin k hit : Nat), 1 ≤ b.faces → b.faces ≤ 4000 → b.copies ≤ 99 →
    ∃ fc n sheets, fc = min b.colourFaces b.faces ∧ n = (if b.copies = 0 then 1 else b.copies) ∧
      sheets = (if b.duplex then (b.faces + 1) / 2 else b.faces) ∧
      b.record tag origin k hit =
        { tag := tag, origin := origin, account := k, hit := hit
          declaredCounts := { tm := (b.faces - fc) * n, tc := fc * n, ts := sheets * n }, media := b.media
          target := if b.target = 0 then none else some b.target, name := if b.name = [] then none else some b.name
          declared := b.bytes, received := 0, chain := [], promise := ceilDiv b.bytes 4096, stamp := none, expiry := none
          state := .receiving, rates := none, reservation := none, charged := none, reported := none, sent := 0, allowed := 0
          interrupted := false, finish := .stopped } ∧
      1 ≤ (b.faces - fc) * n + fc * n ∧ (b.faces - fc) * n ≤ 396000 ∧ fc * n ≤ 396000 ∧ sheets * n ≤ 396000 ∧
      ((b.record tag origin k hit).colour = true ↔ 0 < fc * n)) ∧
  (∀ (s : State) (station : Nat), s.TablesCanonical →
    let matching (i : Nat) : Prop := (s.classEntry i).valid = true ∧
      station &&& (s.classEntry i).mask = (s.classEntry i).value &&& (s.classEntry i).mask
    s.hit station ≤ 24 ∧ (s.hit station < 24 → matching (s.hit station)) ∧ ∀ i < s.hit station, ¬matching i) ∧
  (∀ (s : State) (number hit k : Nat), s.TablesCanonical →
    let holds (i : Nat) : Prop := (s.account i).cfg.valid = true ∧ (s.account i).cfg.number = number
    (s.accountFor number hit = some k ↔ (holds k ∧ ∀ i < k, ¬holds i) ∨
      ((∀ i, ¬holds i) ∧ (s.classEntry hit).guest = some k ∧ (s.account k).cfg.valid = true)))

/-- R7, R8, R9: a JOB_OPEN is tested in the order of the steps; the first that fails gives the answer, and nothing but the
answer changes. -/
def Obligations.JobOpenRefused : Prop :=
  ∀ (h : Hdr) (b : JobOpenBody) (s : State) (r : Result), JobReady h s → s.asleep = false →
    FirstOf
      [((s.classEntry (s.hit h.src)).policy = .refuse, .notAccepted),
       (none ∉ s.jobs.contexts, .busy),
       (s.accountFor b.account (s.hit h.src) = none, .unknownAccount),
       (∃ k, s.accountFor b.account (s.hit h.src) = some k ∧ (s.account k).state ≠ .isOpen, .accountBlocked),
       (∃ k, s.accountFor b.account (s.hit h.src) = some k ∧ ((s.account k).cfg.heldCap ≤
          (s.account k).held.length + ((s.jobsOf k).filter (fun j => j.state == .receiving)).length
          ∨ 64 ≤ (s.jobsOf k).length), .holdLimit),
       (b.faces = 0 ∨ b.bytes = 0, .emptyJob),
       (4000 < b.faces ∨ 99 < b.copies ∨ 67108864 < b.bytes, .tooLarge),
       (s.spool.headroom < 1024 + ceilDiv b.bytes 4096, .spoolLow),
       (1024 ≤ s.jobs.recs.length, .busy)] r →
    ∃ t, exec (.jobOpen h (some b)) s = .next t ∧ JobSent s t [jobReplyTo s h 0 r 0] ∧
      ChangesOnly (jobTraffic ++ endOfStep) s t

/-- R12, R13: an accepted JOB_DATA takes the head of the Free Segment List when its data reach beyond the chain (there is
one), writes its bytes into the chain at the offset and no other byte of spool memory, raises the received bytes and starts
the receive idle timer again. -/
def Obligations.JobDataAccepted : Prop :=
  ∀ (h : Hdr) (d : JobDataBody) (s : State) (j : Job),
    JobReady h s → s.job h.jobTag = some j → j.origin = h.src → j.state = .receiving → d.offset = j.received →
    d.offset + d.data.length ≤ j.declared → 1 ≤ d.data.length → d.data.length ≤ 1400 → s.SegmentsAccounted → s.PromisesCovered →
    let more : Prop := j.chain.length * 4096 < d.offset + d.data.length
    ∃ t chain, exec (.jobData h (some d)) s = .next t ∧
      t.job h.jobTag = some { j with received := j.received + d.data.length, chain := chain
                                     promise := if j.chain.length * 4096 < d.offset + d.data.length then j.promise - 1
                                                else j.promise } ∧
      chain.length = ceilDiv (j.received + d.data.length) 4096 ∧
      (more → ∃ g, s.spool.freeList = g :: t.spool.freeList ∧ chain = j.chain ++ [g] ∧
        t.spool.promises + 1 = s.spool.promises) ∧
      (¬more → t.spool.freeList = s.spool.freeList ∧ chain = j.chain ∧ t.spool.promises = s.spool.promises) ∧
      (∀ n x, d.data[n]? = some x →
        ∃ a, spoolAddress chain (d.offset + n) = some a ∧ memRead t.spool.mem a = some x) ∧
      (∀ a, (∀ n < d.data.length, spoolAddress chain (d.offset + n) ≠ some a) →
        memRead t.spool.mem a = memRead s.spool.mem a) ∧
      t.jobs.contexts = s.jobs.contexts.map (Option.map (fun x =>
        if x.tag = h.jobTag then { x with idle := .running 120 } else x)) ∧
      JobSent s t [jobReplyTo s h h.jobTag .ok (j.received + d.data.length)] ∧ OtherJobs h.jobTag s t ∧
      ChangesOnly ([Piece.jobRecords, .contexts, .freeSegments, .promises, .spoolBytes] ++ jobTraffic ++ endOfStep) s t

/-- R12, R14, R19, R183: the answers that job messages give without changing a job: the first condition that holds decides. -/
def Obligations.JobMessagesRefused : Prop :=
  ∀ (h : Hdr) (s : State) (r : Result) (n : Nat), JobReady h s →
    (∀ d : JobDataBody,
      FirstOf
        [(d.data.length = 0 ∨ 1400 < d.data.length, (.badLength, 0)),
         (∀ j, s.job h.jobTag = some j → j.origin ≠ h.src, (.noSuchJob, 0)),
         (∃ j, s.job h.jobTag = some j ∧ j.state ≠ .receiving, (.tooLate, 0)),
         (∃ j, s.job h.jobTag = some j ∧ d.offset ≠ j.received, (.outOfOrder, ((s.job h.jobTag).map Job.received).getD 0)),
         (∃ j, s.job h.jobTag = some j ∧ j.declared < d.offset + d.data.length, (.tooLarge, 0))] (r, n) →
      ∃ t, exec (.jobData h (some d)) s = .next t ∧ JobSent s t [jobReplyTo s h h.jobTag r n] ∧
        ChangesOnly (jobTraffic ++ endOfStep) s t) ∧
    (∀ total : Nat,
      FirstOf
        [(∀ j, s.job h.jobTag = some j → j.origin ≠ h.src, (.noSuchJob, 0)),
         (∃ j, s.job h.jobTag = some j ∧ j.state ≠ .receiving ∧ total = j.received, (.ok, 0)),
         (∃ j, s.job h.jobTag = some j ∧ j.state ≠ .receiving, (.noSuchJob, 0)),
         (∃ j, s.job h.jobTag = some j ∧ total ≠ j.received, (.outOfOrder, ((s.job h.jobTag).map Job.received).getD 0))]
        (r, n) →
      ∃ t, exec (.jobClose h (some total)) s = .next t ∧ JobSent s t [jobReplyTo s h h.jobTag r n] ∧
        ChangesOnly (jobTraffic ++ endOfStep) s t) ∧
    (FirstOf
        [(∀ j, s.job h.jobTag = some j → j.origin ≠ h.src, (.noSuchJob, 0)),
         (∃ j, s.job h.jobTag = some j ∧ j.state = .finishing, (.tooLate, 0))] (r, n) →
      ∃ t, exec (.jobCancel h true) s = .next t ∧ JobSent s t [jobReplyTo s h h.jobTag r n] ∧
        ChangesOnly (jobTraffic ++ endOfStep) s t)

/-- R14, R17, R76, R77: an accepted JOB_CLOSE drops the promise, frees the context and places the job at the tail of its
account's Held List, with its hold stamp and its expiry; the origin is answered and told. Then the direct path, when it is
tried, releases the job at the printer of its target station as a panel there would, or leaves it Held. -/
def Obligations.JobCloseHolds : Prop :=
  ∀ (h : Hdr) (s : State) (j : Job),
    JobReady h s → s.job h.jobTag = some j → j.origin = h.src → j.state = .receiving → j.received ≠ 0 →
    let held : Job := { j with
      promise := 0, state := .held, stamp := some (s.clock.uptime, s.jobs.holdSeq)
      expiry := some (s.clock.uptime + (s.classEntry j.hit).hold * 60) }
    ∃ v t, exec (.jobClose h (some j.received)) s = .next t ∧ v.job h.jobTag = some held ∧
      v.account j.account = { s.account j.account with held := (s.account j.account).held ++ [h.jobTag] } ∧
      v.jobs.holdSeq = (if s.jobs.holdSeq < 4294967295 then s.jobs.holdSeq + 1 else 0) ∧
      v.spool.promises = s.spool.promises - j.promise ∧ SpoolLowTold s v ∧
      v.jobs.contexts = s.jobs.contexts.map (fun c => c.filter (fun x => x.tag ≠ h.jobTag)) ∧
      JobSent s v [jobReplyTo s h h.jobTag .ok 0, statusOf s j .held none none none] ∧
      OtherJobs h.jobTag s v ∧ OtherAccounts j.account s v ∧
      ChangesOnly ([Piece.jobRecords, .holdSequence, .contexts, .promises, .spoolLow, .accounts] ++ jobTraffic ++ noticeTraffic)
        s v ∧
      ((s.classEntry j.hit).policy ≠ .direct ∨ j.target = none → ChangesOnly endOfStep v t) ∧
      (∀ station, (s.classEntry j.hit).policy = .direct → j.target = some station →
        (∀ p, v.printerOf station = some p → (v.account j.account).state = .isOpen → (v.printer p).eligible held = true →
          v.target p held = some p ∧ ChangesOnly endOfStep (v.examine p held).state t) ∧
        ((∀ p, v.printerOf station = some p →
            (v.account j.account).state ≠ .isOpen ∨ (v.printer p).eligible held = false) → ChangesOnly endOfStep v t))

/-- R3, R14, R19: the job messages that end a job before its release: a JOB_CANCEL of a Receiving or Held job, and a JOB_CLOSE
of a job that received nothing. The reply is formed before the JOB_STATUS Ended; for the JOB_CLOSE that order is the model's
choice (log 36). R3, R11, R20: the expiry of a running receive idle timer ends its job ABANDONED, and that of a timer that
does not run changes nothing, which is the model's choice (log 2); PURGE_JOB ends a Receiving or Held job PURGED, and is
refused for a tag of no record and for a job in delivery. -/
def Obligations.JobsEndBeforeRelease : Prop :=
  (∀ (h : Hdr) (s : State) (j : Job), JobReady h s → s.job h.jobTag = some j → j.origin = h.src →
    (j.state = .receiving ∨ j.state = .held →
      ∃ t, exec (.jobCancel h true) s = .next t ∧ JobEnded s t j ∧
        (j.state = .held → t.account j.account =
          { s.account j.account with held := (s.account j.account).held.filter (· ≠ j.tag) }) ∧
        (j.state = .receiving → t.accounts = s.accounts) ∧ OtherAccounts j.account s t ∧
        JobSent s t [jobReplyTo s h h.jobTag .ok 0, statusOf s j .ended none (some .userCancelled) j.charged] ∧
        ChangesOnly ([Piece.jobRecords, .contexts, .freeSegments, .promises, .spoolLow, .accounts] ++ jobTraffic ++ noticeTraffic
          ++ endOfStep) s t) ∧
    (j.state = .receiving → j.received = 0 →
      ∃ t, exec (.jobClose h (some 0)) s = .next t ∧ JobEnded s t j ∧
        JobSent s t [jobReplyTo s h h.jobTag .emptyJob 0, statusOf s j .ended none (some .refused) j.charged] ∧
        ChangesOnly ([Piece.jobRecords, .contexts, .freeSegments, .promises, .spoolLow] ++ jobTraffic ++ noticeTraffic
          ++ endOfStep) s t)) ∧
  ((∀ (s : State) (j : Job), s.job j.tag = some j → s.jobs.outgoing.length < 4096 →
    (∀ (i : Nat) (x : Context), s.phase = .up → s.jobs.contexts[i]? = some (some x) → x.tag = j.tag → x.idle.runs = true →
      j.state = .receiving →
      ∃ t, exec (.receiveIdleExpiry i) s = .next t ∧ JobEnded s t j ∧
        JobSent s t [statusOf s j .ended none (some .abandoned) j.charged] ∧
        ChangesOnly ([Piece.jobRecords, .contexts, .freeSegments, .promises, .spoolLow] ++ jobTraffic ++ noticeTraffic
          ++ endOfStep) s t) ∧
    (∀ h : Hdr, ConsoleReady h s → j.state = .receiving ∨ j.state = .held →
      ∃ t, exec (.purgeJob h (some j.tag)) s = .next t ∧ JobEnded s t j ∧ Replied s t h .ok .none ∧
        (j.state = .held → t.account j.account =
          { s.account j.account with held := (s.account j.account).held.filter (· ≠ j.tag) }) ∧
        (j.state = .receiving → t.accounts = s.accounts) ∧ OtherAccounts j.account s t ∧
        JobSent s t [statusOf s j .ended none (some .purged) j.charged] ∧
        ChangesOnly ([Piece.jobRecords, .contexts, .freeSegments, .promises, .spoolLow, .accounts] ++ jobTraffic ++ noticeTraffic
          ++ replyTraffic) s t)) ∧
  (∀ (i : Nat) (s : State), s.phase = .up → (∀ x, s.jobs.contexts[i]? = some (some x) → x.idle.runs = false) →
    ∃ t, exec (.receiveIdleExpiry i) s = .next t ∧ ChangesOnly endOfStep s t) ∧
  (∀ (h : Hdr) (tag : Nat) (s : State) (r : Result), ConsoleReady h s →
    FirstOf [(s.job tag = none, .noSuchJob),
      (∃ j, s.job tag = some j ∧ j.state ≠ .receiving ∧ j.state ≠ .held, .tooLate)] r →
    CarriedOut (.purgeJob h (some tag)) h s s r))

/-! ### Accounts and quota periods (file 02) -/

/-- R27, R62: a panel request that is refused before its PIN is compared: AUTH_FAILED when no valid record holds the badge,
ACCOUNT_BLOCKED when the record is Locked or Suspended. No account changes. R27 step 3, R28: a PIN mismatch counts one failure
and answers AUTH_FAILED; the fifth locks the account and sends ACCOUNT_LOCKED. R26: the record, valid or not, that holds a
badge; of two, which no write makes, the one of lower index. -/
def Obligations.PanelAuthentication : Prop :=
  (∀ (h : Hdr) (ask : AskBody) (p : Nat) (s : State) (r : Result), PrinterReady h p s → Present s p → s.answer = none →
    FirstOf
      [(∀ k, s.accountOfBadge ask.badge = some k → (s.account k).cfg.valid = false, .authFailed),
       (∀ k, s.accountOfBadge ask.badge = some k → (s.account k).state ≠ .isOpen, .accountBlocked)] r →
    ∀ c ∈ [Instr.list h (some ask), .releaseAll h (some ask), .releaseOne h (some ask), .deleteOne h (some ask)],
      ∃ t, exec c s = .next t ∧ PanelAnswered s t h r none [] ∧ t.printer p = (s.printer p).heard ∧ OtherPrinters p s t ∧
        ChangesOnly ([Piece.printers, .fleetOwn, .answer] ++ endOfStep) s t) ∧
  (∀ (h : Hdr) (ask : AskBody) (p k : Nat) (d : List Nat) (s : State), PrinterReady h p s → Present s p → s.answer = none →
    s.accountOfBadge ask.badge = some k → (s.account k).cfg.valid = true → (s.account k).state = .isOpen →
    (s.account k).cfg.pin = some d → ask.pin ≠ some d →
    ∀ c ∈ [Instr.list h (some ask), .releaseAll h (some ask), .releaseOne h (some ask), .deleteOne h (some ask)],
      ∃ t, exec c s = .next t ∧ PanelAnswered s t h .authFailed none [] ∧
        t.account k = { s.account k with
          failures := min 5 ((s.account k).failures + 1)
          state := if (s.account k).failures < 4 then .isOpen else .locked } ∧
        (4 ≤ (s.account k).failures → NoticeFormed s t (.accountLocked k)) ∧
        ((s.account k).failures < 4 → t.oport = s.oport ∧ t.console = s.console) ∧
        Written t (balanceSlot k) ∧ OtherAccounts k s t ∧ t.printer p = (s.printer p).heard ∧ OtherPrinters p s t ∧
        ChangesOnly ([Piece.accounts, .printers, .fleetOwn, .answer] ++ noticeTraffic ++ endOfStep) s t) ∧
  (∀ (s : State) (badge : Nat), s.TablesCanonical →
    (s.accountOfBadge badge = none ↔ ∀ k, (s.account k).cfg.badge ≠ some badge) ∧
    (∀ k, s.accountOfBadge badge = some k ↔
      (s.account k).cfg.badge = some badge ∧ ∀ i < k, (s.account i).cfg.badge ≠ some badge))

/-- R31: the available quota, the charges within it, and its two uses: in a read of the account, and in the outcome that a
LIST answer shows for a job with a target. That this outcome is that of the procedure of R71, which tests the available quota
alone, and not that of Reserve, is the model's choice (log 29). -/
def Obligations.AvailableQuota : Prop :=
  ∀ (a : Account) (c : Nat),
    (a.cfg.budget = .unlimited → a.available = .unlimited ∧ a.covers c = true) ∧
    (∀ b, a.cfg.budget = .finite b →
      (∃ q : Nat, a.available = .finite q ∧ (q : Int) = max 0 ((b : Int) - a.spent - a.reserved) ∧
        (a.covers c = true ↔ c ≤ q))) ∧
    a.view.available = a.available ∧
    (∀ (s : State) (p t : Nat) (j : Job), s.account j.account = a → s.target p j = some t →
      (s.listFate p j).1 = if a.covers (s.priceAt t j) then .released else .skippedQuota)

/-- R32 to R35: Reserve, Unreserve and Settle on an account, each with its frame. -/
def Obligations.QuotaOperations : Prop :=
  ∀ (s : State) (k : Nat),
    (∀ c, ((s.account k).covers c = true ∧ (s.account k).reserved + c ≤ 16777215 →
        ∃ t, s.reserve k c = some t ∧ t.account k = { s.account k with reserved := (s.account k).reserved + c } ∧
          OtherAccounts k s t ∧ ChangesOnly [.accounts] s t) ∧
      ((s.account k).covers c = false ∨ 16777215 < (s.account k).reserved + c → s.reserve k c = none)) ∧
    (∀ n, (s.unreserve k n).account k = { s.account k with reserved := (s.account k).reserved - n } ∧
      OtherAccounts k s (s.unreserve k n) ∧ ChangesOnly [.accounts] s (s.unreserve k n)) ∧
    (∀ r n, (s.settle k r n).account k = { s.account k with
          reserved := (s.account k).reserved - r, spent := min 16777215 ((s.account k).spent + n)
          overdrawn := overdrawnFlag (s.account k).cfg.budget (min 16777215 ((s.account k).spent + n)) } ∧
      ((s.account k).overdrawn = false → ((s.settle k r n).account k).overdrawn = true →
        NoticeFormed s (s.settle k r n) (.accountOverdrawn k (min 16777215 ((s.account k).spent + n))
          (s.account k).cfg.budget)) ∧
      balanceSlot k ∈ (s.settle k r n).store.dirty ∧ OtherAccounts k s (s.settle k r n) ∧
      ChangesOnly ([Piece.accounts, .storeWriting] ++ noticeTraffic) s (s.settle k r n))

/-- R29, R30, R36: the four account commands refuse an index above 4,095, and then a record that is not valid. R35, R36:
ADJUST_ACCOUNT; that an amount outside the range of R36 is carried out as any other is the model's choice (log 33). R29, R30:
UNLOCK_ACCOUNT, SUSPEND and RESUME, by the record's state. -/
def Obligations.AccountCommands : Prop :=
  (∀ (h : Hdr) (k : Nat) (amount : Int) (s : State) (r : Result), ConsoleReady h s →
    FirstOf [(4095 < k, .badIndex), ((s.account k).cfg.valid = false, .unknownAccount)] r →
    ∀ c ∈ [Instr.adjustAccount h (some (k, amount)), .unlockAccount h (some k), .suspend h (some k), .resume h (some k)],
      ∃ t, exec c s = .next t ∧ Replied s t h r .none ∧ ChangesOnly replyTraffic s t) ∧
  (∀ (h : Hdr) (k : Nat) (amount : Int) (s : State), ConsoleReady h s → k ≤ 4095 → (s.account k).cfg.valid = true →
    ∃ t spent, exec (.adjustAccount h (some (k, amount))) s = .next t ∧
      ((spent : Nat) : Int) = max 0 (min 16777215 ((s.account k).spent + amount)) ∧
      t.account k = { s.account k with
        spent := spent, overdrawn := overdrawnFlag (s.account k).cfg.budget spent } ∧
      ((s.account k).overdrawn = false → (t.account k).overdrawn = true →
        NoticeFormed s t (.accountOverdrawn k spent (s.account k).cfg.budget)) ∧
      ((s.account k).overdrawn = true ∨ (t.account k).overdrawn = false → t.console.notices = s.console.notices) ∧
      Replied s t h .ok (.newSpent spent) ∧ Written t (balanceSlot k) ∧ OtherAccounts k s t ∧
      ChangesOnly ([Piece.accounts] ++ noticeTraffic ++ replyTraffic) s t) ∧
  (∀ (h : Hdr) (k : Nat) (s : State), ConsoleReady h s → k ≤ 4095 → (s.account k).cfg.valid = true →
    (∃ t, exec (.unlockAccount h (some k)) s = .next t ∧
      t.account k = { s.account k with
        failures := 0, state := if (s.account k).state = .locked then .isOpen else (s.account k).state } ∧
      Replied s t h .ok .none ∧ Written t (balanceSlot k) ∧ OtherAccounts k s t ∧
      ChangesOnly ([Piece.accounts] ++ replyTraffic) s t) ∧
    (∃ t, exec (.suspend h (some k)) s = .next t ∧
      t.account k = { s.account k with
        state := if (s.account k).state = .isOpen then .suspended else (s.account k).state } ∧
      Replied s t h (if (s.account k).state = .locked then .entryLocked else .ok) .none ∧
      ((s.account k).state = .isOpen → Written t (balanceSlot k)) ∧ OtherAccounts k s t ∧
      ChangesOnly ([Piece.accounts] ++ replyTraffic) s t) ∧
    (∃ t, exec (.resume h (some k)) s = .next t ∧
      t.account k = { s.account k with
        state := if (s.account k).state = .suspended then .isOpen else (s.account k).state } ∧
      Replied s t h (if (s.account k).state = .locked then .entryLocked else .ok) .none ∧
      ((s.account k).state = .suspended → Written t (balanceSlot k)) ∧ OtherAccounts k s t ∧
      ChangesOnly ([Piece.accounts] ++ replyTraffic) s t))

/-- R42, R43: ACCOUNT_WRITE. The tests in their order; what a write makes of the record; validation and invalidation. A budget
out of the range of R25 is stored as a free value (log 7), and a PIN with a byte that is no digit is refused as one that does
not fit R25 (log 21). -/
def Obligations.AccountWrites : Prop :=
  (∀ (h : Hdr) (k : Nat) (c : AccountConfig) (s : State), ConsoleReady h s → s.TablesCanonical →
    let a := s.account k
    let tests : List (Prop × Result) :=
      [(4095 < k, .badIndex),
       (c.number = 0 ∨ 1048575 < c.number ∨ 3 < c.cls ∨
          (∃ d, c.pin = some d ∧ (d.length < 4 ∨ 8 < d.length ∨ ∃ x ∈ d, 9 < x)), .notAccepted),
       (c.badge ≠ Option.none ∧ (∃ i, i ≠ k ∧ (s.account i).cfg.badge = c.badge), .entryLocked),
       (c.valid = true ∧ (∃ i, i ≠ k ∧ (s.account i).cfg.valid = true ∧ (s.account i).cfg.number = c.number), .entryLocked),
       (0 < a.reserved ∧ (c.number ≠ a.cfg.number ∨ c.cls ≠ a.cfg.cls), .entryLocked)]
    (∀ r, FirstOf tests r → CarriedOut (.accountWrite h (some (k, c))) h s s r) ∧
    ((∀ r, ¬FirstOf tests r) → ∃ (new : AccountConfig) (u : State),
      new = { c with budget := new.budget, heldCap := max 1 (min c.heldCap 64) } ∧
      (c.budget = .unlimited ∨ (∃ b ≤ 16777215, c.budget = .finite b) → new.budget = c.budget) ∧
      (let written : Account := { a with
          cfg := new, failures := if new.pin = a.cfg.pin then a.failures else 0
          overdrawn := if new.budget = a.cfg.budget then a.overdrawn else overdrawnFlag new.budget a.spent };
        (c.valid = true → a.cfg.valid = false → balanceSlot k ∈ u.store.dirty ∧
          u.account k = { written with spent := 0, failures := 0, state := .isOpen, overdrawn := false }) ∧
        (c.valid = false ∨ a.cfg.valid = true → u.account k = written)) ∧
      OtherAccounts k s u ∧ accountSlot k ∈ u.store.dirty ∧
      (new.pin ≠ a.cfg.pin → balanceSlot k ∈ u.store.dirty) ∧
      (new.budget ≠ a.cfg.budget → a.overdrawn = false → overdrawnFlag new.budget a.spent = true →
        NoticeFormed s u (.accountOverdrawn k a.spent new.budget)) ∧
      ChangesOnly ([Piece.accounts, .storeWriting, .idleTimer, .freeCount] ++ noticeTraffic) s u ∧
      (c.valid = true ∨ a.cfg.valid = false → CarriedOut (.accountWrite h (some (k, c))) h s u .ok) ∧
      (c.valid = false → a.cfg.valid = true →
        CarriedOut (.accountWrite h (some (k, c))) h s (u.invalidate k) .ok))) ∧
  (∀ (s : State) (k : Nat), s.TagsDistinct → (s.account k).held.Nodup →
    (∀ g ∈ (s.account k).held, ∃ j, s.job g = some j ∧ j.state = .held ∧ j.account = k) →
    JobsEnded s (s.invalidate k) (s.jobs.recs.filter (fun j => j.account = k ∧ j.state = .receiving)
      ++ (s.account k).held.filterMap s.job) .purged)

/-- R40, R41, R51: ROLL_PERIOD and FORCE_ROLL make a period roll at once; the first alone announces it. R168: the roll calls
every dirty balance and colorant record, those of before the roll among them. -/
def Obligations.RollCommands : Prop :=
  ∀ (h : Hdr) (s : State) (announce : Bool), ConsoleReady h s → s.TablesCanonical →
    ∃ t, exec (if announce then .rollPeriod h true else .forceRoll h true) s = .next t ∧
      (∀ k, t.account k = { s.account k with
        spent := if (s.account k).cfg.valid then 0 else (s.account k).spent
        overdrawn := if (s.account k).cfg.valid then false else (s.account k).overdrawn }) ∧
      (∀ k, (s.account k).cfg.valid = true → Written t (balanceSlot k)) ∧
      (∀ n, 4282 ≤ n → n ≤ 8633 → n ∈ s.store.dirty ∨ (∃ k, n = balanceSlot k ∧ (s.account k).cfg.valid = true) →
        (n ∈ t.store.dirty ∧ n ∈ t.store.called) ∨ t.store.underWay = some (n, t.image n)) ∧
      (s.tariff.written = true → t.tariff = { active := s.tariff.pending, pending := s.tariff.pending, written := false } ∧
        ∀ i < 16, Written t (activeSlot i)) ∧
      (s.tariff.written = false → t.tariff = s.tariff) ∧
      (∀ c, s.clock.calendar = some c → 1 ≤ s.settings.periodLength →
        c.day < t.settings.nextRollDay ∧ t.settings.nextRollDay ≤ c.day + s.settings.periodLength ∧
          (s.settings.periodLength : Int) ∣ (t.settings.nextRollDay : Int) - s.settings.nextRollDay) ∧
      (s.clock.calendar = none → t.settings.nextRollDay = s.settings.nextRollDay) ∧
      t.settings = { s.settings with nextRollDay := t.settings.nextRollDay } ∧
      (announce = true → NoticeFormed s t (.periodRolled t.settings.nextRollDay)) ∧
      (announce = false → t.console.notices = s.console.notices) ∧
      Replied s t h .ok .none ∧ ChangesOnly ([Piece.accounts, .tariff, .settings] ++ noticeTraffic ++ replyTraffic) s t

/-! ### The Tariff Unit (file 03) -/

/-- R52, R53, R54: the charge in its five stages, with the charge of R54's example. R54: the charge does not fall when any
total or any value of the row rises. R48, R55: a job is priced at the Active row of the printer's band and the account's class,
and R58: settled at its stored rates. -/
def Obligations.ChargeInFiveStages : Prop :=
  (∀ (n : Counts) (m : Media) (r : Row), r.rm ≤ 65535 → r.rc ≤ 65535 → r.ps ≤ 65535 → 16 ≤ r.l → r.l ≤ 64 → r.jmin ≤ 255 →
    basePrice n r = n.tm * r.rm + n.tc * r.rc + n.ts * r.ps ∧
    (n.tm ≤ 396000 → n.tc ≤ 396000 → n.ts ≤ 396000 → basePrice n r ≤ 77855580000) ∧
    (basePrice n r = 0 ↔ (n.tm = 0 ∨ r.rm = 0) ∧ (n.tc = 0 ∨ r.rc = 0) ∧ (n.ts = 0 ∨ r.ps = 0)) ∧
    scaledPrice n .standard r = basePrice n r ∧
    (∃ q, scaledPrice n .large r = q ∧ basePrice n r * r.l ≤ 16 * q ∧ 16 * q < basePrice n r * r.l + 16) ∧
    (r.l = 16 → scaledPrice n .large r = basePrice n r) ∧ (r.l = 64 → scaledPrice n .large r = 4 * basePrice n r) ∧
    (n.tm ≤ 16777215 → n.tc ≤ 16777215 → n.ts ≤ 16777215 →
      basePrice n r ≤ 3298484355075 ∧ scaledPrice n m r ≤ 13193937420300 ∧ basePrice n r * r.l ≤ 211102998724800) ∧
    (n.tm + n.tc = 0 → charge n m r = 0) ∧
    (0 < n.tm + n.tc → ∃ points, scaledPrice n m r ≤ 1000 * points ∧ 1000 * points < scaledPrice n m r + 1000 ∧
      charge n m r = min 16777215 (max (max points r.jmin) 1) ∧ r.jmin ≤ charge n m r ∧ 1 ≤ charge n m r ∧
      (m = .large → ∃ one, basePrice n r * r.l ≤ 16000 * one ∧ 16000 * one < basePrice n r * r.l + 16000 ∧ points = one)) ∧
    charge n m r ≤ 16777215 ∧
    (n = { tm := 0, tc := 396000, ts := 396000 } → r.rc = 65535 → r.ps = 65535 → r.l = 64 →
      basePrice n r = 51903720000 ∧ scaledPrice n .large r = 207614880000 ∧ charge n .large r = 16777215)) ∧
  (∀ (n n' : Counts) (m : Media) (r r' : Row), n.tm ≤ n'.tm → n.tc ≤ n'.tc → n.ts ≤ n'.ts →
    r.rm ≤ r'.rm → r.rc ≤ r'.rc → r.ps ≤ r'.ps → r.l ≤ r'.l → r.jmin ≤ r'.jmin → charge n m r ≤ charge n' m r') ∧
  (∀ (s : State) (p : Nat) (j : Job) (n : Counts),
    let band := (s.printer p).cfg.band
    let cls := (s.account j.account).cfg.cls
    let row := Tbl.get Row.factory s.tariff.active (4 * band + cls)
    s.ratesAt p j.account = { row := row, band := band, cls := cls } ∧
    s.priceAt p j = charge j.declaredCounts j.media row ∧
    (∀ r, j.rates = some r → j.chargeOf n = charge n j.media r.row))

/-- R5, R6, R39, R49, R177: the writes of the Settings, Classifier and Tariff Tables: an index above the table's last answers
BAD_INDEX and writes nothing; else the fields are stored with their clamps, and the record is written to its slot. -/
def Obligations.TableWrites : Prop :=
  ∀ (h : Hdr) (i : Nat) (s : State), ConsoleReady h s →
    (∀ b : Settings, ∃ t, exec (.settingsWrite h (some (i, b))) s = .next t ∧
      (0 < i → Replied s t h .badIndex .none ∧ ChangesOnly replyTraffic s t) ∧
      (i = 0 → t.settings = { b with
          periodLength := max 1 (min b.periodLength 62)
          nextRollDay := match s.clock.calendar with
            | none => min b.nextRollDay 65535
            | some c => if c.day < min b.nextRollDay 65535 then min b.nextRollDay 65535
                        else firstBoundary (min b.nextRollDay 65535) (max 1 (min b.periodLength 62)) c.day
          renotify := max 5 (min b.renotify 240)
          idleTime := if b.idleTime = 0 then 0 else max 10 (min b.idleTime 240)
          checkpoint := max 5 (min b.checkpoint 120) } ∧
        Replied s t h .ok .none ∧ Written t settingsSlot ∧ ChangesOnly ([Piece.settings] ++ replyTraffic) s t)) ∧
    (∀ b : ClassEntry, ∃ t, exec (.classifierWrite h (some (i, b))) s = .next t ∧
      (24 < i → Replied s t h .badIndex .none ∧ ChangesOnly replyTraffic s t) ∧
      (i ≤ 24 → t.classEntry i = { b with valid := b.valid && decide (i < 24), hold := max 1 (min b.hold 168) } ∧
        (∀ k, k ≤ 24 → k ≠ i → t.classEntry k = s.classEntry k) ∧
        Replied s t h .ok .none ∧ Written t (classSlot i) ∧ ChangesOnly ([Piece.classifier] ++ replyTraffic) s t)) ∧
    (∀ b : Row, ∃ t, exec (.tariffWrite h (some (i, b))) s = .next t ∧
      (15 < i → Replied s t h .badIndex .none ∧ ChangesOnly replyTraffic s t) ∧
      (i ≤ 15 → Tbl.get Row.factory t.tariff.pending i = { b with l := max 16 (min b.l 64) } ∧
        (∀ k, k ≠ i → Tbl.get Row.factory t.tariff.pending k = Tbl.get Row.factory s.tariff.pending k) ∧
        t.tariff.active = s.tariff.active ∧ t.tariff.written = true ∧
        Replied s t h .ok .none ∧ Written t (pendingSlot i) ∧ ChangesOnly ([Piece.tariff] ++ replyTraffic) s t))

/-! ### The Release Engine (file 04) -/

/-- R66: the group of the asking printer, with that printer in it, and which members have the capability for a job. R65, R67:
when a printer is eligible for a job, and the target of a job for a request at a printer: that printer when it is eligible,
else the eligible printer of its group whose Delivery Queue holds the fewest jobs, the lowest index among equals. R67: the
skip reason of a job with no target: Skipped-queue when a printer of the group is capable of it, Skipped-capability otherwise.
-/
def Obligations.EligibilityAndTarget : Prop :=
  ∀ (s : State) (p : Nat) (j : Job), s.TablesCanonical →
    (∀ q, (s.printer q).eligible j = true ↔
      (s.printer q).service = .inService ∧ ((s.printer q).health = .active ∨ (s.printer q).health = .watch) ∧
      (s.printer q).standing = Standing.none ∧ reportedEmpty (s.printer q).k = false ∧
      (0 < j.declaredCounts.tc → (s.printer q).cfg.colourCapable = true ∧ reportedEmpty (s.printer q).c = false ∧
        reportedEmpty (s.printer q).m = false ∧ reportedEmpty (s.printer q).y = false) ∧
      (j.media = .large → (s.printer q).cfg.largeCapable = true) ∧ (s.printer q).queue.length < 8) ∧
    (∀ q, q ∈ s.groupOf p ↔ (s.printer q).service ≠ .unused ∧ (s.printer q).cfg.group = (s.printer p).cfg.group) ∧
    ((s.printer p).eligible j = true → s.target p j = some p) ∧
    ((s.printer p).eligible j = false →
      (s.target p j = none ↔ ∀ q ∈ s.groupOf p, (s.printer q).eligible j = false) ∧
      (∀ t, s.target p j = some t → t ≠ p ∧ t ∈ s.groupOf p ∧ (s.printer t).eligible j = true ∧
        ∀ q ∈ s.groupOf p, (s.printer q).eligible j = true →
          (s.printer t).queue.length < (s.printer q).queue.length ∨
            ((s.printer t).queue.length = (s.printer q).queue.length ∧ t ≤ q))) ∧
    (let capable (q : Nat) : Prop := (0 < j.declaredCounts.tc → (s.printer q).cfg.colourCapable = true) ∧
        (j.media = .large → (s.printer q).cfg.largeCapable = true)
     ((s.printer p).service ≠ .unused → p ∈ s.groupOf p) ∧
      (∀ q, (s.printer q).capable j = true ↔ capable q) ∧
      (j.declaredCounts.tc = 0 → j.media = .standard → ∀ q, capable q) ∧
      ((∃ q ∈ s.groupOf p, capable q) → s.skipReason p j = .skippedQueue) ∧
      ((∀ q ∈ s.groupOf p, ¬capable q) → s.skipReason p j = .skippedCapability))

/-- R68, R72: one Held job examined for a request at a printer: skipped with no target, skipped when Reserve fails, or
released to its target, where its stream starts at once when no job of the queue is Printing. That a job whose Reserve fails
is not redirected is the model's choice (log 37). -/
def Obligations.ExamineJob : Prop :=
  ∀ (s : State) (p : Nat) (j : Job), s.job j.tag = some j → j.state = .held →
    (s.target p j = none → s.examine p j =
      { state := s, entry := j.answerEntry (s.priceAt p j) (s.skipReason p j), target := none }) ∧
    (∀ q, s.target p j = some q →
      let price := s.priceAt q j
      let busy := ∃ g ∈ (s.printer q).queue, ∃ x, s.job g = some x ∧ x.state = .printing
      ((s.account j.account).covers price = false ∨ 16777215 < (s.account j.account).reserved + price →
        s.examine p j = { state := s, entry := j.answerEntry price .skippedQuota, target := none }) ∧
      ((s.account j.account).covers price = true → (s.account j.account).reserved + price ≤ 16777215 →
        j.tag ∉ (s.printer q).queue → s.jobs.outgoing.length < 4095 →
        (¬busy → ∀ g ∈ (s.printer q).queue, ∀ x, s.job g = some x → x.state ≠ .released) →
        ∃ t, s.examine p j = { state := t, entry := j.answerEntry price .released, target := some q } ∧
          t.account j.account = { s.account j.account with
            reserved := (s.account j.account).reserved + price
            held := (s.account j.account).held.filter (· ≠ j.tag) } ∧
          (busy → t.job j.tag = some { j with
              rates := some (s.ratesAt q j.account), reservation := some price, state := .released } ∧
            t.printer q = { s.printer q with queue := (s.printer q).queue ++ [j.tag] } ∧ t.fport = s.fport ∧
            JobSent s t [statusOf s j .released (some q) none none]) ∧
          (¬busy → t.job j.tag = some { j with
              rates := some (s.ratesAt q j.account), reservation := some price, state := .printing, sent := 0, allowed := 0 } ∧
            (t.printer q).queue = (s.printer q).queue ++ [j.tag] ∧ StreamBegun s t q j ∧
            JobSent s t [statusOf s j .released (some q) none none, statusOf s j .printing (some q) none none]) ∧
          OtherJobs j.tag s t ∧ OtherAccounts j.account s t ∧ OtherPrinters q s t ∧
          t.clock.core = { s.clock.core with mode := if s.clock.mode = .settling then .running else s.clock.mode } ∧
          ChangesOnly ([Piece.jobRecords, .accounts, .printers, .fleetOwn, .clock] ++ jobTraffic) s t))

/-- R72, R73: a walk over tags examines one job after another, each on the state that those before it left, and enters its
outcome and its target; it stops at the end of the tags or once 8 jobs are released. Over the tags of Held jobs it enters one
outcome for each job examined, at most 8 of them released, and leaves a job it skips as it was. R73: the target an answer names
is the first one that is not the asking printer; that only released jobs have one is the model's choice (log 37). -/
def Obligations.WalkReleasesAtMostEight : Prop :=
  (∀ (s : State) (p n : Nat) (tags : List Nat), tags = [] ∨ 8 ≤ n → State.walk p tags n s = (s, [], [])) ∧
  (∀ (s : State) (p n g : Nat) (rest : List Nat) (j : Job), n < 8 → s.job g = some j →
    ∃ t es ts, State.walk p rest (if (s.examine p j).target = none then n else n + 1) (s.examine p j).state = (t, es, ts) ∧
      State.walk p (g :: rest) n s = (t, (s.examine p j).entry :: es, (s.examine p j).target :: ts)) ∧
  (∀ (s : State) (p : Nat) (tags : List Nat), tags.Nodup → (∀ g ∈ tags, ∃ j, s.job g = some j ∧ j.state = .held) →
    ∃ t es ts, State.walk p tags 0 s = (t, es, ts) ∧ es.map AnswerEntry.tag <+: tags ∧ ts.length = es.length ∧
      (∀ (i : Nat) (e : AnswerEntry), es[i]? = some e → (e.fate = .released ↔ ∃ q, ts[i]? = some (some q))) ∧
      (es.filter (fun e => e.fate = .released)).length ≤ 8 ∧
      (es.length < tags.length → (es.filter (fun e => e.fate = .released)).length = 8) ∧
      (∀ g, (∀ e ∈ es, e.tag = g → e.fate ≠ .released) → ∀ j, s.job g = some j → j.state = .held → t.job g = some j)) ∧
  (∀ (p : Nat) (ts : List (Option Nat)),
    (firstRedirect p ts = none ↔ ∀ q, some q ∈ ts → q = p) ∧
    (∀ q, firstRedirect p ts = some q ↔
      q ≠ p ∧ ∃ before after, ts = before ++ some q :: after ∧ ∀ x, some x ∈ before → x = p))

/-- R70, R71: LIST shows the first 16 jobs of the Held List with their prices at the asking printer, their outcomes and the
first target that is another printer, and changes nothing else. -/
def Obligations.ListAnswers : Prop :=
  ∀ (h : Hdr) (ask : AskBody) (p k : Nat) (s : State), PanelReady h ask p k s → Present s p →
    ∃ t, exec (.list h (some ask)) s = .next t ∧
      let jobs := ((s.account k).held.take 16).filterMap s.job
      let fate : Job → Fate := fun j => match t.target p j with
        | none => t.skipReason p j
        | some q => if (t.account j.account).covers (t.priceAt q j) then .released else .skippedQuota
      PanelAnswered s t h .ok
        ((jobs.filterMap (fun j => if fate j = .released then t.target p j else none)).find? (· ≠ p))
        (jobs.map (fun j => { tag := j.tag, name := j.name, faces := j.declaredCounts.tm + j.declaredCounts.tc
                              colour := decide (0 < j.declaredCounts.tc), price := t.priceAt p j, fate := fate j })) ∧
      Authenticated [Piece.fleetOwn, .answer, .idleTimer] s t p k

/-- R72 to R75: RELEASE_ALL, RELEASE_ONE and DELETE_ONE of an authenticated holder. The target printer index of the answer is
that of a released job, which is the model's choice (log 37). -/
def Obligations.ReleaseRequests : Prop :=
  ∀ (h : Hdr) (ask : AskBody) (p k : Nat) (s : State), PanelReady h ask p k s → Present s p →
    ∃ u, Authenticated [] s u p k ∧
      (∃ t, exec (.releaseAll h (some ask)) s = .next t ∧
        PanelAnswered s t h .ok (firstRedirect p (State.walk p ((s.account k).held.take 16) 0 u).2.2)
          (State.walk p ((s.account k).held.take 16) 0 u).2.1 ∧
        ChangesOnly ([Piece.fleetOwn, .answer] ++ endOfStep) (State.walk p ((s.account k).held.take 16) 0 u).1 t) ∧
      (∀ j, s.job h.jobTag = some j → j.account = k → j.state = .held →
        (∃ t, exec (.releaseOne h (some ask)) s = .next t ∧
          PanelAnswered s t h .ok ((u.examine p j).target.filter (fun q => q ≠ p)) [(u.examine p j).entry] ∧
          ChangesOnly ([Piece.fleetOwn, .answer] ++ endOfStep) (u.examine p j).state t) ∧
        (s.jobs.outgoing.length < 4096 →
          ∃ t, exec (.deleteOne h (some ask)) s = .next t ∧ JobEnded s t j ∧
            PanelAnswered s t h .ok none [j.answerEntry 0 .deleted] ∧
            t.account k = { (s.account k).authed with held := (s.account k).held.filter (· ≠ j.tag) } ∧
            OtherAccounts k s t ∧ t.printer p = (s.printer p).heard ∧ OtherPrinters p s t ∧
            JobSent s t [statusOf s j .ended none (some .userCancelled) j.charged] ∧
            ChangesOnly ([Piece.jobRecords, .contexts, .freeSegments, .promises, .spoolLow, .accounts, .printers, .fleetOwn,
              .answer] ++ jobTraffic ++ noticeTraffic ++ endOfStep) s t)) ∧
      ((∀ j, s.job h.jobTag = some j → j.account ≠ k ∨ j.state ≠ .held) →
        ∀ c ∈ [Instr.releaseOne h (some ask), .deleteOne h (some ask)],
          ∃ t, exec c s = .next t ∧ PanelAnswered s t h .noSuchJob none [] ∧
            ChangesOnly ([Piece.fleetOwn, .answer] ++ endOfStep) u t)

/-! ### What a request passes first (files 04, 08, 10, 11) -/

/-- R158, R161, R172, R174, R175, R182, R183: what a MGMT_REQUEST passes before its own rule: it is discarded on the F-port
and while a reply waits; one that does not fit is answered BAD_LENGTH with its own job tag; then NOT_PERMITTED, WAKING and
BUSY, in this order. That a request discarded while a reply waits wakes nothing is the model's choice (log 16). One that names
nothing defined is answered UNKNOWN_REQUEST, and a write to a table that takes none BAD_INDEX or NOT_PERMITTED. No record
changes. R158: one that is taken while the part is Running and the idle timer runs starts the timer again, whatever the
answer; the idle time it starts from is that of before the request (log 15). -/
def Obligations.ManagementGates : Prop :=
  (∀ (c : Instr) (h : Hdr) (fit : Bool) (s : State), managementOf c = some (h, fit) → s.phase = .up →
    (h.port = .fleet ∨ s.console.reply ≠ none → ∃ t, exec c s = .next t ∧ ChangesOnly endOfStep s t) ∧
    (h.port = .office → s.console.reply = none → fit = false →
      let m : OwnMsg := { etherType := s.settings.frameType, src := s.settings.ownStation, dst := h.src, jobTag := h.jobTag
                          reqTag := h.reqTag, body := .mgmtReply .badLength .none }
      ∃ t, exec c s = .next t ∧
        (if s.oport.own.length < 32 then t.oport.own = s.oport.own ++ [m] ∧ t.console.reply = none
          else t.oport.own = s.oport.own ∧ t.console.reply = some m) ∧ ChangesOnly replyTraffic s t) ∧
    (h.port = .office → s.console.reply = none → fit = true →
      ∀ r, FirstOf [((s.classEntry (s.hit h.src)).rights = false, .notPermitted), (s.asleep = true, .waking),
          (s.restartPending = true, .busy)] r →
        ∃ t, exec c s = .next t ∧ Replied s t h r .none ∧
          t.clock.core = { s.clock.core with
            mode := if r = .waking ∧ s.clock.mode = .standby then .waking else s.clock.mode } ∧
          ChangesOnly ([Piece.clock] ++ replyTraffic) s t) ∧
    (h.port = .office → s.console.reply = none → s.clock.mode = .running → s.clock.idle.runs = true →
      ∃ t, exec c s = .next t ∧
        t.clock.idle = if t.clock.mode = .running ∧ t.restartPending = false ∧ t.settings.idleTime ≠ 0 ∧ t.idleCondition = true
          then .running s.settings.idleTime else .stopped)) ∧
  (∀ (h : Hdr) (s : State), ConsoleReady h s →
    (∃ t, exec (.unknownMgmtRequest h true) s = .next t ∧ Replied s t h .unknownRequest .none ∧
      ChangesOnly replyTraffic s t) ∧
    (∀ (x : ClosedTable) (i : Nat), ∃ t, exec (.tableWrite h (some (x, i))) s = .next t ∧
      Replied s t h (if i ≤ (match x with | .job => 65535 | .callout => 31 | .reorder => 63) then .notPermitted else .badIndex)
        .none ∧
      ChangesOnly replyTraffic s t))

/-- R62, R64, R121, R161, R183: what a RELEASE_ASK of a Present printer passes before its holder is authenticated: its frame
is taken; one that does not fit is answered BAD_LENGTH with its own job tag; in Standby and Waking it is answered WAKING, and
wakes the part; while an answer waits it is discarded; one of no defined request is answered UNKNOWN_REQUEST. A JOB_OPEN in
Standby or Waking is answered WAKING too. -/
def Obligations.RequestGates : Prop :=
  (∀ (c : Instr) (h : Hdr) (b : Option AskBody) (p : Nat) (s : State), panelOf c = some (h, b) → s.phase = .up →
    h.port = .fleet → s.printerOf h.src = some p → Present s p →
    (∃ t, exec c s = .next t ∧
      (b = none ∨ s.asleep = true ∨ s.answer ≠ none →
        t.printer p = (if (s.printer p).cfg.mode = .silent then s.printer p
          else { s.printer p with presence := if s.asleep then .suspended (s.printer p).cfg.presenceInterval
                                              else .running (s.printer p).cfg.presenceInterval }) ∧
        OtherPrinters p s t ∧
        t.clock.core = { s.clock.core with
          mode := if b ≠ none ∧ s.clock.mode = .standby then .waking else s.clock.mode } ∧
        ChangesOnly ([Piece.printers, .fleetOwn, .answer, .clock] ++ endOfStep) s t) ∧
      (s.answer ≠ none → t.fport = s.fport ∧ t.answer = s.answer) ∧
      (s.answer = none → b = none →
        let m : OwnMsg := { etherType := s.settings.frameType, src := s.settings.ownStation, dst := h.src, jobTag := h.jobTag
                            reqTag := h.reqTag, body := .releaseAnswer .badLength none [] }
        if s.fport.own.length < 32 then t.fport.own = s.fport.own ++ [m] ∧ t.answer = none
        else t.fport.own = s.fport.own ∧ t.answer = some m) ∧
      (s.answer = none → b ≠ none → s.asleep = true → PanelAnswered s t h .waking none []))) ∧
  (∀ (h : Hdr) (ask : AskBody) (p : Nat) (s : State), PrinterReady h p s → Present s p → s.answer = none →
    ∃ t, exec (.unknownReleaseRequest h (some ask)) s = .next t ∧ PanelAnswered s t h .unknownRequest none [] ∧
      t.printer p = (s.printer p).heard ∧ OtherPrinters p s t ∧
      ChangesOnly ([Piece.printers, .fleetOwn, .answer] ++ endOfStep) s t) ∧
  (∀ (h : Hdr) (b : JobOpenBody) (s : State), JobReady h s → s.asleep = true →
    ∃ t, exec (.jobOpen h (some b)) s = .next t ∧ JobSent s t [jobReplyTo s h 0 .waking 0] ∧
      t.clock.core = { s.clock.core with mode := .waking } ∧ ChangesOnly ([Piece.clock] ++ jobTraffic ++ endOfStep) s t)

/-- R121, R160, R182, R183, R185: what becomes of a message before its own block acts: a job message on the F-port, or while
the outgoing list holds 32, is discarded (that a JOB_OPEN so discarded wakes nothing is the model's choice, log 16), and one
that does not fit its kind is answered BAD_LENGTH; a printer message on the O-port or from a station that no configured entry
holds makes STRAY_STATION pending; in Standby and Waking a printer's reports are discarded, and awake one that does not fit
its kind is a frame for presence alone. -/
def Obligations.MessageGates : Prop :=
  (∀ (c : Instr) (h : Hdr) (fit : Bool) (s : State), jobMessageOf c = some (h, fit) → s.phase = .up →
    (h.port = .fleet ∨ 32 ≤ s.jobs.outgoing.length → ∃ t, exec c s = .next t ∧ ChangesOnly endOfStep s t) ∧
    (h.port = .office → s.jobs.outgoing.length < 32 → fit = false →
      ∃ t, exec c s = .next t ∧ JobSent s t [jobReplyTo s h h.jobTag .badLength 0] ∧
        ChangesOnly (jobTraffic ++ endOfStep) s t)) ∧
  (∀ (c : Instr) (h : Hdr) (s : State), printerMessageOf c = some h → s.phase = .up →
    h.port = .office ∨ s.printerOf h.src = none →
    ∃ t, exec c s = .next t ∧ t.console = { s.console with strayStation := true } ∧
      ChangesOnly ([Piece.sticky] ++ endOfStep) s t) ∧
  (∀ (h : Hdr) (p : Nat) (s : State), s.phase = .up → h.port = .fleet → s.printerOf h.src = some p →
    (s.asleep = true → ∀ c, (∃ b, c = Instr.grant h b) ∨ (∃ b, c = Instr.pageReport h b) ∨ (∃ b, c = Instr.status h b) ∨
        c = Instr.fault h none → ∃ t, exec c s = .next t ∧ ChangesOnly endOfStep s t) ∧
    (s.asleep = false → Present s p →
      ∀ c ∈ [Instr.grant h none, .pageReport h none, .status h none, .fault h none],
        ∃ u t, Heard s u p ∧ exec c s = .next t ∧ ChangesOnly endOfStep u t)) ∧
  (∀ (s : State) (station : Nat), s.TablesCanonical →
    (∀ p, s.printerOf station = some p → (s.printer p).service ≠ .unused ∧ (s.printer p).cfg.station = some station) ∧
    (s.printerOf station = none → ∀ p, (s.printer p).service = .unused ∨ (s.printer p).cfg.station ≠ some station))

/-! ### Delivery and settlement (file 05) -/

/-- R91, R93, R94, R95: a GRANT of a Present printer: one that names the Printing job and raises its chunks allowed sets them
and starts the stall timer again; every other that names a job of the queue changes nothing; one that names none is a stream
error. -/
def Obligations.GrantTaken : Prop :=
  ∀ (h : Hdr) (n p : Nat) (s : State), PrinterReady h p s → Present s p →
    (∀ j, h.jobTag ∈ (s.printer p).queue → s.job h.jobTag = some j →
      ∃ t, exec (.grant h (some n)) s = .next t ∧ OtherPrinters p s t ∧ OtherJobs h.jobTag s t ∧
        (j.state = .printing → j.allowed < n → t.job h.jobTag = some { j with allowed := n } ∧
          t.printer p = { (s.printer p).heard with stall := (s.printer p).stallFull } ∧
          ChangesOnly ([Piece.jobRecords, .printers] ++ endOfStep) s t) ∧
        (j.state ≠ .printing ∨ n ≤ j.allowed → t.printer p = (s.printer p).heard ∧
          ChangesOnly ([Piece.printers] ++ endOfStep) s t)) ∧
    (h.jobTag ∉ (s.printer p).queue →
      ∃ u t, u.printer p = (s.printer p).heard ∧ OtherPrinters p s u ∧ ChangesOnly [Piece.printers] s u ∧
        exec (.grant h (some n)) s = .next t ∧ ChangesOnly endOfStep (u.takeFault p .streamError) t)

/-- R95, R96: a PAGE_REPORT of a Present printer: one that is not final, for the Printing or a Finishing job of its queue, is
taken; one of a SILENT printer, or for a Released job, changes nothing; one that names no job of the queue is a stream error.
-/
def Obligations.PageReportTaken : Prop :=
  ∀ (h : Hdr) (r : PageReportBody) (p : Nat) (s : State), PrinterReady h p s → Present s p →
    (∀ j, (s.printer p).cfg.mode ≠ .silent → h.jobTag ∈ (s.printer p).queue → s.job h.jobTag = some j →
      j.state = .printing ∨ j.state = .finishing → r.final = false →
      ∃ u t, ReportTaken s u p j r ∧ exec (.pageReport h (some r)) s = .next t ∧ ChangesOnly endOfStep u t) ∧
    ((s.printer p).cfg.mode = .silent ∨
        (h.jobTag ∈ (s.printer p).queue ∧ ∀ j, s.job h.jobTag = some j → j.state = .released) →
      ∃ t, exec (.pageReport h (some r)) s = .next t ∧ t.printer p = (s.printer p).heard ∧ OtherPrinters p s t ∧
        ChangesOnly ([Piece.printers] ++ endOfStep) s t) ∧
    ((s.printer p).cfg.mode ≠ .silent → h.jobTag ∉ (s.printer p).queue →
      ∃ u t, u.printer p = (s.printer p).heard ∧ OtherPrinters p s u ∧ ChangesOnly [Piece.printers] s u ∧
        exec (.pageReport h (some r)) s = .next t ∧ ChangesOnly endOfStep (u.takeFault p .streamError) t)

/-- R96, R97, R100: a final PAGE_REPORT is taken as any other, and then its job is settled on its reported counts and ends; a
STREAM_BEGIN still waiting is withdrawn, and the next stream may start. -/
def Obligations.FinalReportEndsItsJob : Prop :=
  ∀ (h : Hdr) (r : PageReportBody) (p : Nat) (j : Job) (s : State), PrinterReady h p s → Present s p →
    s.TablesCanonical → s.HealthFollowsScore → (s.printer p).cfg.mode ≠ .silent → s.queueOf j.tag = some p → h.jobTag = j.tag →
    s.job j.tag = some j → j.state = .printing ∨ j.state = .finishing → r.final = true →
    ∃ u v w x t, ReportTaken s u p j r ∧
      v.printer p = (if j.state = .printing then
        { u.printer p with
          stall := .stopped, control := (u.printer p).control.filter (fun m => !m.isBeginOf j.tag) }
        else u.printer p) ∧
      OtherPrinters p u v ∧ ChangesOnly [Piece.printers] u v ∧
      Settled v w j (j.chargeOf (j.raised r)) ∧
      EndedAt w x p j (if r.cancelled then .printerCancelled else .printed) (some (j.chargeOf (j.raised r))) ∧
      exec (.pageReport h (some r)) s = .next t ∧ ChangesOnly endOfStep (x.startStream p) t

/-- R94, R98: the expiries of the stall timer and of a finish timer; one that does not run does nothing (log 2). That the next
stream after a stall starts only once the STALL fault has been taken is the model's choice (log 13). -/
def Obligations.DeliveryTimersExpire : Prop :=
  (∀ (p : Nat) (j : Job) (s : State), s.phase = .up → s.TablesCanonical → s.HealthFollowsScore →
    (s.firstIn p .printing = some j → (s.printer p).stall.runs = true →
      ∃ u v w t, StreamStopped s u p j ∧ Settled u v j (j.chargeOf j.reportedOrZero) ∧ ReturnedToHold v w p j ∧
        exec (.stallTimerExpiry p) s = .next t ∧ ChangesOnly endOfStep ((w.takeFault p .stall).startStream p) t) ∧
    (s.queueOf j.tag = some p → s.job j.tag = some j → j.state = .finishing → j.finish.runs = true →
      ∃ u v w t, FacesHanded s u p (j.declaredCounts.tm - j.reportedOrZero.tm) (j.declaredCounts.tc - j.reportedOrZero.tc) ∧
        Settled u v j (j.chargeOf j.declaredCounts) ∧
        EndedAt v w p j .printed (some (j.chargeOf j.declaredCounts)) ∧
        exec (.finishTimerExpiry j.tag) s = .next t ∧ ChangesOnly endOfStep (w.takeFault p .reportMissing) t)) ∧
  (∀ s : State, s.phase = .up →
    (∀ p, s.firstIn p .printing = none ∨ (s.printer p).stall.runs = false →
      ∃ t, exec (.stallTimerExpiry p) s = .next t ∧ ChangesOnly endOfStep s t) ∧
    (∀ g, s.queueOf g = none ∨ (∀ j, s.job g = some j → j.state ≠ .finishing ∨ j.finish.runs = false) →
      ∃ t, exec (.finishTimerExpiry g) s = .next t ∧ ChangesOnly endOfStep s t))

/-- R101, R102: a JOB_CANCEL of a Released or of the Printing job; the reply is formed before the JOB_STATUS Ended. -/
def Obligations.JobCancelInDelivery : Prop :=
  ∀ (h : Hdr) (p : Nat) (j : Job) (s : State), JobReady h s → s.TablesCanonical → s.job j.tag = some j → h.jobTag = j.tag →
    j.origin = h.src → s.queueOf j.tag = some p →
    (j.state = .released →
      ∃ u v t, u.account j.account = { s.account j.account with
          reserved := (s.account j.account).reserved - j.reservation.getD 0 } ∧
        OtherAccounts j.account s u ∧ JobSent s u [jobReplyTo s h j.tag .ok 0] ∧
        u.job j.tag = some { j with reservation := none } ∧ OtherJobs j.tag s u ∧
        ChangesOnly ([Piece.jobRecords, .accounts] ++ jobTraffic) s u ∧
        EndedAt u v p j .userCancelled j.charged ∧
        exec (.jobCancel h true) s = .next t ∧ ChangesOnly endOfStep v t) ∧
    (s.firstIn p .printing = some j →
      ∃ u v w x t, StreamStopped s u p j ∧ Settled u v j (j.chargeOf j.reportedOrZero) ∧
        JobSent v w [jobReplyTo s h j.tag .ok 0] ∧ ChangesOnly jobTraffic v w ∧
        EndedAt w x p j .userCancelled (some (j.chargeOf j.reportedOrZero)) ∧
        exec (.jobCancel h true) s = .next t ∧ ChangesOnly endOfStep (x.startStream p) t)

/-- R89, R90, R92, R99: what a printer's turn places: the head of its control list, the next chunk of its Printing job, or
STREAM_END, at which the job becomes Finishing and, on a SILENT printer, is settled on its declared counts and ends. R89: the
start of a stream: with an empty standing set and no Printing job, the first Released job of the queue becomes Printing and its
STREAM_BEGIN is sent; else nothing changes. The request tag of the stream messages is the model's choice (log 27). -/
def Obligations.StreamPlacements : Prop :=
  (∀ (p : Nat) (s : State) (x : JobState),
    (s.firstIn p x = none ↔ ∀ g ∈ (s.printer p).queue, ∀ j, s.job g = some j → j.state ≠ x) ∧
    (∀ j, s.firstIn p x = some j ↔ ∃ before g after, (s.printer p).queue = before ++ g :: after ∧ s.job g = some j ∧
      j.state = x ∧ ∀ y ∈ before, ∀ i, s.job y = some i → i.state ≠ x)) ∧
  (∀ (p : Nat) (s : State),
    ((s.printer p).standing ≠ Standing.none ∨ s.firstIn p .printing ≠ none ∨ s.firstIn p .released = none →
      s.startStream p = s) ∧
    (∀ j, (s.printer p).standing = Standing.none → s.firstIn p .printing = none → s.firstIn p .released = some j →
      let t := s.startStream p
      t.job j.tag = some { j with state := .printing, sent := 0, allowed := 0 } ∧ OtherJobs j.tag s t ∧ StreamBegun s t p j ∧
        t.printer p = { s.printer p with control := (t.printer p).control, stall := (t.printer p).stall } ∧
        OtherPrinters p s t ∧
        (s.jobs.outgoing.length < 4096 → JobSent s t [statusOf s j .printing (some p) none none]) ∧
        ChangesOnly ([Piece.jobRecords, .printers, .fleetOwn] ++ jobTraffic) s t)) ∧
  (∀ (p : Nat) (s : State), s.phase = .up → s.streamTurn p = true →
    (∀ m rest, (s.printer p).control = m :: rest →
      ∃ t, exec (.streamControlPlace p) s = .next t ∧
        t.fport = { s.fport with own := s.fport.own ++ [m], served := 1 } ∧ t.lastPrinter = p ∧
        t.printer p = { s.printer p with
          control := rest, stall := if m.body = .streamCancel then (s.printer p).stall else (s.printer p).stallFull } ∧
        OtherPrinters p s t ∧ ChangesOnly ([Piece.printers, .printerTurn, .fleetOwn, .fleetOther] ++ endOfStep) s t) ∧
    (∀ (j : Job) (d : List Byte), (s.printer p).control = [] → (s.printer p).standing = Standing.none → s.firstIn p .printing = some j →
      j.sent < j.allowed → j.sent < ceilDiv j.received 1024 →
      d.length = min 1024 (j.received - j.sent * 1024) →
      (∀ i < d.length, ∃ a, spoolAddress j.chain (j.sent * 1024 + i) = some a ∧ memRead s.spool.mem a = d[i]?) →
      ∃ t, exec (.streamData p) s = .next t ∧
        t.fport = { s.fport with served := 1, own := s.fport.own ++
          [{ etherType := s.settings.frameType, src := s.settings.ownStation, dst := (s.printer p).cfg.station.getD 0
             jobTag := j.tag, reqTag := 0, body := .streamData j.sent d }] } ∧
        t.lastPrinter = p ∧ t.job j.tag = some { j with sent := j.sent + 1 } ∧ OtherJobs j.tag s t ∧
        ChangesOnly ([Piece.jobRecords, .printerTurn, .fleetOwn, .fleetOther] ++ endOfStep) s t) ∧
    (∀ j : Job, (s.printer p).control = [] → s.firstIn p .printing = some j → ceilDiv j.received 1024 ≤ j.sent →
      ∃ u v t, exec (.streamEnd p) s = .next t ∧
        u.fport = { s.fport with served := 1, own := s.fport.own ++
          [{ etherType := s.settings.frameType, src := s.settings.ownStation, dst := (s.printer p).cfg.station.getD 0
             jobTag := j.tag, reqTag := 0, body := .streamEnd (ceilDiv j.received 1024) }] } ∧
        u.lastPrinter = p ∧ u.printer p = { s.printer p with stall := .stopped } ∧ OtherPrinters p s u ∧
        u.job j.tag = some { j with
          state := .finishing, finish := if (s.printer p).cfg.mode = .silent then j.finish else .running 600 } ∧
        OtherJobs j.tag s u ∧ ChangesOnly [Piece.jobRecords, .printers, .printerTurn, .fleetOwn, .fleetOther] s u ∧
        ((s.printer p).cfg.mode ≠ .silent → v = u) ∧
        ((s.printer p).cfg.mode = .silent → s.TablesCanonical → s.HealthFollowsScore → s.queueOf j.tag = some p →
          ∃ w x, FacesHanded u w p j.declaredCounts.tm j.declaredCounts.tc ∧ Settled w x j (j.chargeOf j.declaredCounts) ∧
            EndedAt x v p j .printed (some (j.chargeOf j.declaredCounts))) ∧
        ChangesOnly endOfStep (v.startStream p) t))

/-- R103 to R106: an evacuation is its steps in order: the Printing job is stopped, settled and returned to hold; in a full one
each Finishing job, in queue order, is settled on its reported counts and ends; each Released job, in queue order, is
unreserved, and then re-routed to the eligible printer of the group that R67 would choose, at its price there, or returned to
hold when there is none or Reserve fails. Each step finds the queue as the last left it. No stream starts at the printer within
it, which is the model's choice (log 13). R85: a Parking printer that it leaves empty is Parked. -/
def Obligations.EvacuationSteps : Prop :=
  (∀ (s : State) (p : Nat) (full : Bool), ∃ u v,
    u = s.stopPrinting p ∧ (s.firstIn p .printing = none → u = s) ∧
    (full = false → v = u) ∧
    (full = true → v = (((u.printer p).queue.filterMap u.job).filter (fun j => j.state = .finishing)).foldl
      (fun w j => w.endFinishing j.tag) u) ∧
    s.evacuate p full = (((v.printer p).queue.filterMap v.job).filter (fun j => j.state = .released)).foldl
      (fun w j => w.reroute p j.tag) v ∧
    ((s.evacuate p full).printer p).service =
      if (s.printer p).service = .parking ∧ (s.printer p).queue ≠ [] ∧ ((s.evacuate p full).printer p).queue = [] then .parked
      else (s.printer p).service) ∧
  (∀ (s : State) (p : Nat) (j : Job), s.TablesCanonical → s.job j.tag = some j → s.queueOf j.tag = some p →
    (s.firstIn p .printing = some j → ∃ u v, StreamStopped s u p j ∧ Settled u v j (j.chargeOf j.reportedOrZero) ∧
      ReturnedToHold v (s.stopPrinting p) p j) ∧
    (j.state = .finishing → ∃ u, Settled s u j (j.chargeOf j.reportedOrZero) ∧
      EndedAt u (s.endFinishing j.tag) p j .printed (some (j.chargeOf j.reportedOrZero))) ∧
    (∃ u, u.account j.account = { s.account j.account with
          reserved := (s.account j.account).reserved - j.reservation.getD 0 } ∧
      OtherAccounts j.account s u ∧ ChangesOnly [Piece.accounts] s u ∧
      (u.partner p j = none → ReturnedToHold u (s.reroute p j.tag) p j) ∧
      (∀ q, u.partner p j = some q →
        ((u.account j.account).covers (u.priceAt q j) = false ∨ 16777215 < (u.account j.account).reserved + u.priceAt q j →
          ReturnedToHold u (s.reroute p j.tag) p j) ∧
        ((u.account j.account).covers (u.priceAt q j) = true → (u.account j.account).reserved + u.priceAt q j ≤ 16777215 →
          q ≠ p ∧ ∃ v, v.job j.tag = some { j with
              rates := some (u.ratesAt q j.account), reservation := some (u.priceAt q j) } ∧
            OtherJobs j.tag s v ∧
            v.account j.account = { u.account j.account with
              reserved := (u.account j.account).reserved + u.priceAt q j } ∧
            OtherAccounts j.account s v ∧ v.printer p = (s.printer p).without j.tag ∧
            v.printer q = { s.printer q with queue := (s.printer q).queue ++ [j.tag] } ∧
            (∀ i, i ≠ p → i ≠ q → v.printer i = s.printer i) ∧
            v.clock.core = { s.clock.core with mode := if s.clock.mode = .settling then .running else s.clock.mode } ∧
            (s.jobs.outgoing.length < 4096 → JobSent s v [statusOf s j .released (some q) none none]) ∧
            ChangesOnly ([Piece.jobRecords, .accounts, .printers, .clock, .storeWriting] ++ jobTraffic) s v ∧
            s.reroute p j.tag = v.startStream q))))

/-! ### Printer health and callouts (file 06) -/

/-- R112, R113, R161: a fault, its weight, and the FAULT message: taken while the part is awake, kept while it is not and
fewer than 8 are kept, and waking it. -/
def Obligations.FaultsTaken : Prop :=
  (∀ (s : State) (p : Nat) (k : FaultKind),
    let e : Printer := { s.printer p with lastFault := some (s.clock.uptime, k), faulted := true }
    ((s.printer p).health = .withdrawn → EntryBecomes [] s (s.takeFault p k) p e) ∧
    ((s.printer p).health ≠ .withdrawn → ∃ u, s.takeFault p k = u.moveBand p ∧
      EntryBecomes [] s u p { e with score := min 1023 ((s.printer p).score + match k with
        | .jam => 24 | .mediaOut => 4 | .doorOpen => 2 | .engine => 96 | .supplyFault => 12 | .streamError => 16
        | .stall => 32 | .reportMissing => 16) })) ∧
  (∀ (h : Hdr) (code p : Nat) (s : State), PrinterReady h p s → Present s p →
    ∃ u t, Heard s u p ∧ exec (.fault h (some code)) s = .next t ∧
      (∀ k, [FaultKind.jam, .mediaOut, .doorOpen, .engine, .supplyFault][code]? = some k →
        ChangesOnly endOfStep (u.takeFault p k) t) ∧
      (5 ≤ code → ChangesOnly endOfStep u t)) ∧
  (∀ (h : Hdr) (code p : Nat) (s : State), s.phase = .up → h.port = .fleet → s.printerOf h.src = some p → s.asleep = true →
    ∃ t, exec (.fault h (some code)) s = .next t ∧
      t.clock.core = { s.clock.core with
        mode := .waking, kept := if s.clock.kept.length < 8 then s.clock.kept ++ [(p, code)] else s.clock.kept } ∧
      ChangesOnly ([Piece.clock] ++ endOfStep) s t)

/-- R114, R116, R117: the score falls by the faces handed on, and after each change of it the health state is brought to the
band of the score, with its HEALTH_CHANGE and the effects of the move. -/
def Obligations.HealthFollowsTheBand : Prop :=
  ∀ (s : State) (p n : Nat),
    ((s.printer p).health = .withdrawn → s.lowerScore p n = s) ∧
    ((s.printer p).health ≠ .withdrawn → ∃ u, s.lowerScore p n = u.moveBand p ∧
      EntryBecomes [] s u p { s.printer p with score := (s.printer p).score - n }) ∧
    ∃ band : Health, (band = .active ↔ (s.printer p).score ≤ 159) ∧
      (band = .watch ↔ 160 ≤ (s.printer p).score ∧ (s.printer p).score ≤ 319) ∧
      (band = .degraded ↔ 320 ≤ (s.printer p).score ∧ (s.printer p).score ≤ 639) ∧
      (band = .withdrawn ↔ 640 ≤ (s.printer p).score) ∧
      ((s.printer p).health = .withdrawn ∨ (s.printer p).health = band → s.moveBand p = s) ∧
      ((s.printer p).health ≠ .withdrawn → (s.printer p).health ≠ band →
        ∃ u, EntryBecomes noticeTraffic s u p { s.printer p with health := band } ∧
          NoticeFormed s u (.healthChange p (s.printer p).health band (s.printer p).score) ∧
          (band = .active ∨ (band = .watch ∧ (s.printer p).health = .degraded) → s.moveBand p = u.closeTest p) ∧
          (band = .watch → (s.printer p).health = .active → s.moveBand p = u) ∧
          (band = .degraded → s.moveBand p = u.raiseCallout p .service .degraded) ∧
          (band = .withdrawn →
            s.moveBand p = ((u.raiseCallout p .urgent .withdrawn).mark (healthSlot p)).evacuate p true))

/-- R93, R120, R121, R122, R123: a STATUS of a Present printer, the expiry of a presence timer, and that of a standing limit
timer. R121: a frame from an Absent printer: UNREACHABLE is removed and the close test is made, the pause ends when the set is
then empty, and the presence timer starts again. A message of an Absent printer is then taken as one of the Present printer
that its frame leaves. That the expiry of a timer that does not run changes nothing is the model's choice (log 2). -/
def Obligations.StandingConditions : Prop :=
  ((∀ (h : Hdr) (r : StatusBody) (p : Nat) (s : State), PrinterReady h p s → Present s p →
    ∃ u v t,
      let x : Standing := { jam := r.jam, mediaOut := r.mediaOut, doorOpen := r.doorOpen, unreachable := false }
      EntryBecomes [] s u p ((s.printer p).heard.stood x) ∧
      v = (if (s.printer p).standing ≠ Standing.none ∧ x = Standing.none then (u.startStream p).closeTest p
            else u.closeTest p) ∧
      exec (.status h (some r)) s = .next t ∧
      ChangesOnly endOfStep (if (s.printer p).cfg.mode = .full then v.takeReports p r.reports else v) t) ∧
  (∀ (p : Nat) (s : State), s.phase = .up → s.asleep = false →
    ((s.printer p).presence.runs = true →
      ∃ t, exec (.presenceTimerExpiry p) s = .next t ∧
        EntryBecomes endOfStep s t p
          { (s.printer p).stood { (s.printer p).standing with unreachable := true } with presence := .stopped }) ∧
    ((s.printer p).presence.runs = false → ∃ t, exec (.presenceTimerExpiry p) s = .next t ∧ ChangesOnly endOfStep s t)) ∧
  (∀ (p : Nat) (s : State), s.phase = .up →
    ((s.printer p).limit.runs = true →
      ∃ u t, EntryBecomes [] s u p { s.printer p with limit := .stopped } ∧
        exec (.standingLimitExpiry p) s = .next t ∧
        ChangesOnly endOfStep ((u.evacuate p false).raiseCallout p .attention (.standingLimit (s.printer p).standing)) t) ∧
    ((s.printer p).limit.runs = false → ∃ t, exec (.standingLimitExpiry p) s = .next t ∧ ChangesOnly endOfStep s t))) ∧
  ((∀ (s : State) (p : Nat), (s.printer p).standing.unreachable = true → s.asleep = false →
    ∃ u v w, EntryBecomes [] s u p { s.printer p with standing := { (s.printer p).standing with unreachable := false } } ∧
      (∃ x, ((s.printer p).standing = { Standing.none with unreachable := true } →
          EntryBecomes [] (u.closeTest p) x p { (u.closeTest p).printer p with
            limit := .stopped
            stall := match ((u.closeTest p).printer p).stall with
              | .suspended _ => .running (s.printer p).cfg.stallTimeout
              | y => y } ∧ v = x.startStream p) ∧
        ((s.printer p).standing ≠ { Standing.none with unreachable := true } → v = u.closeTest p)) ∧
      ((s.printer p).cfg.mode = .silent → w = v) ∧
      ((s.printer p).cfg.mode ≠ .silent →
        EntryBecomes [] v w p { v.printer p with presence := .running (s.printer p).cfg.presenceInterval }) ∧
      s.frameFrom p = w) ∧
  (∀ (c : Instr) (h : Hdr) (p : Nat) (s : State), printerMessageOf c = some h → s.phase = .up → h.port = .fleet →
    s.TablesCanonical → s.printerOf h.src = some p → ¬Present s p → (s.asleep = false ∨ ∃ b, panelOf c = some (h, b)) →
    exec c s = exec c (s.frameFrom p) ∧ Present (s.frameFrom p) p ∧ (s.frameFrom p).printerOf h.src = some p ∧
      (s.frameFrom p).asleep = s.asleep ∧ (s.frameFrom p).phase = .up))

/-- R125: a callout raised for a printer: an open one of lower kind is upgraded, one of equal or higher kind stands, the free
record of lowest index is opened when none is open for it, and with 32 open it is owed, a lower kind owed being replaced.
R128, R129: the close test, the closing of a record, and the offer of the freed record to owed callouts. -/
def Obligations.CalloutRecords : Prop :=
  (∀ (s : State) (p : Nat) (k : CalloutKind) (c : CalloutCause), s.TablesCanonical →
    (s.calloutOf p = none ↔ ∀ i r, s.callout i = some r → r.printer ≠ p) ∧
    (∀ i, s.calloutOf p = some i → ∃ r, s.callout i = some r ∧ r.printer = p ∧
      (r.kind.rank < k.rank →
        let u : Callout := { r with
          kind := k, cause := c, acknowledged := false, count := 0, timer := (s.newCallout p k c).timer }
        CalloutBecomes [] s (s.raiseCallout p k c) i (some u) ∧
          NoticeFormed s (s.raiseCallout p k c) (.callout i u .upgraded)) ∧
      (k.rank ≤ r.kind.rank → s.raiseCallout p k c = s)) ∧
    (s.calloutOf p = none →
      (∀ i < 32, s.callout i = none → (∀ x < i, s.callout x ≠ none) →
        CalloutBecomes [Piece.printers] s (s.raiseCallout p k c) i (some (s.newCallout p k c)) ∧
          (s.raiseCallout p k c).printer p = { s.printer p with owed := none } ∧
          OtherPrinters p s (s.raiseCallout p k c) ∧
          NoticeFormed s (s.raiseCallout p k c) (.callout i (s.newCallout p k c) .opened)) ∧
      ((∀ i < 32, s.callout i ≠ none) →
        ((∀ k0 c0, (s.printer p).owed = some (k0, c0) → k0.rank < k.rank) →
          EntryBecomes [] s (s.raiseCallout p k c) p { s.printer p with owed := some (k, c) }) ∧
        (∀ k0 c0, (s.printer p).owed = some (k0, c0) → k.rank ≤ k0.rank → s.raiseCallout p k c = s)))) ∧
  (∀ (s : State) (p : Nat), s.TablesCanonical →
    let passes (e : Printer) : Prop := e.standing = Standing.none ∧ (e.health = .active ∨ e.health = .watch)
    (¬passes (s.printer p) → s.closeTest p = s) ∧
    (passes (s.printer p) → ∃ u, EntryBecomes [] u (s.closeTest p) p { u.printer p with owed := none } ∧
      (s.calloutOf p = none → u = s) ∧
      (∀ i, s.calloutOf p = some i → u = (s.closeRecord i .recovered).offerCallout i)) ∧
    (∀ i r why, s.callout i = some r → CalloutBecomes [] s (s.closeRecord i why) i none ∧
      NoticeFormed s (s.closeRecord i why) (.callout i r (.closed why))) ∧
    (∀ i, let owing := s.configured.filter (fun q => (s.printer q).owed.isSome)
      ((∀ q ∈ owing, passes (s.printer q)) →
        (∀ q, (s.offerCallout i).printer q = if q ∈ owing then { s.printer q with owed := none } else s.printer q) ∧
          ChangesOnly [Piece.printers] s (s.offerCallout i)) ∧
      (∀ q k c, q ∈ owing → ¬passes (s.printer q) → (∀ x ∈ owing, x < q → passes (s.printer x)) →
        (s.printer q).owed = some (k, c) →
        (∀ x, (s.offerCallout i).printer x = if x ∈ owing ∧ x ≤ q then { s.printer x with owed := none } else s.printer x) ∧
          CalloutBecomes [Piece.printers] s (s.offerCallout i) i (some (s.newCallout q k c)) ∧
          NoticeFormed s (s.offerCallout i) (.callout i (s.newCallout q k c) .opened))))

/-- R126, R127, R129: the expiry of a renotify timer, ACK_CALLOUT and CLOSE_CALLOUT. That the expiry of a timer that does not
run changes nothing is the model's choice (log 2). -/
def Obligations.CalloutCommands : Prop :=
  (∀ (i : Nat) (s : State), s.phase = .up → s.asleep = false →
    (∀ r, s.callout i = some r → r.acknowledged = false → r.timer.runs = true →
      let told : Callout := { r with count := r.count + 1, timer := .running s.settings.renotify }
      let kept : Callout := if r.count + 1 < 3 then told
        else { told with count := 0, kind := match r.kind with | .attention => .service | _ => .urgent }
      ∃ t, exec (.renotifyTimerExpiry i) s = .next t ∧ NoticeFormed s t (.callout i told .renotified) ∧
        t.callout i = some kept ∧ (∀ x, x ≠ i → t.callout x = s.callout x) ∧
        (3 ≤ r.count + 1 → r.kind ≠ .urgent → NoticeFormed s t (.callout i kept .escalated) ∧ Written t (calloutSlot i)) ∧
        ChangesOnly ([Piece.callouts] ++ noticeTraffic ++ endOfStep) s t) ∧
    ((∀ r, s.callout i = some r → r.acknowledged = true ∨ r.timer.runs = false) →
      ∃ t, exec (.renotifyTimerExpiry i) s = .next t ∧ ChangesOnly endOfStep s t)) ∧
  (∀ (h : Hdr) (p : Nat) (s : State), ConsoleReady h s →
    (63 < p → ∀ c ∈ [Instr.ackCallout h (some p), .closeCallout h (some p)], CarriedOut c h s s .badIndex) ∧
    (p ≤ 63 → s.calloutOf p = none →
      CarriedOut (.ackCallout h (some p)) h s s .notAccepted ∧
      ((s.printer p).owed = none → CarriedOut (.closeCallout h (some p)) h s s .notAccepted) ∧
      ((s.printer p).owed ≠ none → ∃ u, EntryBecomes [.idleTimer] s u p { s.printer p with owed := none } ∧
        CarriedOut (.closeCallout h (some p)) h s u .ok)) ∧
    (∀ i c, p ≤ 63 → s.calloutOf p = some i → s.callout i = some c →
      (∃ u, u.callout i = some { c with acknowledged := true, timer := if c.acknowledged then c.timer else .stopped } ∧
        (∀ x, x ≠ i → u.callout x = s.callout x) ∧ (c.acknowledged = false → calloutSlot i ∈ u.store.dirty) ∧
        ChangesOnly [.callouts, .storeWriting, .idleTimer] s u ∧ CarriedOut (.ackCallout h (some p)) h s u .ok) ∧
      (∃ u, ChangesOnly [.idleTimer] s u ∧
        CarriedOut (.closeCallout h (some p)) h s ((u.closeRecord i .console).offerCallout i) .ok)))

/-- R85, R86, R87, R118, R119: PARK, UNPARK, PARK_NOW, WITHDRAW and REINSTATE. -/
def Obligations.PrinterCommands : Prop :=
  ∀ (h : Hdr) (p : Nat) (s : State), ConsoleReady h s →
    (∀ r, FirstOf [(63 < p, Result.badIndex), ((s.printer p).service = .unused, .notAccepted)] r →
      ∀ c ∈ [Instr.park h (some p), .unpark h (some p), .parkNow h (some p), .withdraw h (some p), .reinstate h (some p)],
        CarriedOut c h s s r) ∧
    (p ≤ 63 → (s.printer p).service ≠ .unused →
      let e := s.printer p
      (e.service ≠ .inService → CarriedOut (.park h (some p)) h s s .ok) ∧
      (e.service = .inService → ∃ u, healthSlot p ∈ u.store.dirty ∧ CarriedOut (.park h (some p)) h s u .ok ∧
        EntryBecomes [.storeWriting, .idleTimer] s u p
          (if e.queue = [] then { e with service := .parked, limit := .stopped } else { e with service := .parking })) ∧
      (e.service = .inService → CarriedOut (.unpark h (some p)) h s s .ok) ∧
      (e.service ≠ .inService → ∃ u, healthSlot p ∈ u.store.dirty ∧ CarriedOut (.unpark h (some p)) h s u .ok ∧
        EntryBecomes [.storeWriting, .idleTimer] s u p { e with
          service := .inService
          limit := if e.service = .parked ∧ e.standing ≠ Standing.none then .running e.cfg.standingLimit else e.limit }) ∧
      (e.service = .parked → CarriedOut (.parkNow h (some p)) h s s .ok) ∧
      (e.service ≠ .parked → ∃ v u, ChangesOnly [.idleTimer] s v ∧
        EntryBecomes [.storeWriting] (v.evacuate p true) u p
          { (v.evacuate p true).printer p with service := .parked, limit := .stopped } ∧
        healthSlot p ∈ u.store.dirty ∧ CarriedOut (.parkNow h (some p)) h s u .ok) ∧
      (e.health = .withdrawn → CarriedOut (.withdraw h (some p)) h s s .ok) ∧
      (e.health ≠ .withdrawn → ∃ u, EntryBecomes ([.storeWriting, .idleTimer] ++ noticeTraffic) s u p
          { e with health := .withdrawn } ∧
        NoticeFormed s u (.healthChange p e.health .withdrawn e.score) ∧ healthSlot p ∈ u.store.dirty ∧
        CarriedOut (.withdraw h (some p)) h s (u.evacuate p true) .ok) ∧
      (∃ u, EntryBecomes ([.storeWriting, .idleTimer] ++ noticeTraffic) s u p { e with score := 0, health := .active } ∧
        (e.health ≠ .active → NoticeFormed s u (.healthChange p e.health .active 0)) ∧
        (e.health = .withdrawn → healthSlot p ∈ u.store.dirty) ∧
        CarriedOut (.reinstate h (some p)) h s (u.closeTest p) .ok))

/-! ### Supplies and reordering (file 07) -/

/-- R143, R144, R145, R150: the reorder test, the closing of a reorder record, and the offer of a freed one. -/
def Obligations.ReorderTest : Prop :=
  ∀ (s : State), s.TablesCanonical →
    (∀ (p : Nat) (col : Colorant),
      (s.orderOf p col = none ↔ ∀ i o, s.reorder i = some o → ¬(o.printer = p ∧ o.colorant = col)) ∧
      (∀ i, s.orderOf p col = some i → ∃ o, s.reorder i = some o ∧ o.printer = p ∧ o.colorant = col) ∧
      (∀ r, (s.printer p).supply col = some r →
        let due : Prop := r.armed = true ∧ s.orderOf p col = none ∧
          ((0 < r.usage ∧ r.remaining * 16 / r.usage ≤ r.cfg.lead) ∨ r.remaining * 1000 / r.cfg.yield ≤ r.cfg.floor)
        (¬due → EntryBecomes [] s (s.reorderTest p col) p ((s.printer p).setSupply col (some { r with owed := false }))) ∧
        (due → (∀ i < 64, s.reorder i = none → (∀ x < i, s.reorder x ≠ none) →
            OrderOpened s (s.reorderTest p col) p col r i) ∧
          ((∀ i < 64, s.reorder i ≠ none) →
            EntryBecomes [] s (s.reorderTest p col) p ((s.printer p).setSupply col (some { r with owed := true })))))) ∧
    (∀ i o d, s.reorder i = some o → OrderClosed s (s.closeReorder i d) i o d) ∧
    (∀ i, let owing (p : Nat) (col : Colorant) : Prop := (s.printer p).service ≠ .unused ∧
        ∃ r, (s.printer p).supply col = some r ∧ r.owed = true
      ((∀ p col, ¬owing p col) → s.offerReorder i = s) ∧
      (∀ p col r, owing p col → (s.printer p).supply col = some r →
        (∀ q x, q < p ∨ (q = p ∧ colorantIndex x < colorantIndex col) → ¬owing q x) →
        OrderOpened s (s.offerReorder i) p col r i))

/-- R138, R140: a cartridge change, one colorant's report, and the colorant part of a STATUS, whose reports name no colorant
twice (R183). -/
def Obligations.ColorantReports : Prop :=
  ∀ (s : State) (p : Nat),
    (∀ col r, (s.printer p).supply col = some r →
      ∃ u, EntryBecomes [.storeWriting] s u p ((s.printer p).setSupply col (some { r with armed := true, owed := false })) ∧
        (r.armed = false → colorantSlot p col ∈ u.store.dirty) ∧
        (s.orderOf p col = none → s.cartridgeChange p col = u) ∧
        (∀ i, s.orderOf p col = some i → s.cartridgeChange p col = (u.closeReorder i .fulfilled).offerReorder i)) ∧
    (∀ x : ColorantReport,
      ((s.printer p).supply x.colorant = none → s.takeReport p x = s) ∧
      (∀ r, (s.printer p).supply x.colorant = some r →
        let n : Supply := { r with
          remaining := min x.level 1000 * r.cfg.yield / 1000, empty := decide (x.level = 0)
          serial := if x.serial = none then r.serial else x.serial }
        ∃ u, EntryBecomes [.storeWriting] s u p ((s.printer p).setSupply x.colorant (some n)) ∧
          (n.remaining ≠ r.remaining ∨ n.serial ≠ r.serial → colorantSlot p x.colorant ∈ u.store.dirty) ∧
          s.takeReport p x = if n.serial = r.serial then u else u.cartridgeChange p x.colorant)) ∧
    (∀ l : List ColorantReport, (l.map ColorantReport.colorant).Nodup →
      ∃ u, u = [Colorant.k, .c, .m, .y].foldl (fun u col => match l.find? (fun x => x.colorant == col) with
          | some x => u.takeReport p x
          | none => u) s ∧
        s.takeReports p l = (((u.reorderTest p .k).reorderTest p .c).reorderTest p .m).reorderTest p .y)

/-- R141, R146, R148, R149: CONFIRM_ORDER, CANCEL_ORDER and CARTRIDGE_REPLACED. -/
def Obligations.OrderCommands : Prop :=
  ∀ (h : Hdr) (p : Nat) (col : Colorant) (s : State), ConsoleReady h s →
    (∀ r, FirstOf [(63 < p, Result.badIndex), ((s.printer p).service = .unused, .notAccepted),
        ((s.printer p).supply col = none, .notAccepted)] r →
      ∀ c ∈ [Instr.confirmOrder h (some (p, col)), .cancelOrder h (some (p, col)), .cartridgeReplaced h (some (p, col))],
        CarriedOut c h s s r) ∧
    (∀ r, p ≤ 63 → (s.printer p).service ≠ .unused → (s.printer p).supply col = some r →
      (s.orderOf p col = none → CarriedOut (.confirmOrder h (some (p, col))) h s s .notAccepted) ∧
      (∀ i o, s.orderOf p col = some i → s.reorder i = some o →
        ∃ u, u.reorder i = some { o with confirmed := true } ∧ (∀ x, x ≠ i → u.reorder x = s.reorder x) ∧
          (o.confirmed = false → reorderSlot i ∈ u.store.dirty) ∧
          ChangesOnly [.reorders, .storeWriting, .idleTimer] s u ∧
          CarriedOut (.confirmOrder h (some (p, col))) h s u .ok) ∧
      (∀ i, s.orderOf p col = some i →
        ∃ u, EntryBecomes [.storeWriting, .idleTimer] s u p
            ((s.printer p).setSupply col (some { r with armed := false })) ∧
          (r.armed = true → colorantSlot p col ∈ u.store.dirty) ∧
          CarriedOut (.cancelOrder h (some (p, col))) h s ((u.closeReorder i (.closed .console)).offerReorder i) .ok) ∧
      (s.orderOf p col = none → r.owed = true →
        ∃ u, EntryBecomes [.storeWriting, .idleTimer] s u p
            ((s.printer p).setSupply col (some { r with armed := false, owed := false })) ∧
          (r.armed = true → colorantSlot p col ∈ u.store.dirty) ∧
          CarriedOut (.cancelOrder h (some (p, col))) h s u .ok) ∧
      (s.orderOf p col = none → r.owed = false → CarriedOut (.cancelOrder h (some (p, col))) h s s .notAccepted) ∧
      (∃ u, EntryBecomes [.storeWriting, .idleTimer] s u p
            ((s.printer p).setSupply col (some { r with remaining := r.cfg.yield, empty := false })) ∧
          (r.remaining ≠ r.cfg.yield → colorantSlot p col ∈ u.store.dirty) ∧
          CarriedOut (.cartridgeReplaced h (some (p, col))) h s ((u.cartridgeChange p col).reorderTest p col) .ok))

/-- R142, R147: a day roll: every colorant record of every configured entry takes the day's faces into its usage, every
Notified order is renotified, and then every record is tested. -/
def Obligations.DayRoll : Prop :=
  ∀ s : State, s.TablesCanonical → ∃ u v,
    (∀ p col, ((s.printer p).service = .unused ∨ (s.printer p).supply col = none →
        (u.printer p).supply col = (s.printer p).supply col) ∧
      (∀ r, (s.printer p).service ≠ .unused → (s.printer p).supply col = some r →
        ∃ n : Nat, (n : Int) = r.usage + ((r.today : Int) * 16 - r.usage) / 8 ∧
          (u.printer p).supply col = some { r with today := 0, usage := n } ∧
          (n ≠ r.usage → colorantSlot p col ∈ u.store.dirty) ∧
          (r.today ≤ 65535 → r.usage ≤ 1048575 → n ≤ 1048575))) ∧
    (∀ p, ({ u.printer p with k := none, c := none, m := none, y := none } : Printer) =
      { s.printer p with k := none, c := none, m := none, y := none }) ∧
    ChangesOnly [Piece.printers, .storeWriting] s u ∧
    (∀ i o, s.reorder i = some o → o.confirmed = false →
      NoticeFormed s v (.reorder i o ((((s.printer o.printer).supply o.colorant).map Supply.level).getD 0) .renotified)) ∧
    ChangesOnly noticeTraffic u v ∧
    s.dayRoll = v.configured.foldl (fun t p =>
      (((t.reorderTest p .k).reorderTest p .c).reorderTest p .m).reorderTest p .y) v

/-- R84, R111, R130, R135, R136: PRINTER_WRITE. The tests in their order, and what a write makes of the entry in each case.
The order of the closings, the level that the REORDER notice of a removed colorant carries, and that an entry which becomes
Unused or configured has its faulted mark and last fault reset, are the model's choice (log 30), and so are the creation
values of colorants that a colour-capable entry gains (log 18). R136: colorant records removed: their reorder records are
closed and all of them are gone before any freed reorder record is offered; that their slots lose mark and call is the model's
choice (log 14). -/
def Obligations.PrinterWrites : Prop :=
  (∀ (h : Hdr) (p : Nat) (f : PrinterFields) (s : State), ConsoleReady h s → s.TablesCanonical →
    let x : Instr := .printerWrite h (some (p, f))
    let e := s.printer p
    let c : PrinterConfig := { f.cfg with
      stallTimeout := max 10 (min f.cfg.stallTimeout 300), presenceInterval := max 1 (min f.cfg.presenceInterval 30)
      standingLimit := max 5 (min f.cfg.standingLimit 240) }
    let field (n : SupplyFields) : SupplyFields :=
      { yield := max 500 (min n.yield 100000), lead := max 1 (min n.lead 60), floor := min n.floor 500 }
    let made (n : SupplyFields) : Supply :=
      { cfg := n, remaining := n.yield, empty := false, serial := none, today := 0, usage := 0, armed := true, owed := false }
    let kept (n : SupplyFields) (r : Supply) : Supply := { r with
      cfg := field n, remaining := min r.remaining (field n).yield
      empty := if e.cfg.mode = .full ∧ c.mode ≠ .full then false else r.empty }
    let tests : List (Prop × Result) :=
      [(63 < p, .badIndex),
       ((∃ n, c.name = some n ∧ 16 < n.length) ∨ 15 < c.group ∨ 3 < c.band ∨ f.modeKnown = false, .notAccepted),
       (c.station ≠ none ∧ (∃ q, q ≠ p ∧ (s.printer q).cfg.station = c.station), .entryLocked),
       ((e.service = .inService ∨ e.service = .parking) ∧ (e.cfg.station ≠ c.station ∨ e.cfg.group ≠ c.group ∨
          e.cfg.colourCapable ≠ c.colourCapable ∨ e.cfg.largeCapable ≠ c.largeCapable ∨ e.cfg.band ≠ c.band ∨
          e.cfg.mode ≠ c.mode), .entryLocked)]
    (∀ r, FirstOf tests r → CarriedOut x h s s r) ∧
    ((∀ r, ¬FirstOf tests r) →
      (e.service = .unused → c.station = none →
        ∃ u, EntryBecomes [.storeWriting, .idleTimer] s u p { e with cfg := c } ∧ printerSlot p ∈ u.store.dirty ∧
          CarriedOut x h s u .ok) ∧
      (e.service = .unused → c.station ≠ none →
        ∃ u, EntryBecomes [.storeWriting, .idleTimer] s u p { e with
            cfg := c, service := .parked, score := 0, health := .active
            standing := { Standing.none with unreachable := decide (c.mode ≠ .silent) }, faulted := false, lastFault := none
            owed := none, presence := .stopped, limit := .stopped, k := some (made (field f.k))
            c := if c.colourCapable then some (made (field f.c)) else e.c
            m := if c.colourCapable then some (made (field f.m)) else e.m
            y := if c.colourCapable then some (made (field f.y)) else e.y } ∧
          printerSlot p ∈ u.store.dirty ∧ healthSlot p ∈ u.store.dirty ∧
          (∀ col, col = .k ∨ c.colourCapable = true → colorantSlot p col ∈ u.store.dirty) ∧ CarriedOut x h s u .ok) ∧
      (e.service ≠ .unused → c.station = none →
        ∃ u v, EntryBecomes [.storeWriting, .idleTimer] s u p { e with
            cfg := c, service := .unused, score := 0, health := .active, standing := Standing.none, faulted := false
            lastFault := none, owed := none, presence := .stopped, limit := .stopped } ∧
          printerSlot p ∈ u.store.dirty ∧ healthSlot p ∈ u.store.dirty ∧
          (s.calloutOf p = none → v = u) ∧
          (∀ i, s.calloutOf p = some i → v = (u.closeRecord i .entryRemoved).offerCallout i) ∧
          CarriedOut x h s (v.removeSupplies p
            ([Colorant.k, .c, .m, .y].filter (fun col => ((v.printer p).supply col).isSome)) .entryRemoved) .ok) ∧
      (e.service ≠ .unused → c.station ≠ none →
        ∃ u v w, EntryBecomes [.storeWriting, .idleTimer] s u p { e with cfg := c } ∧ printerSlot p ∈ u.store.dirty ∧
          (e.cfg.mode ≠ .silent → c.mode = .silent → ∃ z, EntryBecomes [] u z p { e with
              cfg := c, standing := { e.standing with unreachable := false }, presence := .stopped } ∧ v = z.closeTest p) ∧
          (e.cfg.mode = .silent → c.mode ≠ .silent →
            EntryBecomes [] u v p { e with cfg := c, presence := .running c.presenceInterval }) ∧
          ((e.cfg.mode = .silent ↔ c.mode = .silent) → v = u) ∧
          (let both := e.cfg.colourCapable && c.colourCapable;
           let g := v.printer p;
           EntryBecomes [.storeWriting] v w p { g with
            k := g.k.map (kept f.k), c := if both then g.c.map (kept f.c) else g.c
            m := if both then g.m.map (kept f.m) else g.m, y := if both then g.y.map (kept f.y) else g.y }) ∧
          (e.cfg.colourCapable = c.colourCapable → CarriedOut x h s w .ok) ∧
          (e.cfg.colourCapable = false → c.colourCapable = true →
            let new := made { yield := 10000, lead := 14, floor := 100 }
            ∃ z, EntryBecomes [.storeWriting] w z p { w.printer p with c := some new, m := some new, y := some new } ∧
              CarriedOut x h s z .ok) ∧
          (e.cfg.colourCapable = true → c.colourCapable = false →
            CarriedOut x h s (w.removeSupplies p [.c, .m, .y] .entryChanged) .ok)))) ∧
  (∀ (s : State) (p : Nat) (cols : List Colorant) (why : CloseReason), p ≤ 63 →
    let freed := cols.filterMap (fun col => s.orderOf p col)
    ∃ u, s.removeSupplies p cols why = freed.foldl State.offerReorder u ∧
      (∀ i, u.reorder i = if i ∈ freed then none else s.reorder i) ∧
      (∀ i o, i ∈ freed → s.reorder i = some o → reorderSlot i ∈ u.store.dirty ∧
        NoticeFormed s u (.reorder i o ((((s.printer o.printer).supply o.colorant).map Supply.level).getD 0) (.closed why))) ∧
      (∀ col, (u.printer p).supply col = if col ∈ cols then none else (s.printer p).supply col) ∧
      ({ u.printer p with k := none, c := none, m := none, y := none } : Printer) =
        { s.printer p with k := none, c := none, m := none, y := none } ∧
      OtherPrinters p s u ∧ (∀ col ∈ cols, colorantSlot p col ∉ u.store.dirty ∧ colorantSlot p col ∉ u.store.called) ∧
      ChangesOnly supplyPieces s u)

/-! ### The Fleet Clock and standby (file 08) -/

/-- R115, R153 to R156: the minute event, the hour event with its quiet decay, and calendar midnight; and what a period roll
is, with the calls it makes (R168). A minute event raises the hour event and the midnight that follow it; whatever still waits
to be taken is taken first (log 3). Uptime past the end of its range is a free value (log 6). -/
def Obligations.ClockEvents : Prop :=
  (∀ s : State, s.phase = .up → s.TagsDistinct →
    ∃ a u v w t, a = s.takeHour.takeMidnight ∧
      u.clock.core = { a.clock.core with uptime := u.clock.uptime, hourRaised := decide (u.clock.uptime % 60 = 0) } ∧
      (a.clock.uptime < 4294967295 → u.clock.uptime = a.clock.uptime + 1 ∧ u.freeCount = a.freeCount) ∧
      u.clock.uptime ≤ 4294967295 ∧ ChangesOnly [.clock, .freeCount] a u ∧
      (a.asleep = true → v = u) ∧ (a.asleep = false → HeldExpired u v) ∧
      w.clock.core = { v.clock.core with
        calendar := a.clock.calendar.map (fun c => if c.minute < 1439 then { c with minute := c.minute + 1 } else c)
        midnightRaised := decide (∃ c, a.clock.calendar = some c ∧ 1439 ≤ c.minute) } ∧ ChangesOnly [.clock] v w ∧
      exec .minuteEvent s = .next t ∧ ChangesOnly endOfStep w t) ∧
  (∀ s : State,
    (s.clock.hourRaised = false → s.takeHour = s) ∧
    (s.clock.hourRaised = true → ∃ u, u.clock = { s.clock with hourRaised := false } ∧ ChangesOnly [.clock] s u ∧
      s.takeHour = u.configured.foldl State.quietHour u) ∧
    (s.phase = .up → ∃ t, exec .hourEvent s = .next t ∧ ChangesOnly endOfStep s.takeHour t) ∧
    (s.TablesCanonical → s.configured.Pairwise (· < ·) ∧ ∀ p, p ∈ s.configured ↔ (s.printer p).service ≠ .unused) ∧
    (∀ p, ((s.printer p).faulted = true → EntryBecomes [] s (s.quietHour p) p { s.printer p with faulted := false }) ∧
      ((s.printer p).faulted = false → EntryBecomes [] (s.lowerScore p 8) (s.quietHour p) p
        { (s.lowerScore p 8).printer p with faulted := false }))) ∧
  (∀ s : State,
    (s.clock.midnightRaised = false → s.takeMidnight = s) ∧
    (s.clock.midnightRaised = true → s.clock.calendar = none →
      s.takeMidnight.clock = { s.clock with midnightRaised := false } ∧ ChangesOnly [.clock] s s.takeMidnight) ∧
    (∀ c, s.clock.midnightRaised = true → s.clock.calendar = some c →
      ∃ u, u.clock = { s.clock with
          midnightRaised := false, calendar := if c.day < 65535 then some { day := c.day + 1, minute := 0 } else none
          midnights := if c.day < 65535 ∧ s.asleep = true then s.clock.midnights + 1 else s.clock.midnights } ∧
        ChangesOnly [.clock] s u ∧
        (65535 ≤ c.day ∨ s.asleep = true → s.takeMidnight = u) ∧
        (c.day < 65535 → s.asleep = false → s.takeMidnight =
          if c.day + 1 = u.dayRoll.settings.nextRollDay then
            u.dayRoll.periodRoll (u.dayRoll.settings.nextRollDay + u.dayRoll.settings.periodLength) true
            else u.dayRoll)) ∧
    (s.phase = .up → ∃ t, exec .calendarMidnight s = .next t ∧ ChangesOnly endOfStep s.takeMidnight t)) ∧
  (∀ (s : State) (next : Nat) (announce : Bool), s.TablesCanonical →
    PeriodRolled s (s.periodRoll next announce) next announce)

/-- R39, R157, R162: SET_CLOCK, and the rolls that it and wake completion raise: at most one day roll, and after it a period
roll when the next-roll day has been reached, which moves on to the first boundary later than the day. SET_CLOCK first takes
an hour event and a midnight that still wait (log 3). -/
def Obligations.CalendarSet : Prop :=
  (∀ (h : Hdr) (d m : Nat) (s : State), ConsoleReady h s →
    (65535 < d ∨ 1439 < m → CarriedOut (.setClock h (some (d, m))) h s s .notAccepted) ∧
    (d ≤ 65535 → m ≤ 1439 →
      ∃ z a u v w, ChangesOnly [.idleTimer] s z ∧ a = z.takeHour.takeMidnight ∧
        u.clock = { a.clock with calendar := some { day := d, minute := m } } ∧ ChangesOnly [.clock] a u ∧
        (let later : Prop := ∃ c, a.clock.calendar = some c ∧ c.day < d;
          (later → v = u.dayRoll) ∧ (¬later → v = u) ∧
          ((later ∨ a.clock.calendar = none) ∧ v.settings.nextRollDay ≤ d → w = v.periodRoll v.nextRollCaught true) ∧
          (¬((later ∨ a.clock.calendar = none) ∧ v.settings.nextRollDay ≤ d) → w = v)) ∧
        CarriedOut (.setClock h (some (d, m))) h s w .ok)) ∧
  (∀ s : State, (s.clock.calendar = none → s.wakeRolls = s ∧ s.nextRollCaught = s.settings.nextRollDay) ∧
    (∀ c, s.clock.calendar = some c →
      (1 ≤ s.settings.periodLength → c.day < s.nextRollCaught ∧ s.nextRollCaught ≤ c.day + s.settings.periodLength ∧
        (s.settings.periodLength : Int) ∣ (s.nextRollCaught : Int) - s.settings.nextRollDay) ∧
      ∃ v, (0 < s.clock.midnights → v = s.dayRoll) ∧ (s.clock.midnights = 0 → v = s) ∧
        (v.settings.nextRollDay ≤ c.day → s.wakeRolls = v.periodRoll v.nextRollCaught true) ∧
        (c.day < v.settings.nextRollDay → s.wakeRolls = v)))

/-- R131, R158, R159, R160, R162: STANDBY, the expiry of the idle timer, the end of the store drain, and wake completion. Each
first takes an hour event and a midnight that still wait (log 3). That the expiry of an idle timer that does not run changes
nothing, and that a timer that runs on again carries the duration it was started from, are the model's choice (log 2). -/
def Obligations.StandbyStates : Prop :=
  (∀ s : State,
    (s.TablesCanonical → (s.idleCondition = true ↔
      (∀ j ∈ s.jobs.recs, j.state ≠ .receiving) ∧ ∀ p, (s.printer p).queue = [])) ∧
    (s.TablesCanonical → StandbyEntered s s.enterStandby) ∧
    ∃ u v, u.clock = { s.clock with mode := .settling, idle := .stopped } ∧ ChangesOnly [.clock, .idleTimer] s u ∧
      Called u v ∧
      (v.store.queue = [] ∧ v.store.underWay = none ∧ v.store.dirty = [] → s.enterSettling = v.enterStandby) ∧
      (¬(v.store.queue = [] ∧ v.store.underWay = none ∧ v.store.dirty = []) → s.enterSettling = v)) ∧
  (∀ (h : Hdr) (s : State), ConsoleReady h s →
    (s.clock.mode = .settling → CarriedOut (.standby h true) h s s .ok) ∧
    (s.clock.mode = .running → s.idleCondition = false → CarriedOut (.standby h true) h s s .busy) ∧
    (s.clock.mode = .running → s.idleCondition = true →
      ∃ u, ChangesOnly [.idleTimer] s u ∧ CarriedOut (.standby h true) h s u.takeHour.takeMidnight.enterSettling .ok)) ∧
  (∀ s : State, s.phase = .up →
    (let expires : Prop := s.clock.mode = .running ∧ s.clock.idle.runs = true ∧ s.idleCondition = true;
     ∃ t, exec .idleTimerExpiry s = .next t ∧ (expires → ChangesOnly endOfStep s.takeHour.takeMidnight.enterSettling t) ∧
      (¬expires → ChangesOnly endOfStep s t)) ∧
    (let drained : State → Prop := fun u => u.store.queue = [] ∧ u.store.underWay = none ∧ u.store.dirty = [];
     let a := s.takeHour.takeMidnight;
     ∃ t, exec .storeDrainComplete s = .next t ∧
      (s.clock.mode = .settling → drained s → drained a → ChangesOnly endOfStep a.enterStandby t) ∧
      (s.clock.mode = .settling → drained s → ¬drained a → ChangesOnly endOfStep a t) ∧
      (¬(s.clock.mode = .settling ∧ drained s) → ChangesOnly endOfStep s t)) ∧
    (s.clock.mode ≠ .waking → ∃ t, exec .wakeCompletion s = .next t ∧ ChangesOnly endOfStep s t) ∧
    (s.clock.mode = .waking → s.TablesCanonical → s.TagsDistinct →
      ∃ a u v w x t, a = s.takeHour.takeMidnight ∧ u.clock.core = { a.clock.core with mode := .running } ∧
        u.store.checkpoint = .running a.settings.checkpoint ∧ ChangesOnly [.clock, .checkpointTimer] a u ∧
        v.clock.core = { u.wakeRolls.clock.core with midnights := 0 } ∧ ChangesOnly [.clock] u.wakeRolls v ∧
        HeldExpired v w ∧
        (∀ p, x.printer p = { w.printer p with
          limit := (w.printer p).limit.carryOn
          presence := if (w.printer p).service ≠ .unused ∧ (w.printer p).cfg.mode ≠ .silent ∧
              (w.printer p).standing.unreachable = false then .running (w.printer p).cfg.presenceInterval else .stopped }) ∧
        (∀ i, x.callout i = (w.callout i).map (fun c => { c with timer := c.timer.carryOn })) ∧
        x.clock.core = { w.clock.core with kept := [] } ∧ ChangesOnly [.clock, .printers, .callouts] w x ∧
        exec .wakeCompletion s = .next t ∧
        ChangesOnly endOfStep (w.clock.kept.foldl (fun y f => match [FaultKind.jam, .mediaOut, .doorOpen, .engine,
            .supplyFault][f.2]? with
          | some k => (y.frameFrom f.1).takeFault f.1 k
          | none => y.frameFrom f.1) x) t))

/-! ### The persistent store, start-up and restart (file 09) -/

/-- R165 to R168: which records are due, how waiting due records are queued, CHECKPOINT, the checkpoint timer, and the
completion of a program operation, at which the next begins. R164: the image of the record of each kind of slot. R166: every
step keeps the dirty slot numbers strictly ascending, the order in which waiting due records are queued. That an operation
begins within the step that makes it possible, and what CHECKPOINT counts, are the model's choice (log 14), and so is that the
expiry of a checkpoint timer that does not run changes nothing (log 2). -/
def Obligations.StoreOperations : Prop :=
  (∀ s : State,
    (∀ n, s.due n = true ↔ n ∈ s.store.dirty ∧
      (n < 4282 ∨ 8634 ≤ n ∨ n ∈ s.store.called ∨ s.clock.mode = .settling)) ∧
    (∀ n, (∀ m, m ∈ (s.mark n).store.dirty ↔ m = n ∨ m ∈ s.store.dirty) ∧ ChangesOnly [.storeWriting] s (s.mark n)) ∧
    ∃ queued before after, s.fillQueue = { s with store := { s.store with queue := s.store.queue ++ queued } } ∧
      s.store.dirty = before ++ after ∧ queued.Sublist before ∧ (∀ n ∈ queued, s.due n = true ∧ n ∉ s.store.queue) ∧
      (∀ n ∈ before, s.due n = true → n ∈ s.store.queue ++ queued) ∧
      (after = [] ∨ 64 ≤ (s.store.queue ++ queued).length)) ∧
  (∀ (h : Hdr) (s : State), ConsoleReady h s →
    ∃ u v, ChangesOnly [.idleTimer] s u ∧ Called u v ∧
      CarriedOut (.checkpoint h true) h s v .ok
        (.called (s.store.dirty.filter (fun n => 4282 ≤ n ∧ n ≤ 8633 ∧ n ∉ s.store.called)).length)) ∧
  (∀ s : State, s.phase = .up →
    (s.store.checkpoint.runs = true → ∃ u t, Called s u ∧ exec .checkpointTimerExpiry s = .next t ∧
      t.store.checkpoint = .running s.settings.checkpoint ∧ ChangesOnly ([Piece.checkpointTimer] ++ endOfStep) u t) ∧
    (s.store.checkpoint.runs = false →
      ∃ t, exec .checkpointTimerExpiry s = .next t ∧ ChangesOnly endOfStep s t) ∧
    (s.store.underWay = none → ∃ t, exec .programOperationComplete s = .next t ∧ ChangesOnly endOfStep s t) ∧
    (∀ n img, s.store.underWay = some (n, img) →
      ∃ t, exec .programOperationComplete s = .next t ∧ t.store.slot n = some img ∧
        (∀ m, m ≠ n → t.store.slot m = s.store.slot m) ∧
        (s.store.queue = [] → t.store.underWay = none ∧ t.store.dirty = s.store.dirty ∧ t.store.called = s.store.called ∧
          t.store.queue = []) ∧
        (∀ m rest, s.store.queue = m :: rest →
          t.store.underWay = some (m, s.image m) ∧ t.store.dirty = s.store.dirty.filter (· ≠ m) ∧
            t.store.called = s.store.called.filter (· ≠ m) ∧ ∃ more, t.store.queue = rest ++ more) ∧
        ChangesOnly ([Piece.slots] ++ endOfStep) s t)) ∧
  (∀ s : State,
    s.image settingsSlot = .settings s.settings ∧
    (∀ i ≤ 24, s.image (classSlot i) = .classifier (s.classEntry i)) ∧
    (∀ i ≤ 15, s.image (activeSlot i) = .row (Tbl.get Row.factory s.tariff.active i) ∧
      s.image (pendingSlot i) = .row (Tbl.get Row.factory s.tariff.pending i)) ∧
    (∀ p ≤ 63, s.image (printerSlot p) = .printerConfig (s.printer p).cfg ∧
      s.image (healthSlot p) =
        .printerHealth (decide ((s.printer p).health = .withdrawn)) (decide ((s.printer p).service = .inService)) ∧
      ∀ col r, (s.printer p).supply col = some r →
        s.image (colorantSlot p col) = .colorant r.cfg r.remaining r.usage r.armed r.serial) ∧
    (∀ k ≤ 4095, s.image (accountSlot k) = .accountConfig (s.account k).cfg ∧
      s.image (balanceSlot k) = .balance (s.account k).spent (s.account k).state (s.account k).failures) ∧
    (∀ i ≤ 63, s.image (reorderSlot i) = .reorder (s.reorder i)) ∧
    (∀ i ≤ 31, s.image (calloutSlot i) = .callout ((s.callout i).map (fun c => { c with timer := .stopped })))) ∧
  (∀ s t : State, s.store.dirty.Pairwise (· < ·) → step s = .next t → t.store.dirty.Pairwise (· < ·))

/-- R172, R173: RESTART, and the completion of a warm restart. -/
def Obligations.WarmRestart : Prop :=
  (∀ (h : Hdr) (s : State), ConsoleReady h s →
    ∃ u, u.restartPending = true ∧ u.store = { s.store with reset := { s.store.reset with cause := .console } } ∧
      u.clock.core = { s.clock.core with mode := if s.clock.mode = .settling then .running else s.clock.mode } ∧
      ChangesOnly [.restartPending, .resetRecord, .clock, .idleTimer] s u ∧ CarriedOut (.restart h true) h s u .ok) ∧
  (∀ s : State, s.phase = .up →
    (s.restartPending = true ∧ s.store.queue = [] ∧ s.store.underWay = none → s.TablesCanonical →
      ∃ t, exec .restartComplete s = .next t ∧ WarmRestarted s t) ∧
    (¬(s.restartPending = true ∧ s.store.queue = [] ∧ s.store.underWay = none) →
      ∃ t, exec .restartComplete s = .next t ∧ ChangesOnly endOfStep s t))

/-- R24, R45, R60, R151, R167, R169, R170: a loss of power leaves the slots, the one under program failed, and nothing else; a
cold start restores each record from its slot, or to its factory state or conservatively when the slot has failed, and settles
keys held twice in favour of the lower index. R22, R163, R185: what no slot holds takes the values of a cold start, whatever
it was (log 24): no job, every segment free, uptime 0, the calendar Unset, Running, no FAULT kept, and nothing queued or
waiting. The idle timer starts from the idle time at start-up (R163). R169, R170: the start-up summary, which counts the
failed slots of each kind and the balances restored conservatively, and the records marked dirty (log 20): those of failed
slots, a colorant's only while the entry has it, a balance behind a failed account configuration, and those changed for a key
held twice. -/
def Obligations.PowerAndColdStart : Prop :=
  (∀ s : State, (s.phase = .off → exec .powerLoss s = .next s) ∧
    (s.phase ≠ .off → ∃ t, exec .powerLoss s = .next t ∧ t.phase = .off ∧ t.pending = s.pending ∧
      t.freeCount = s.freeCount ∧
      (∀ n, (∀ img, s.store.underWay ≠ some (n, img)) → t.store.slot n = s.store.slot n) ∧
      (∀ n img, s.store.underWay = some (n, img) → t.store.slot n = none)) ∧
    (∀ s' : State, s.phase ≠ .off → s'.phase ≠ .off → s'.store.slots = s.store.slots →
      s'.store.underWay.map Prod.fst = s.store.underWay.map Prod.fst → s'.freeCount = s.freeCount →
      s'.pending = s.pending → exec .powerLoss s' = exec .powerLoss s)) ∧
  (∀ (s : State) (cause : ColdCause), s.phase = .off →
    ∃ t, exec (.coldStart cause) s = .next t ∧ t.phase = .starting ∧ t.store.slots = s.store.slots ∧
      t.jobs = { recs := [], lastTag := 65535, holdSeq := 0, contexts := List.replicate 32 none, outgoing := [] } ∧
      (t.spool.freeList = List.range 65536 ∧ t.spool.promises = 0 ∧ t.spool.low = false) ∧
      t.clock = { uptime := 0, calendar := none, hourRaised := false, midnightRaised := false, mode := .running
                  idle := .stopped, kept := [], midnights := 0 } ∧
      t.console = { reply := none, notices := [], storeRestored := false, noticeOverflow := false, strayStation := false } ∧
      t.oport = { pass := [], own := [], lastOwn := false, served := 2, wire := none } ∧
      t.fport = { pass := [], own := [], lastOwn := false, served := 1, wire := none } ∧
      (t.answer = none ∧ t.lastPrinter = 63 ∧ t.restartPending = false) ∧
      (t.store.called = [] ∧ t.store.queue = [] ∧ t.store.underWay = none ∧ t.store.checkpoint = .stopped) ∧
      (t.freeCount = s.freeCount ∧ t.pending = s.pending) ∧
      t.store.reset.cause = (match cause with | .power => .power | .supplyDip => .supplyDip) ∧
      t.settings = (match s.store.slot settingsSlot with | some (.settings x) => x | _ => Settings.factory) ∧
      (∀ i ≤ 24, t.classEntry i = match s.store.slot (classSlot i) with
        | some (.classifier e) => e
        | _ => if i = 24 then ClassEntry.factoryDefault else ClassEntry.factory) ∧
      (∀ i ≤ 15, Tbl.get Row.factory t.tariff.active i =
          (match s.store.slot (activeSlot i) with | some (.row r) => r | _ => Row.factory) ∧
        Tbl.get Row.factory t.tariff.pending i =
          (match s.store.slot (pendingSlot i) with | some (.row r) => r | _ => Row.factory)) ∧
      (t.tariff.written = true ↔ t.tariff.active ≠ t.tariff.pending) ∧
      (∀ i ≤ 63, t.reorder i = match s.store.slot (reorderSlot i) with | some (.reorder r) => r | _ => none) ∧
      (∀ i ≤ 31, t.callout i = match s.store.slot (calloutSlot i) with | some (.callout c) => c | _ => none) ∧
      (let config (k : Nat) : Option AccountConfig := match s.store.slot (accountSlot k) with
          | some (.accountConfig c) => some c
          | _ => none;
       ∀ k ≤ 4095, (config k = none → t.account k = Account.factory) ∧
        (∀ c, config k = some c →
          (t.account k).cfg = { c with valid := (t.account k).cfg.valid, badge := (t.account k).cfg.badge } ∧
          ((t.account k).cfg.valid = true ↔ c.valid = true ∧
            ∀ i < k, ∀ d, config i = some d → ¬(d.valid = true ∧ d.number = c.number)) ∧
          (t.account k).cfg.badge = (t.account k).cfg.badge.filter (fun x => c.badge = some x) ∧
          ((t.account k).cfg.badge ≠ none ↔ c.badge ≠ none ∧
            ∀ i < k, ∀ d, config i = some d → d.badge ≠ c.badge) ∧
          (t.account k).reserved = 0 ∧ (t.account k).held = [] ∧
          (t.account k).overdrawn = overdrawnFlag c.budget (t.account k).spent ∧
          (∀ n x f, s.store.slot (balanceSlot k) = some (.balance n x f) →
            (t.account k).spent = n ∧ (t.account k).state = x ∧ (t.account k).failures = f) ∧
          (s.store.slot (balanceSlot k) = none → (t.account k).state = .isOpen ∧ (t.account k).failures = 0 ∧
            (t.account k).spent = if c.valid then (match c.budget with | .finite b => b | .unlimited => 0) else 0))) ∧
      (let config (p : Nat) : Option PrinterConfig := match s.store.slot (printerSlot p) with
          | some (.printerConfig c) => some c
          | _ => none;
       let flags (p : Nat) : Bool × Bool := match s.store.slot (healthSlot p) with
          | some (.printerHealth w i) => (w, i)
          | _ => (false, false);
       let record (p : Nat) (x : Colorant) : Supply := match s.store.slot (colorantSlot p x) with
          | some (.colorant f n u a z) => { Supply.create f with remaining := n, usage := u, armed := a, serial := z }
          | _ => { Supply.create SupplyFields.factory with remaining := 0 };
       ∀ p ≤ 63, (config p = none → t.printer p = printerFactory) ∧
        (∀ c, config p = some c → c.station = none → t.printer p = { printerFactory with cfg := c }) ∧
        (∀ c, config p = some c → c.station ≠ none →
          ((∃ i < p, ∃ d, config i = some d ∧ d.station = c.station) → t.printer p = printerFactory) ∧
          ((∀ i < p, ∀ d, config i = some d → d.station ≠ c.station) →
            t.printer p = { printerFactory with
              cfg := c
              service := if (flags p).2 then .inService else .parked
              score := if (flags p).1 then 640 else 0
              health := if (flags p).1 then .withdrawn else .active
              standing := { Standing.none with unreachable := c.mode != .silent }
              k := some (record p .k)
              c := if c.colourCapable then some (record p .c) else none
              m := if c.colourCapable then some (record p .m) else none
              y := if c.colourCapable then some (record p .y) else none }))) ∧
      (∀ n, s.store.slot n = none → n < 8378 ∨ 8634 ≤ n → n ∈ t.store.dirty) ∧
      (s.store.SlotsCanonical →
        t.store.reset.failed = [(0, 1), (1, 25), (26, 32), (58, 64), (122, 64), (186, 4096), (4282, 4096), (8378, 256),
          (8634, 64), (8698, 32)].map (fun k => ((List.range k.2).filter (fun i => s.store.slot (k.1 + i) = none)).length) ∧
        t.store.reset.conservative = ((List.range 4096).filter (fun k => (s.store.slot (balanceSlot k)).isNone &&
          match s.store.slot (accountSlot k) with
          | some (.accountConfig c) => c.valid
          | _ => false)).length ∧
        ∀ n, n ∈ t.store.dirty ↔
          (s.store.slot n = none ∧ (n < 8378 ∨ 8634 ≤ n)) ∨
          (∃ p ≤ 63, ∃ x, n = colorantSlot p x ∧ s.store.slot n = none ∧ (t.printer p).supply x ≠ none) ∨
          (∃ k ≤ 4095, n = balanceSlot k ∧ s.store.slot (accountSlot k) = none) ∨
          (∃ k ≤ 4095, ∃ c, n = accountSlot k ∧ s.store.slot (accountSlot k) = some (.accountConfig c) ∧ (t.account k).cfg ≠ c) ∨
          (∃ p ≤ 63, ∃ c, (n = printerSlot p ∨ n = healthSlot p) ∧ s.store.slot (printerSlot p) = some (.printerConfig c) ∧
            c.station ≠ none ∧
            ∃ i < p, ∃ d, s.store.slot (printerSlot i) = some (.printerConfig d) ∧ d.station = c.station))) ∧
  (∀ s : State, s.phase = .starting → s.TablesCanonical →
    ∃ t, exec .startUpComplete s = .next t ∧ t.phase = .up ∧ t.store.checkpoint = .running s.settings.checkpoint ∧
      t.console.storeRestored = decide (0 < s.store.reset.conservative) ∧
      (s.clock.mode = .running → s.clock.idle = .stopped → s.restartPending = false → s.idleCondition = true →
        t.clock.idle = if s.settings.idleTime = 0 then .stopped else .running s.settings.idleTime) ∧
      NoticeFormed s t (.started s.store.reset.cause s.store.reset.conservative) ∧
      (∀ i, t.reorder i = (s.reorder i).filter (fun o => ((s.printer o.printer).supply o.colorant).isSome)) ∧
      (∀ i o, s.reorder i = some o → (s.printer o.printer).supply o.colorant = none → Written t (reorderSlot i)) ∧
      (∀ i, t.callout i = ((s.callout i).filter (fun c => (s.printer c.printer).service ≠ .unused)).map (fun c =>
        { c with timer := if c.acknowledged then .stopped else .running s.settings.renotify })) ∧
      (∀ i c, s.callout i = some c → (s.printer c.printer).service = .unused → Written t (calloutSlot i)) ∧
      (∀ p, t.printer p = { s.printer p with
        limit := if (s.printer p).service = .inService ∧ (s.printer p).standing ≠ Standing.none
          then .running (s.printer p).cfg.standingLimit else (s.printer p).limit }) ∧
      ChangesOnly ([Piece.phase, .reorders, .callouts, .printers, .checkpointTimer] ++ noticeTraffic ++ endOfStep) s t)

/-! ### Console and ports (files 10, 11) -/

/-- R44, R50, R83, R110, R134, R176, R177: TABLE_READ: an index above the table's last answers BAD_INDEX, a tag that names no
record NO_SUCH_JOB, and else the reply carries the whole record. Nothing is changed by a read. The dirty records that the
settings count as waiting are those not in the queue (log 31). R178: QUERY answers each pending condition in rank order, the
highest first, and clears the sticky ones when it carries the clear flag, after reporting them. -/
def Obligations.ReadCommands : Prop :=
  (∀ (h : Hdr) (x : TableId) (i : Nat) (s : State), ConsoleReady h s →
    let last := match x with
      | .settings => 0 | .classifier => 24 | .tariff => 15 | .account => 4095 | .printer => 63 | .job => 65535 | .callout => 31
      | .reorder => 63
    (∀ r, FirstOf [(last < i, Result.badIndex), (x = .job ∧ s.job i = none, .noSuchJob)] r →
      CarriedOut (.tableRead h (some (x, i))) h s s r) ∧
    (i ≤ last → (x = .job → s.job i ≠ none) → ∃ b, CarriedOut (.tableRead h (some (x, i))) h s s .ok b ∧
      match x with
      | .settings => b = .settings
          { settings := s.settings, uptime := s.clock.uptime, calendar := s.clock.calendar, mode := s.clock.mode
            reset := s.store.reset, queueLength := s.store.queue.length
            waiting := (s.store.dirty.filter (fun n => n ∉ s.store.queue)).length
            notices := s.console.notices.length, headroom := s.spool.headroom }
      | .classifier => b = .classifier i (s.classEntry i)
      | .tariff => b = .tariff (Tbl.get Row.factory s.tariff.pending i) (Tbl.get Row.factory s.tariff.active i) s.tariff.written
      | .account => let a := s.account i
          b = .account { cfg := { a.cfg with pin := none }, pinPresent := a.cfg.pin.isSome, spent := a.spent, state := a.state
                         failures := a.failures, reserved := a.reserved, overdrawn := a.overdrawn, held := a.held
                         available := a.available }
      | .printer => ∃ v : PrinterView, b = .printer v ∧ v.entry = (s.printer i).shown ∧
          v.jobs = ((s.printer i).queue.filterMap s.job).map (fun j => (j.tag, j.state)) ∧
          v.progress = (s.firstIn i .printing).map (fun j => (j.sent, j.allowed)) ∧ v.callout = s.calloutOf i ∧
          v.orders = [s.orderOf i .k, s.orderOf i .c, s.orderOf i .m, s.orderOf i .y]
      | .job => ∃ j, s.job i = some j ∧ b = .job j (match j.reservation, j.rates with
          | some _, some r => some (scaledPrice j.declaredCounts j.media r.row)
          | _, _ => none)
      | .callout => b = .callout (s.callout i)
      | .reorder => b = .reorder (s.reorder i))) ∧
  (∀ (h : Hdr) (clear : Bool) (s : State), ConsoleReady h s → s.TablesCanonical →
    ∃ (l : List Attention) (u : State), CarriedOut (.query h (some clear)) h s u .ok (.attention l l.head?) ∧
      u.console = (if clear then { s.console with storeRestored := false, noticeOverflow := false, strayStation := false }
        else s.console) ∧ ChangesOnly [.sticky, .idleTimer] s u ∧
      (l.map Attention.code).Pairwise (· < ·) ∧
      (.urgentUnack ∈ l ↔ ∃ i c, s.callout i = some c ∧ c.kind = .urgent ∧ c.acknowledged = false) ∧
      (.storeRestored ∈ l ↔ s.console.storeRestored = true) ∧
      (.serviceUnack ∈ l ↔ ∃ i c, s.callout i = some c ∧ c.kind = .service ∧ c.acknowledged = false) ∧
      (.spoolLow ∈ l ↔ s.spool.headroom < 17408) ∧
      (.reorderNotified ∈ l ↔ ∃ i o, s.reorder i = some o ∧ o.confirmed = false) ∧
      (.attentionUnack ∈ l ↔ ∃ i c, s.callout i = some c ∧ c.kind = .attention ∧ c.acknowledged = false) ∧
      (.accountLocked ∈ l ↔ ∃ k, (s.account k).cfg.valid = true ∧ (s.account k).state = .locked) ∧
      (.clockUnset ∈ l ↔ s.clock.calendar = none) ∧
      (.noticeOverflow ∈ l ↔ s.console.noticeOverflow = true) ∧
      (.strayStation ∈ l ↔ s.console.strayStation = true))

/-- R64, R90, R175, R180, R184, R185: the producers place their messages in turn, when there is room: on the O-port the Job
Table, the reply and the notices, on the F-port the answer and the Delivery Engine, whose turn goes to the next printer with a
message ready after the one served last. R90, R92, R93: when a printer has a message ready, and that STREAM_DATA and
STREAM_END of a printer that has none of theirs change nothing. -/
def Obligations.ProducersPlace : Prop :=
  ∀ s : State, s.phase = .up → s.oport.served ≤ 2 → s.fport.served ≤ 1 → s.lastPrinter ≤ 63 →
    (let out := s.jobs.outgoing;
     let turn : Prop := s.oport.own.length < 32 ∧ (s.oport.served = 2 ∨ (s.console.notices = [] ∧
        (s.oport.served = 1 ∨ s.console.reply = none)));
     (∀ m rest, out = m :: rest → turn → ∃ t, exec .jobOutgoingPlace s = .next t ∧
        t.oport = { s.oport with own := s.oport.own ++ [m], served := 0 } ∧ t.jobs.outgoing = rest ∧
        ChangesOnly ([Piece.outgoing, .officeOwn, .officeOther] ++ endOfStep) s t) ∧
     (out = [] ∨ ¬turn → ∃ t, exec .jobOutgoingPlace s = .next t ∧ ChangesOnly endOfStep s t)) ∧
    (let turn : Prop := s.oport.own.length < 32 ∧ (s.oport.served = 0 ∨ (s.jobs.outgoing = [] ∧
        (s.oport.served = 2 ∨ s.console.notices = [])));
     (∀ m, s.console.reply = some m → turn → ∃ t, exec .mgmtReplyPlace s = .next t ∧
        t.oport = { s.oport with own := s.oport.own ++ [m], served := 1 } ∧ t.console.reply = none ∧
        ChangesOnly ([Piece.reply, .officeOwn, .officeOther] ++ endOfStep) s t) ∧
     (s.console.reply = none ∨ ¬turn → ∃ t, exec .mgmtReplyPlace s = .next t ∧ ChangesOnly endOfStep s t)) ∧
    (let turn : Prop := s.oport.own.length < 32 ∧ (s.oport.served = 1 ∨ (s.console.reply = none ∧
        (s.oport.served = 0 ∨ s.jobs.outgoing = [])));
     (∀ q rest, s.console.notices = q :: rest → turn → ∃ t, exec .noticeSend s = .next t ∧
        t.oport = { s.oport with served := 2, own := s.oport.own ++
          [{ etherType := q.etherType, src := q.src, dst := s.settings.noticeStation, jobTag := 0, reqTag := 0
             body := .notice q.notice }] } ∧
        t.console.notices = rest ∧ ChangesOnly ([Piece.notices, .officeOwn, .officeOther] ++ endOfStep) s t) ∧
     (s.console.notices = [] ∨ ¬turn → ∃ t, exec .noticeSend s = .next t ∧ ChangesOnly endOfStep s t)) ∧
    (let turn : Prop := s.fport.own.length < 32 ∧ (s.fport.served = 1 ∨ s.printerTurn = none);
     (∀ m, s.answer = some m → turn → ∃ t, exec .releaseAnswerPlace s = .next t ∧
        t.fport = { s.fport with own := s.fport.own ++ [m], served := 0 } ∧ t.answer = none ∧
        ChangesOnly ([Piece.answer, .fleetOwn, .fleetOther] ++ endOfStep) s t) ∧
     (s.answer = none ∨ ¬turn → ∃ t, exec .releaseAnswerPlace s = .next t ∧ ChangesOnly endOfStep s t)) ∧
    (∀ p, s.streamTurn p = true ↔ s.fport.own.length < 32 ∧ (s.fport.served = 0 ∨ s.answer = none) ∧
      s.printerTurn = some p) ∧
    (∀ p, s.printerTurn = some p ↔ p ≤ 63 ∧ s.streamReady p = true ∧
      ∀ q ≤ 63, s.streamReady q = true → (p + 63 - s.lastPrinter) % 64 ≤ (q + 63 - s.lastPrinter) % 64) ∧
    (∀ p, (s.streamTurn p = false ∨ (s.printer p).control = []) →
      ∃ t, exec (.streamControlPlace p) s = .next t ∧ ChangesOnly endOfStep s t) ∧
    (∀ p, s.streamTurn p = false → ∀ c ∈ [Instr.streamData p, .streamEnd p],
      ∃ t, exec c s = .next t ∧ ChangesOnly endOfStep s t) ∧
    (∀ p, let chunk (j : Job) : Prop := (s.printer p).control = [] ∧ (s.printer p).standing = Standing.none ∧
          s.firstIn p .printing = some j ∧ j.sent < j.allowed ∧ j.sent < ceilDiv j.received 1024
        let ends (j : Job) : Prop := (s.printer p).control = [] ∧ s.firstIn p .printing = some j ∧
          ceilDiv j.received 1024 ≤ j.sent
        (s.streamReady p = true ↔ (s.printer p).control ≠ [] ∨ ∃ j, chunk j ∨ ends j) ∧
        ((∀ j, ¬chunk j) → ∃ t, exec (.streamData p) s = .next t ∧ ChangesOnly endOfStep s t) ∧
        ((∀ j, ¬ends j) → ∃ t, exec (.streamEnd p) s = .next t ∧ ChangesOnly endOfStep s t))

/-- R181, R182, R184: a frame that was of another type at its arrival passes to the opposite port's Pass-through Queue when it
fits there, whatever the frame type has become since (log 23); a discarded FPT frame that is a stray printer message makes
STRAY_STATION pending; and the arbiter of each port. -/
def Obligations.PortFrames : Prop :=
  ∀ s : State, s.phase = .up →
    (∀ (port : Port) (f : EthFrame), ∃ t, exec (.passThroughFrame port f) s = .next t ∧
      let passed (q : PortState) : PortState :=
        if (q.pass.map (fun x => x.bytes.length)).sum + f.bytes.length ≤ 65536 then { q with pass := q.pass ++ [f] } else q
      (port = .office → t.fport = passed s.fport ∧ ChangesOnly ([Piece.fleetOther] ++ endOfStep) s t) ∧
      (port = .fleet → t.oport = passed s.oport ∧ ChangesOnly ([Piece.officeOther] ++ endOfStep) s t)) ∧
    (∀ (port : Port) (f : EthFrame), f.etherType ≠ s.settings.frameType →
      s.receive port f = s.withPending (s.pending ++ [.passThroughFrame port f])) ∧
    (∀ (port : Port) (payload : List Byte),
      let stray : Prop := 14 ≤ payload.length ∧ payload[0]? = some 1 ∧
        (∃ k, payload[1]? = some k ∧ (k = 0x20 ∨ k = 0x38 ∨ k = 0x39 ∨ k = 0x3A ∨ k = 0x3B)) ∧
        (port = .office ∨ ∃ a b c, payload[2]? = some a ∧ payload[3]? = some b ∧ payload[4]? = some c ∧
          s.printerOf (a.toNat * 65536 + b.toNat * 256 + c.toNat) = none)
      ∃ t, exec (.fptDiscard port payload) s = .next t ∧ (¬stray → ChangesOnly endOfStep s t) ∧
        (stray → t.console = { s.console with strayStation := true } ∧ ChangesOnly ([Piece.sticky] ++ endOfStep) s t)) ∧
    (∀ port : Port, ∃ t, exec (.frameTransmit port) s = .next t ∧
      let sends (q r : PortState) : Prop :=
        (q.pass = [] → q.own = [] → r = q) ∧
        (∀ f fs, q.pass = f :: fs → q.own = [] ∨ q.lastOwn = true →
          r = { q with pass := fs, lastOwn := false, wire := some (.passed f) }) ∧
        (∀ m ms, q.own = m :: ms → q.pass = [] ∨ q.lastOwn = false →
          r = { q with own := ms, lastOwn := true, wire := some (.own m m.bytes) })
      (port = .office → sends s.oport t.oport ∧ ChangesOnly ([Piece.officeOwn, .officeOther] ++ endOfStep) s t) ∧
      (port = .fleet → sends s.fport t.fport ∧ ChangesOnly ([Piece.fleetOwn, .fleetOther] ++ endOfStep) s t))

/-- R182, R184, R186: a message the part sends: its header, its kind code, and the body of each kind of fixed form; numbers go
most significant byte first. -/
def Obligations.WireFormat : Prop :=
  (∀ n v : Nat, (bytesOf n v).length = n ∧ valueOf (bytesOf n v) = v % 256 ^ n) ∧
  (∀ m : OwnMsg, ∃ kind : Nat, ∃ body : List Byte,
    m.bytes = bytesOf 1 1 ++ bytesOf 1 kind ++ bytesOf 3 m.src ++ bytesOf 3 m.dst ++ bytesOf 2 m.jobTag ++ bytesOf 2 m.reqTag ++
      bytesOf 2 body.length ++ body ∧
    (∀ r n, m.body = .jobReply r n → kind = 0x18 ∧ ∃ code, body = bytesOf 1 code ++ bytesOf 4 n ∧
      [Result.ok, .busy, .notAccepted, .unknownAccount, .accountBlocked, .holdLimit, .spoolLow, .tooLarge, .emptyJob,
        .outOfOrder, .noSuchJob, .tooLate, .authFailed, .waking, .notPermitted, .badIndex, .entryLocked, .unknownRequest,
        .badLength][code]? = some r) ∧
    (∀ e p why charged, m.body = .jobStatus e p why charged → kind = 0x19 ∧ ∃ event reason,
      [JobEvent.held, .released, .printing, .ended][event]? = some e ∧
      (why = none → reason = 0) ∧
      (∀ r, why = some r → [EndReason.printed, .printerCancelled, .userCancelled, .expired, .purged, .abandoned,
        .refused][reason]? = some r) ∧
      body = bytesOf 1 event ++
        bytesOf 1 ((if p = none then 0 else 1) + (if why = none then 0 else 2) + (if charged = none then 0 else 4)) ++
        bytesOf 1 (p.getD 0) ++ bytesOf 1 reason ++ bytesOf 3 (charged.getD 0)) ∧
    (∀ r t es, m.body = .releaseAnswer r t es → kind = 0x28 ∧
      (es.length ≤ 16 → (∀ e ∈ es, (e.name.getD []).length ≤ 40) → body.length ≤ 835) ∧
      (es.length ≤ 16 → ∃ (code : Nat) (entries : List (List Byte)),
        [Result.ok, .busy, .notAccepted, .unknownAccount, .accountBlocked, .holdLimit, .spoolLow, .tooLarge, .emptyJob,
          .outOfOrder, .noSuchJob, .tooLate, .authFailed, .waking, .notPermitted, .badIndex, .entryLocked, .unknownRequest,
          .badLength][code]? = some r ∧
        body = bytesOf 1 code ++ bytesOf 1 (t.getD 255) ++ bytesOf 1 es.length ++ entries.flatten ∧
        entries.length = es.length ∧
        ∀ (i : Nat) (e : AnswerEntry), es[i]? = some e → ∃ outcome,
          [Fate.released, .skippedQuota, .skippedCapability, .skippedQueue, .deleted][outcome]? = some e.fate ∧
          entries[i]? = some (bytesOf 2 e.tag ++ bytesOf 4 e.faces ++ bytesOf 1 (if e.colour then 1 else 0) ++
            bytesOf 3 e.price ++ bytesOf 1 outcome ++ bytesOf 1 (e.name.getD []).length ++ e.name.getD []))) ∧
    (∀ n x b, m.body = .streamBegin n x b → kind = 0x30 ∧
      body = bytesOf 3 n.tm ++ bytesOf 3 n.tc ++ bytesOf 3 n.ts ++ bytesOf 1 (match x with | .standard => 0 | .large => 1) ++
        bytesOf 4 b) ∧
    (∀ k d, m.body = .streamData k d → kind = 0x31 ∧ body = bytesOf 2 k ++ d) ∧
    (∀ n, m.body = .streamEnd n → kind = 0x32 ∧ body = bytesOf 4 n) ∧
    (m.body = .streamCancel → kind = 0x33 ∧ body = []) ∧
    (∀ r b, m.body = .mgmtReply r b → kind = 0x48 ∧ ∃ code block, body = bytesOf 1 code ++ block ∧
      [Result.ok, .busy, .notAccepted, .unknownAccount, .accountBlocked, .holdLimit, .spoolLow, .tooLarge, .emptyJob,
        .outOfOrder, .noSuchJob, .tooLate, .authFailed, .waking, .notPermitted, .badIndex, .entryLocked, .unknownRequest,
        .badLength][code]? = some r) ∧
    (∀ n, m.body = .notice n → kind = 0x50 ∧ 6 ≤ body.length ∧ body.length ≤ 38))
end

