-- ==== Sys2Proof/Laws/Memory.lean ====
section
/-! SUPPORT. Laws of spool memory and of the Free Segment List: a read after a write, the canonical form that every write keeps
(log 5), and the list of segment numbers that the runs stand for (log 25). -/

namespace Sys2Proof.Machine

/-! ### Spool memory -/

/-- A read of a byte after a byte, the same or another, has been written. -/
theorem memRead_memWrite (m : List Host.Cell) (a : Nat) (b : Byte) (x : Nat) :
    memRead (memWrite m a b) x = if x = a then some b else memRead m x := by
  induction m with
  | nil => simp only [memWrite, memRead, @eq_comm _ a x]
  | cons c m ih =>
    obtain ⟨k, w⟩ := c
    simp only [memWrite]
    split
    · simp only [memRead, @eq_comm _ a x]
    · split
      next h => subst h; simp only [memRead, @eq_comm _ a x]; split <;> rfl
      next h =>
        simp only [memRead, ih]
        by_cases hx : k = x
        · subst hx; simp [Ne.symm h]
        · simp [hx]

theorem memWrite_keys {m : List Host.Cell} {a : Nat} {b : Byte} {k : Nat} (h : k ∈ (memWrite m a b).map Prod.fst) :
    k = a ∨ k ∈ m.map Prod.fst := by
  induction m with
  | nil => simpa [memWrite] using h
  | cons c m ih =>
    simp only [memWrite] at h
    split at h
    · simpa using h
    · split at h
      next hac =>
        simp only [List.map_cons, List.mem_cons] at h ⊢
        tauto
      next =>
        simp only [List.map_cons, List.mem_cons] at h ⊢
        rcases h with h | h
        · exact Or.inr (Or.inl h)
        · exact (ih h).imp id Or.inr

/-- The canonical form survives a write. -/
theorem memWf_memWrite {m : List Host.Cell} (a : Nat) (b : Byte) (h : memWf m = true) : memWf (memWrite m a b) = true := by
  simp only [memWf, decide_eq_true_eq] at h ⊢
  induction m with
  | nil => simp [memWrite]
  | cons c m ih =>
    obtain ⟨k, w⟩ := c
    simp only [List.map_cons, List.pairwise_cons] at h
    simp only [memWrite]
    split
    next hlt =>
      simp only [List.map_cons, List.pairwise_cons]
      refine ⟨fun x hx => ?_, h⟩
      rcases List.mem_cons.1 hx with rfl | hx
      · exact hlt
      · exact Nat.lt_trans hlt (h.1 x hx)
    next hge =>
      split
      next heq =>
        subst heq
        simpa only [List.map_cons, List.pairwise_cons] using h
      next hne =>
        simp only [List.map_cons, List.pairwise_cons]
        refine ⟨fun x hx => ?_, ih h.2⟩
        rcases memWrite_keys hx with rfl | hx
        · omega
        · exact h.1 x hx

/-- The canonical form survives the writing of data into a chain. -/
theorem memWf_writeData (chain : List Nat) (d : List Byte) (i : Nat) {m : List Host.Cell} (h : memWf m = true) :
    memWf (writeData chain d i m) = true := by
  induction d generalizing i m with
  | nil => exact h
  | cons b d ih =>
    simp only [writeData]
    split
    · exact ih _ (memWf_memWrite _ _ h)
    · exact ih _ h

/-- Data written into a chain leave every byte at another address as it was. -/
theorem memRead_writeData_of_ne (chain : List Nat) (d : List Byte) (i : Nat) (m : List Host.Cell) (x : Nat)
    (h : ∀ n, n < d.length → spoolAddress chain (i + n) ≠ some x) : memRead (writeData chain d i m) x = memRead m x := by
  induction d generalizing i m with
  | nil => rfl
  | cons b d ih =>
    have hstep : ∀ n, n < d.length → spoolAddress chain (i + 1 + n) ≠ some x := fun n hn => by
      have := h (n + 1) (by simpa using hn)
      rwa [show i + (n + 1) = i + 1 + n by omega] at this
    simp only [writeData]
    split
    next a ha =>
      rw [ih _ _ hstep, memRead_memWrite, if_neg]
      rintro rfl
      exact h 0 (by simp) (by simpa using ha)
    next => exact ih _ _ hstep

/-- A chain without repeats gives no two bytes of a job one address (R13). -/
theorem spoolAddress_inj {chain : List Nat} (hc : chain.Nodup) {i j a : Nat} (hi : spoolAddress chain i = some a)
    (hj : spoolAddress chain j = some a) : i = j := by
  simp only [spoolAddress, Option.map_eq_some_iff, Config.segmentBytes] at hi hj
  obtain ⟨g, hg, hi⟩ := hi
  obtain ⟨g', hg', hj⟩ := hj
  obtain rfl : g = g' := by omega
  have := (List.getElem?_inj (List.getElem?_eq_some_iff.1 hg).1 hc).1 (hg.trans hg'.symm)
  omega

/-- Data written into a chain without repeats stand at their addresses (R12, R13). -/
theorem memRead_writeData {chain : List Nat} (hc : chain.Nodup) (d : List Byte) (i : Nat) (m : List Host.Cell) (n : Nat)
    (hn : n < d.length) {x : Nat} (hx : spoolAddress chain (i + n) = some x) :
    memRead (writeData chain d i m) x = some d[n] := by
  induction d generalizing i m n with
  | nil => simp at hn
  | cons b d ih =>
    cases n with
    | zero =>
      have hx' : spoolAddress chain i = some x := hx
      simp only [writeData, hx']
      rw [memRead_writeData_of_ne, memRead_memWrite, if_pos rfl]
      · rfl
      · intro k _ hk
        have := spoolAddress_inj hc hx' hk
        omega
    | succ n =>
      have hn' : n < d.length := by simpa using hn
      have hx' : spoolAddress chain (i + 1 + n) = some x := by rwa [show i + 1 + n = i + (n + 1) by omega]
      simp only [writeData]
      split
      · exact ih _ _ _ hn' hx'
      · exact ih _ _ _ hn' hx'

/-! ### The Free Segment List -/

/-- The segment numbers that runs stand for, in list order. -/
def runsList (runs : List Run) : List Nat := runs.flatMap (fun r => List.range' r.start r.len)

theorem freeList_eq (sp : Spool) : sp.freeList = runsList sp.free := rfl

/-- The length of the list is the sum of the lengths of its runs. -/
theorem freeLength_eq (sp : Spool) : sp.freeLength = sp.freeList.length := by
  simp [Spool.freeLength, Spool.freeList, List.length_flatMap]

/-- R15: a segment joins the list at the tail. -/
theorem runsList_pushTail (n : Nat) (runs : List Run) : runsList (pushTail n runs) = runsList runs ++ [n] := by
  induction runs with
  | nil => simp [pushTail, runsList]
  | cons r t ih =>
    cases t with
    | nil =>
      simp only [pushTail]
      split
      next h => subst h; simp [runsList, List.range'_concat]
      next => simp [runsList]
    | cons q t =>
      simp only [pushTail]
      simp only [runsList, List.flatMap_cons] at ih ⊢
      simp [ih]

/-- R3, R15: a chain joins the list at the tail, in chain order. -/
theorem runsList_pushChain (chain : List Nat) (runs : List Run) :
    runsList (pushChain chain runs) = runsList runs ++ chain := by
  induction chain generalizing runs with
  | nil => simp [pushChain]
  | cons n t ih =>
    have := ih (pushTail n runs)
    simp only [pushChain, List.foldl_cons] at this ⊢
    rw [this, runsList_pushTail]
    simp

/-- R15: the segment taken is the head of the list, and the rest is its tail. -/
theorem takeHead_some {runs rest : List Run} {g : Nat} (h : takeHead runs = some (g, rest)) :
    runsList runs = g :: runsList rest := by
  induction runs with
  | nil => simp [takeHead] at h
  | cons r t ih =>
    simp only [takeHead] at h
    split at h
    next h0 => simpa [runsList, h0] using ih h
    next h0 =>
      obtain ⟨n, hn⟩ : ∃ n, r.len = n + 1 := ⟨r.len - 1, by omega⟩
      simp only [Option.some.injEq, Prod.mk.injEq] at h
      obtain ⟨rfl, rfl⟩ := h
      split
      next h1 => simp [runsList, h1]
      next h1 => simp [runsList, hn, List.range'_succ]

/-- No segment is taken only when the list is empty. -/
theorem takeHead_none {runs : List Run} (h : takeHead runs = none) : runsList runs = [] := by
  induction runs with
  | nil => rfl
  | cons r t ih =>
    simp only [takeHead] at h
    split at h
    next h0 => simpa [runsList, h0] using ih h
    next => simp at h

end Sys2Proof.Machine
end

