-- ==== Sys2Proof/Laws/Tables.lean ====
section
/-! SUPPORT. Laws of the tables: a read after a write, and the canonical form that every table operation keeps (log 25). -/

namespace Sys2Proof.Machine

variable {α : Type}

@[simp] theorem Tbl.get_nil (d : α) (i : Nat) : Tbl.get d [] i = d := rfl

/-- What holds of the factory record and of every listed record holds of every record. -/
theorem Tbl.get_of_forall {P : α → Prop} {d : α} {t : Tbl α} (hd : P d) (h : ∀ e ∈ t, P e.2) (i : Nat) :
    P (Tbl.get d t i) := by
  induction t with
  | nil => exact hd
  | cons e t ih =>
    unfold Tbl.get
    split
    · exact h e (List.mem_cons_self ..)
    · exact ih fun x hx => h x (List.mem_cons_of_mem _ hx)

/-- A read of an index that is not listed gives the factory record. -/
theorem Tbl.get_of_not_listed {d : α} {t : Tbl α} {i : Nat} (h : ∀ e ∈ t, e.1 ≠ i) : Tbl.get d t i = d := by
  induction t with
  | nil => rfl
  | cons e t ih =>
    simp only [Tbl.get, if_neg (h e (by simp))]
    exact ih fun x hx => h x (by simp [hx])

theorem Tbl.get_erase (d : α) (t : Tbl α) (i j : Nat) :
    Tbl.get d (t.erase i) j = if j = i then d else Tbl.get d t j := by
  induction t with
  | nil => simp [Tbl.erase]
  | cons e t ih =>
    obtain ⟨k, v⟩ := e
    simp only [Tbl.erase] at ih ⊢
    by_cases hk : k = i
    · by_cases hj : j = i
      · simp_all
      · have : i ≠ j := fun h => hj h.symm
        simp_all [Tbl.get]
    · by_cases hj : j = i <;> simp_all [Tbl.get]

theorem Tbl.get_insert {d : α} {t : Tbl α} {i : Nat} (v : α) (j : Nat) (h : ∀ e ∈ t, e.1 ≠ i) :
    Tbl.get d (Tbl.insert i v t) j = if j = i then v else Tbl.get d t j := by
  induction t with
  | nil => simp only [Tbl.insert, Tbl.get, @eq_comm _ i j]
  | cons e t ih =>
    obtain ⟨k, w⟩ := e
    have hk : k ≠ i := h (k, w) (by simp)
    have ih := ih fun x hx => h x (by simp [hx])
    simp only [Tbl.insert]
    split
    · simp only [Tbl.get, @eq_comm _ i j]
    · simp only [Tbl.get, ih]
      by_cases hj : k = j
      · subst hj
        simp [hk]
      · simp [hj]

theorem Tbl.ne_of_mem_erase {t : Tbl α} {i : Nat} {e : Nat × α} (h : e ∈ t.erase i) : e.1 ≠ i := by
  simpa [Tbl.erase] using (List.mem_filter.1 h).2

/-- The record at an index after the record at another, or the same, has been replaced. -/
theorem Tbl.get_put [DecidableEq α] (d : α) (t : Tbl α) (i : Nat) (v : α) (j : Nat) :
    Tbl.get d (t.put d i v) j = if j = i then v else Tbl.get d t j := by
  unfold Tbl.put
  split
  next h => subst h; exact Tbl.get_erase v t i j
  next =>
    rw [Tbl.get_insert _ _ fun e he => Tbl.ne_of_mem_erase he, Tbl.get_erase]
    split <;> rfl

theorem Tbl.erase_erase (t : Tbl α) (i : Nat) : Tbl.erase (t.erase i) i = t.erase i := by
  simp [Tbl.erase, List.filter_filter]

theorem Tbl.erase_insert {t : Tbl α} {i : Nat} (v : α) : Tbl.erase (Tbl.insert i v t) i = t.erase i := by
  induction t with
  | nil => simp [Tbl.insert, Tbl.erase]
  | cons e t ih =>
    simp only [Tbl.insert]
    simp only [Tbl.erase] at ih ⊢
    split <;> simp_all [List.filter_cons]

/-- A second write to an index replaces the first. -/
theorem Tbl.put_put [DecidableEq α] (d : α) (t : Tbl α) (i : Nat) (v w : α) :
    Tbl.put d (t.put d i v) i w = t.put d i w := by
  have h : Tbl.erase (t.put d i v) i = t.erase i := by
    unfold Tbl.put
    split
    · exact Tbl.erase_erase t i
    · rw [Tbl.erase_insert, Tbl.erase_erase]
  unfold Tbl.put at h ⊢
  rw [h]

/-- The record at an index after every record has been replaced by its image. -/
theorem Tbl.get_mapAll [DecidableEq α] {d : α} {f : α → α} {t : Tbl α} (hd : f d = d)
    (hs : (t.map Prod.fst).Nodup) (i : Nat) : Tbl.get d (t.mapAll d f) i = f (Tbl.get d t i) := by
  induction t with
  | nil => simp [Tbl.mapAll, hd]
  | cons e t ih =>
    obtain ⟨k, v⟩ := e
    simp only [List.map_cons, List.nodup_cons] at hs
    have ih := ih hs.2
    simp only [Tbl.mapAll] at ih ⊢
    by_cases hk : k = i
    · subst hk
      simp only [List.map_cons, List.filter_cons, Tbl.get, if_true]
      split
      · simp [Tbl.get]
      next hv =>
        have hv : f v = d := by simpa using hv
        rw [hv]
        apply Tbl.get_of_not_listed
        intro e he
        simp only [List.mem_filter, List.mem_map] at he
        obtain ⟨⟨x, hx, rfl⟩, -⟩ := he
        rintro rfl
        exact hs.1 (List.mem_map.2 ⟨x, hx, rfl⟩)
    · simp only [List.map_cons, List.filter_cons, Tbl.get, if_neg hk]
      split <;> simp_all [Tbl.get]

/-! ### The canonical form -/

theorem Tbl.wf_iff [DecidableEq α] {d : α} {t : Tbl α} :
    Tbl.wf d t = true ↔ (t.map Prod.fst).Pairwise (· < ·) ∧ ∀ e ∈ t, e.2 ≠ d := by
  simp [Tbl.wf]

theorem Tbl.nodup_of_wf [DecidableEq α] {d : α} {t : Tbl α} (h : Tbl.wf d t = true) : (t.map Prod.fst).Nodup :=
  (Tbl.wf_iff.1 h).1.imp fun hlt => Nat.ne_of_lt hlt

theorem Tbl.mem_insert {t : Tbl α} {i : Nat} {v : α} {e : Nat × α} (h : e ∈ Tbl.insert i v t) : e = (i, v) ∨ e ∈ t := by
  induction t with
  | nil => simpa [Tbl.insert] using h
  | cons x t ih =>
    simp only [Tbl.insert] at h
    split at h
    · simpa using h
    · simp only [List.mem_cons] at h ⊢
      rcases h with rfl | h
      · simp
      · exact (ih h).imp id Or.inr

theorem Tbl.rising_insert {t : Tbl α} {i : Nat} {v : α} (h : (t.map Prod.fst).Pairwise (· < ·)) (hi : ∀ e ∈ t, e.1 ≠ i) :
    ((Tbl.insert i v t).map Prod.fst).Pairwise (· < ·) := by
  induction t with
  | nil => simp [Tbl.insert]
  | cons e t ih =>
    simp only [List.map_cons, List.pairwise_cons] at h
    have hne := hi e (by simp)
    simp only [Tbl.insert]
    split
    next hlt =>
      simp only [List.map_cons, List.pairwise_cons]
      refine ⟨fun a ha => ?_, h⟩
      rcases List.mem_cons.1 ha with rfl | ha
      · exact hlt
      · exact Nat.lt_trans hlt (h.1 a ha)
    next hge =>
      simp only [List.map_cons, List.pairwise_cons]
      refine ⟨fun a ha => ?_, ih h.2 fun x hx => hi x (by simp [hx])⟩
      obtain ⟨x, hx, rfl⟩ := List.mem_map.1 ha
      rcases Tbl.mem_insert hx with rfl | hx
      · exact Nat.lt_of_le_of_ne (Nat.le_of_not_lt hge) hne
      · exact h.1 _ (List.mem_map_of_mem hx)

/-- The canonical form survives the replacement of a record. -/
theorem Tbl.wf_put [DecidableEq α] {d : α} {t : Tbl α} (i : Nat) (v : α) (h : Tbl.wf d t = true) :
    Tbl.wf d (t.put d i v) = true := by
  rw [Tbl.wf_iff] at h ⊢
  have he : ((t.erase i).map Prod.fst).Pairwise (· < ·) := h.1.sublist (List.filter_sublist.map _)
  have hd : ∀ e ∈ t.erase i, e.2 ≠ d := fun e he => h.2 e (List.mem_of_mem_filter he)
  unfold Tbl.put
  split
  · exact ⟨he, hd⟩
  next hv =>
    refine ⟨Tbl.rising_insert he fun e h => Tbl.ne_of_mem_erase h, fun e h => ?_⟩
    rcases Tbl.mem_insert h with rfl | h
    · exact hv
    · exact hd e h

/-- The canonical form survives the replacement of every record by its image. -/
theorem Tbl.wf_mapAll [DecidableEq α] {d : α} {t : Tbl α} (f : α → α) (h : Tbl.wf d t = true) :
    Tbl.wf d (t.mapAll d f) = true := by
  rw [Tbl.wf_iff] at h ⊢
  constructor
  · have : ((t.map (fun e => (e.1, f e.2))).map Prod.fst).Pairwise (· < ·) := by simpa [Function.comp_def] using h.1
    exact this.sublist (List.filter_sublist.map _)
  · intro e he
    simpa using (List.mem_filter.1 he).2

/-- The canonical form survives the replacement of every record by an image that depends on its index. -/
theorem Tbl.wf_mapIdx [DecidableEq α] {d : α} {t : Tbl α} (f : Nat → α → α) (h : Tbl.wf d t = true) :
    Tbl.wf d (Tbl.mapIdx d f t) = true := by
  rw [Tbl.wf_iff] at h ⊢
  constructor
  · have : ((t.map (fun e => (e.1, f e.1 e.2))).map Prod.fst).Pairwise (· < ·) := by simpa [Function.comp_def] using h.1
    exact this.sublist (List.filter_sublist.map _)
  · intro e he
    simpa using (List.mem_filter.1 he).2

/-- Writes in any number keep the canonical form. -/
theorem Tbl.wf_foldl_put [DecidableEq α] {β : Type} {d : α} (key : β → Nat) (val : β → α) (l : List β) {t : Tbl α}
    (h : Tbl.wf d t = true) : Tbl.wf d (l.foldl (fun t x => Tbl.put d t (key x) (val x)) t) = true := by
  induction l generalizing t with
  | nil => exact h
  | cons x l ih => exact ih (Tbl.wf_put _ _ h)

/-- A table that is built from its records has the canonical form. -/
theorem Tbl.wf_build [DecidableEq α] (d : α) (f : Nat → α) (is : List Nat) : Tbl.wf d (Tbl.build d f is) = true :=
  Tbl.wf_foldl_put id f is (by simp [Tbl.wf])

end Sys2Proof.Machine
end

