-- ==== Sys2Proof/Laws/State.lean ====
section
/-! SUPPORT. The small lemmas of the state: for each replacement of a record, what it does to each field, and what a record
read after it is. -/

namespace Sys2Proof.Machine

variable (s : State)

/-! ### `setAccount` -/

@[simp] theorem State.setAccount_phase (k : Nat) (a : Account) : (s.setAccount k a).phase = s.phase := rfl
@[simp] theorem State.setAccount_jobs (k : Nat) (a : Account) : (s.setAccount k a).jobs = s.jobs := rfl
@[simp] theorem State.setAccount_spool (k : Nat) (a : Account) : (s.setAccount k a).spool = s.spool := rfl
@[simp] theorem State.setAccount_classifier (k : Nat) (a : Account) : (s.setAccount k a).classifier = s.classifier := rfl
@[simp] theorem State.setAccount_dflt (k : Nat) (a : Account) : (s.setAccount k a).dflt = s.dflt := rfl
@[simp] theorem State.setAccount_tariff (k : Nat) (a : Account) : (s.setAccount k a).tariff = s.tariff := rfl
@[simp] theorem State.setAccount_answer (k : Nat) (a : Account) : (s.setAccount k a).answer = s.answer := rfl
@[simp] theorem State.setAccount_printers (k : Nat) (a : Account) : (s.setAccount k a).printers = s.printers := rfl
@[simp] theorem State.setAccount_lastPrinter (k : Nat) (a : Account) : (s.setAccount k a).lastPrinter = s.lastPrinter := rfl
@[simp] theorem State.setAccount_callouts (k : Nat) (a : Account) : (s.setAccount k a).callouts = s.callouts := rfl
@[simp] theorem State.setAccount_reorders (k : Nat) (a : Account) : (s.setAccount k a).reorders = s.reorders := rfl
@[simp] theorem State.setAccount_clock (k : Nat) (a : Account) : (s.setAccount k a).clock = s.clock := rfl
@[simp] theorem State.setAccount_settings (k : Nat) (a : Account) : (s.setAccount k a).settings = s.settings := rfl
@[simp] theorem State.setAccount_store (k : Nat) (a : Account) : (s.setAccount k a).store = s.store := rfl
@[simp] theorem State.setAccount_restartPending (k : Nat) (a : Account) : (s.setAccount k a).restartPending = s.restartPending := rfl
@[simp] theorem State.setAccount_console (k : Nat) (a : Account) : (s.setAccount k a).console = s.console := rfl
@[simp] theorem State.setAccount_oport (k : Nat) (a : Account) : (s.setAccount k a).oport = s.oport := rfl
@[simp] theorem State.setAccount_fport (k : Nat) (a : Account) : (s.setAccount k a).fport = s.fport := rfl
@[simp] theorem State.setAccount_freeCount (k : Nat) (a : Account) : (s.setAccount k a).freeCount = s.freeCount := rfl
@[simp] theorem State.setAccount_pending (k : Nat) (a : Account) : (s.setAccount k a).pending = s.pending := rfl
@[simp] theorem State.setAccount_printer (k : Nat) (a : Account) (p' : Nat) : (s.setAccount k a).printer p' = s.printer p' := rfl
@[simp] theorem State.setAccount_callout (k : Nat) (a : Account) (i' : Nat) : (s.setAccount k a).callout i' = s.callout i' := rfl
@[simp] theorem State.setAccount_reorder (k : Nat) (a : Account) (i' : Nat) : (s.setAccount k a).reorder i' = s.reorder i' := rfl
@[simp] theorem State.setAccount_classEntry (k : Nat) (a : Account) (i' : Nat) : (s.setAccount k a).classEntry i' = s.classEntry i' := rfl
@[simp] theorem State.setAccount_job (k : Nat) (a : Account) (g' : Nat) : (s.setAccount k a).job g' = s.job g' := rfl

/-! ### `setPrinter` -/

@[simp] theorem State.setPrinter_phase (p : Nat) (e : Printer) : (s.setPrinter p e).phase = s.phase := rfl
@[simp] theorem State.setPrinter_jobs (p : Nat) (e : Printer) : (s.setPrinter p e).jobs = s.jobs := rfl
@[simp] theorem State.setPrinter_spool (p : Nat) (e : Printer) : (s.setPrinter p e).spool = s.spool := rfl
@[simp] theorem State.setPrinter_classifier (p : Nat) (e : Printer) : (s.setPrinter p e).classifier = s.classifier := rfl
@[simp] theorem State.setPrinter_dflt (p : Nat) (e : Printer) : (s.setPrinter p e).dflt = s.dflt := rfl
@[simp] theorem State.setPrinter_accounts (p : Nat) (e : Printer) : (s.setPrinter p e).accounts = s.accounts := rfl
@[simp] theorem State.setPrinter_tariff (p : Nat) (e : Printer) : (s.setPrinter p e).tariff = s.tariff := rfl
@[simp] theorem State.setPrinter_answer (p : Nat) (e : Printer) : (s.setPrinter p e).answer = s.answer := rfl
@[simp] theorem State.setPrinter_lastPrinter (p : Nat) (e : Printer) : (s.setPrinter p e).lastPrinter = s.lastPrinter := rfl
@[simp] theorem State.setPrinter_callouts (p : Nat) (e : Printer) : (s.setPrinter p e).callouts = s.callouts := rfl
@[simp] theorem State.setPrinter_reorders (p : Nat) (e : Printer) : (s.setPrinter p e).reorders = s.reorders := rfl
@[simp] theorem State.setPrinter_clock (p : Nat) (e : Printer) : (s.setPrinter p e).clock = s.clock := rfl
@[simp] theorem State.setPrinter_settings (p : Nat) (e : Printer) : (s.setPrinter p e).settings = s.settings := rfl
@[simp] theorem State.setPrinter_store (p : Nat) (e : Printer) : (s.setPrinter p e).store = s.store := rfl
@[simp] theorem State.setPrinter_restartPending (p : Nat) (e : Printer) : (s.setPrinter p e).restartPending = s.restartPending := rfl
@[simp] theorem State.setPrinter_console (p : Nat) (e : Printer) : (s.setPrinter p e).console = s.console := rfl
@[simp] theorem State.setPrinter_oport (p : Nat) (e : Printer) : (s.setPrinter p e).oport = s.oport := rfl
@[simp] theorem State.setPrinter_fport (p : Nat) (e : Printer) : (s.setPrinter p e).fport = s.fport := rfl
@[simp] theorem State.setPrinter_freeCount (p : Nat) (e : Printer) : (s.setPrinter p e).freeCount = s.freeCount := rfl
@[simp] theorem State.setPrinter_pending (p : Nat) (e : Printer) : (s.setPrinter p e).pending = s.pending := rfl
@[simp] theorem State.setPrinter_account (p : Nat) (e : Printer) (k' : Nat) : (s.setPrinter p e).account k' = s.account k' := rfl
@[simp] theorem State.setPrinter_callout (p : Nat) (e : Printer) (i' : Nat) : (s.setPrinter p e).callout i' = s.callout i' := rfl
@[simp] theorem State.setPrinter_reorder (p : Nat) (e : Printer) (i' : Nat) : (s.setPrinter p e).reorder i' = s.reorder i' := rfl
@[simp] theorem State.setPrinter_classEntry (p : Nat) (e : Printer) (i' : Nat) : (s.setPrinter p e).classEntry i' = s.classEntry i' := rfl
@[simp] theorem State.setPrinter_job (p : Nat) (e : Printer) (g' : Nat) : (s.setPrinter p e).job g' = s.job g' := rfl

/-! ### `updPrinter` -/

@[simp] theorem State.updPrinter_phase (p : Nat) (f : Printer → Printer) : (s.updPrinter p f).phase = s.phase := rfl
@[simp] theorem State.updPrinter_jobs (p : Nat) (f : Printer → Printer) : (s.updPrinter p f).jobs = s.jobs := rfl
@[simp] theorem State.updPrinter_spool (p : Nat) (f : Printer → Printer) : (s.updPrinter p f).spool = s.spool := rfl
@[simp] theorem State.updPrinter_classifier (p : Nat) (f : Printer → Printer) : (s.updPrinter p f).classifier = s.classifier := rfl
@[simp] theorem State.updPrinter_dflt (p : Nat) (f : Printer → Printer) : (s.updPrinter p f).dflt = s.dflt := rfl
@[simp] theorem State.updPrinter_accounts (p : Nat) (f : Printer → Printer) : (s.updPrinter p f).accounts = s.accounts := rfl
@[simp] theorem State.updPrinter_tariff (p : Nat) (f : Printer → Printer) : (s.updPrinter p f).tariff = s.tariff := rfl
@[simp] theorem State.updPrinter_answer (p : Nat) (f : Printer → Printer) : (s.updPrinter p f).answer = s.answer := rfl
@[simp] theorem State.updPrinter_lastPrinter (p : Nat) (f : Printer → Printer) : (s.updPrinter p f).lastPrinter = s.lastPrinter := rfl
@[simp] theorem State.updPrinter_callouts (p : Nat) (f : Printer → Printer) : (s.updPrinter p f).callouts = s.callouts := rfl
@[simp] theorem State.updPrinter_reorders (p : Nat) (f : Printer → Printer) : (s.updPrinter p f).reorders = s.reorders := rfl
@[simp] theorem State.updPrinter_clock (p : Nat) (f : Printer → Printer) : (s.updPrinter p f).clock = s.clock := rfl
@[simp] theorem State.updPrinter_settings (p : Nat) (f : Printer → Printer) : (s.updPrinter p f).settings = s.settings := rfl
@[simp] theorem State.updPrinter_store (p : Nat) (f : Printer → Printer) : (s.updPrinter p f).store = s.store := rfl
@[simp] theorem State.updPrinter_restartPending (p : Nat) (f : Printer → Printer) : (s.updPrinter p f).restartPending = s.restartPending := rfl
@[simp] theorem State.updPrinter_console (p : Nat) (f : Printer → Printer) : (s.updPrinter p f).console = s.console := rfl
@[simp] theorem State.updPrinter_oport (p : Nat) (f : Printer → Printer) : (s.updPrinter p f).oport = s.oport := rfl
@[simp] theorem State.updPrinter_fport (p : Nat) (f : Printer → Printer) : (s.updPrinter p f).fport = s.fport := rfl
@[simp] theorem State.updPrinter_freeCount (p : Nat) (f : Printer → Printer) : (s.updPrinter p f).freeCount = s.freeCount := rfl
@[simp] theorem State.updPrinter_pending (p : Nat) (f : Printer → Printer) : (s.updPrinter p f).pending = s.pending := rfl
@[simp] theorem State.updPrinter_account (p : Nat) (f : Printer → Printer) (k' : Nat) : (s.updPrinter p f).account k' = s.account k' := rfl
@[simp] theorem State.updPrinter_callout (p : Nat) (f : Printer → Printer) (i' : Nat) : (s.updPrinter p f).callout i' = s.callout i' := rfl
@[simp] theorem State.updPrinter_reorder (p : Nat) (f : Printer → Printer) (i' : Nat) : (s.updPrinter p f).reorder i' = s.reorder i' := rfl
@[simp] theorem State.updPrinter_classEntry (p : Nat) (f : Printer → Printer) (i' : Nat) : (s.updPrinter p f).classEntry i' = s.classEntry i' := rfl
@[simp] theorem State.updPrinter_job (p : Nat) (f : Printer → Printer) (g' : Nat) : (s.updPrinter p f).job g' = s.job g' := rfl

/-! ### `setCallout` -/

@[simp] theorem State.setCallout_phase (i : Nat) (c : Option Callout) : (s.setCallout i c).phase = s.phase := rfl
@[simp] theorem State.setCallout_jobs (i : Nat) (c : Option Callout) : (s.setCallout i c).jobs = s.jobs := rfl
@[simp] theorem State.setCallout_spool (i : Nat) (c : Option Callout) : (s.setCallout i c).spool = s.spool := rfl
@[simp] theorem State.setCallout_classifier (i : Nat) (c : Option Callout) : (s.setCallout i c).classifier = s.classifier := rfl
@[simp] theorem State.setCallout_dflt (i : Nat) (c : Option Callout) : (s.setCallout i c).dflt = s.dflt := rfl
@[simp] theorem State.setCallout_accounts (i : Nat) (c : Option Callout) : (s.setCallout i c).accounts = s.accounts := rfl
@[simp] theorem State.setCallout_tariff (i : Nat) (c : Option Callout) : (s.setCallout i c).tariff = s.tariff := rfl
@[simp] theorem State.setCallout_answer (i : Nat) (c : Option Callout) : (s.setCallout i c).answer = s.answer := rfl
@[simp] theorem State.setCallout_printers (i : Nat) (c : Option Callout) : (s.setCallout i c).printers = s.printers := rfl
@[simp] theorem State.setCallout_lastPrinter (i : Nat) (c : Option Callout) : (s.setCallout i c).lastPrinter = s.lastPrinter := rfl
@[simp] theorem State.setCallout_reorders (i : Nat) (c : Option Callout) : (s.setCallout i c).reorders = s.reorders := rfl
@[simp] theorem State.setCallout_clock (i : Nat) (c : Option Callout) : (s.setCallout i c).clock = s.clock := rfl
@[simp] theorem State.setCallout_settings (i : Nat) (c : Option Callout) : (s.setCallout i c).settings = s.settings := rfl
@[simp] theorem State.setCallout_store (i : Nat) (c : Option Callout) : (s.setCallout i c).store = s.store := rfl
@[simp] theorem State.setCallout_restartPending (i : Nat) (c : Option Callout) : (s.setCallout i c).restartPending = s.restartPending := rfl
@[simp] theorem State.setCallout_console (i : Nat) (c : Option Callout) : (s.setCallout i c).console = s.console := rfl
@[simp] theorem State.setCallout_oport (i : Nat) (c : Option Callout) : (s.setCallout i c).oport = s.oport := rfl
@[simp] theorem State.setCallout_fport (i : Nat) (c : Option Callout) : (s.setCallout i c).fport = s.fport := rfl
@[simp] theorem State.setCallout_freeCount (i : Nat) (c : Option Callout) : (s.setCallout i c).freeCount = s.freeCount := rfl
@[simp] theorem State.setCallout_pending (i : Nat) (c : Option Callout) : (s.setCallout i c).pending = s.pending := rfl
@[simp] theorem State.setCallout_account (i : Nat) (c : Option Callout) (k' : Nat) : (s.setCallout i c).account k' = s.account k' := rfl
@[simp] theorem State.setCallout_printer (i : Nat) (c : Option Callout) (p' : Nat) : (s.setCallout i c).printer p' = s.printer p' := rfl
@[simp] theorem State.setCallout_reorder (i : Nat) (c : Option Callout) (i' : Nat) : (s.setCallout i c).reorder i' = s.reorder i' := rfl
@[simp] theorem State.setCallout_classEntry (i : Nat) (c : Option Callout) (i' : Nat) : (s.setCallout i c).classEntry i' = s.classEntry i' := rfl
@[simp] theorem State.setCallout_job (i : Nat) (c : Option Callout) (g' : Nat) : (s.setCallout i c).job g' = s.job g' := rfl

/-! ### `setReorder` -/

@[simp] theorem State.setReorder_phase (i : Nat) (r : Option Reorder) : (s.setReorder i r).phase = s.phase := rfl
@[simp] theorem State.setReorder_jobs (i : Nat) (r : Option Reorder) : (s.setReorder i r).jobs = s.jobs := rfl
@[simp] theorem State.setReorder_spool (i : Nat) (r : Option Reorder) : (s.setReorder i r).spool = s.spool := rfl
@[simp] theorem State.setReorder_classifier (i : Nat) (r : Option Reorder) : (s.setReorder i r).classifier = s.classifier := rfl
@[simp] theorem State.setReorder_dflt (i : Nat) (r : Option Reorder) : (s.setReorder i r).dflt = s.dflt := rfl
@[simp] theorem State.setReorder_accounts (i : Nat) (r : Option Reorder) : (s.setReorder i r).accounts = s.accounts := rfl
@[simp] theorem State.setReorder_tariff (i : Nat) (r : Option Reorder) : (s.setReorder i r).tariff = s.tariff := rfl
@[simp] theorem State.setReorder_answer (i : Nat) (r : Option Reorder) : (s.setReorder i r).answer = s.answer := rfl
@[simp] theorem State.setReorder_printers (i : Nat) (r : Option Reorder) : (s.setReorder i r).printers = s.printers := rfl
@[simp] theorem State.setReorder_lastPrinter (i : Nat) (r : Option Reorder) : (s.setReorder i r).lastPrinter = s.lastPrinter := rfl
@[simp] theorem State.setReorder_callouts (i : Nat) (r : Option Reorder) : (s.setReorder i r).callouts = s.callouts := rfl
@[simp] theorem State.setReorder_clock (i : Nat) (r : Option Reorder) : (s.setReorder i r).clock = s.clock := rfl
@[simp] theorem State.setReorder_settings (i : Nat) (r : Option Reorder) : (s.setReorder i r).settings = s.settings := rfl
@[simp] theorem State.setReorder_store (i : Nat) (r : Option Reorder) : (s.setReorder i r).store = s.store := rfl
@[simp] theorem State.setReorder_restartPending (i : Nat) (r : Option Reorder) : (s.setReorder i r).restartPending = s.restartPending := rfl
@[simp] theorem State.setReorder_console (i : Nat) (r : Option Reorder) : (s.setReorder i r).console = s.console := rfl
@[simp] theorem State.setReorder_oport (i : Nat) (r : Option Reorder) : (s.setReorder i r).oport = s.oport := rfl
@[simp] theorem State.setReorder_fport (i : Nat) (r : Option Reorder) : (s.setReorder i r).fport = s.fport := rfl
@[simp] theorem State.setReorder_freeCount (i : Nat) (r : Option Reorder) : (s.setReorder i r).freeCount = s.freeCount := rfl
@[simp] theorem State.setReorder_pending (i : Nat) (r : Option Reorder) : (s.setReorder i r).pending = s.pending := rfl
@[simp] theorem State.setReorder_account (i : Nat) (r : Option Reorder) (k' : Nat) : (s.setReorder i r).account k' = s.account k' := rfl
@[simp] theorem State.setReorder_printer (i : Nat) (r : Option Reorder) (p' : Nat) : (s.setReorder i r).printer p' = s.printer p' := rfl
@[simp] theorem State.setReorder_callout (i : Nat) (r : Option Reorder) (i' : Nat) : (s.setReorder i r).callout i' = s.callout i' := rfl
@[simp] theorem State.setReorder_classEntry (i : Nat) (r : Option Reorder) (i' : Nat) : (s.setReorder i r).classEntry i' = s.classEntry i' := rfl
@[simp] theorem State.setReorder_job (i : Nat) (r : Option Reorder) (g' : Nat) : (s.setReorder i r).job g' = s.job g' := rfl

/-! ### `updJob` -/

@[simp] theorem State.updJob_phase (g : Nat) (f : Job → Job) : (s.updJob g f).phase = s.phase := rfl
@[simp] theorem State.updJob_spool (g : Nat) (f : Job → Job) : (s.updJob g f).spool = s.spool := rfl
@[simp] theorem State.updJob_classifier (g : Nat) (f : Job → Job) : (s.updJob g f).classifier = s.classifier := rfl
@[simp] theorem State.updJob_dflt (g : Nat) (f : Job → Job) : (s.updJob g f).dflt = s.dflt := rfl
@[simp] theorem State.updJob_accounts (g : Nat) (f : Job → Job) : (s.updJob g f).accounts = s.accounts := rfl
@[simp] theorem State.updJob_tariff (g : Nat) (f : Job → Job) : (s.updJob g f).tariff = s.tariff := rfl
@[simp] theorem State.updJob_answer (g : Nat) (f : Job → Job) : (s.updJob g f).answer = s.answer := rfl
@[simp] theorem State.updJob_printers (g : Nat) (f : Job → Job) : (s.updJob g f).printers = s.printers := rfl
@[simp] theorem State.updJob_lastPrinter (g : Nat) (f : Job → Job) : (s.updJob g f).lastPrinter = s.lastPrinter := rfl
@[simp] theorem State.updJob_callouts (g : Nat) (f : Job → Job) : (s.updJob g f).callouts = s.callouts := rfl
@[simp] theorem State.updJob_reorders (g : Nat) (f : Job → Job) : (s.updJob g f).reorders = s.reorders := rfl
@[simp] theorem State.updJob_clock (g : Nat) (f : Job → Job) : (s.updJob g f).clock = s.clock := rfl
@[simp] theorem State.updJob_settings (g : Nat) (f : Job → Job) : (s.updJob g f).settings = s.settings := rfl
@[simp] theorem State.updJob_store (g : Nat) (f : Job → Job) : (s.updJob g f).store = s.store := rfl
@[simp] theorem State.updJob_restartPending (g : Nat) (f : Job → Job) : (s.updJob g f).restartPending = s.restartPending := rfl
@[simp] theorem State.updJob_console (g : Nat) (f : Job → Job) : (s.updJob g f).console = s.console := rfl
@[simp] theorem State.updJob_oport (g : Nat) (f : Job → Job) : (s.updJob g f).oport = s.oport := rfl
@[simp] theorem State.updJob_fport (g : Nat) (f : Job → Job) : (s.updJob g f).fport = s.fport := rfl
@[simp] theorem State.updJob_freeCount (g : Nat) (f : Job → Job) : (s.updJob g f).freeCount = s.freeCount := rfl
@[simp] theorem State.updJob_pending (g : Nat) (f : Job → Job) : (s.updJob g f).pending = s.pending := rfl
@[simp] theorem State.updJob_lastTag (g : Nat) (f : Job → Job) : (s.updJob g f).jobs.lastTag = s.jobs.lastTag := rfl
@[simp] theorem State.updJob_holdSeq (g : Nat) (f : Job → Job) : (s.updJob g f).jobs.holdSeq = s.jobs.holdSeq := rfl
@[simp] theorem State.updJob_contexts (g : Nat) (f : Job → Job) : (s.updJob g f).jobs.contexts = s.jobs.contexts := rfl
@[simp] theorem State.updJob_outgoing (g : Nat) (f : Job → Job) : (s.updJob g f).jobs.outgoing = s.jobs.outgoing := rfl
@[simp] theorem State.updJob_account (g : Nat) (f : Job → Job) (k' : Nat) : (s.updJob g f).account k' = s.account k' := rfl
@[simp] theorem State.updJob_printer (g : Nat) (f : Job → Job) (p' : Nat) : (s.updJob g f).printer p' = s.printer p' := rfl
@[simp] theorem State.updJob_callout (g : Nat) (f : Job → Job) (i' : Nat) : (s.updJob g f).callout i' = s.callout i' := rfl
@[simp] theorem State.updJob_reorder (g : Nat) (f : Job → Job) (i' : Nat) : (s.updJob g f).reorder i' = s.reorder i' := rfl
@[simp] theorem State.updJob_classEntry (g : Nat) (f : Job → Job) (i' : Nat) : (s.updJob g f).classEntry i' = s.classEntry i' := rfl

/-! ### `dropJob` -/

@[simp] theorem State.dropJob_phase (g : Nat) : (s.dropJob g).phase = s.phase := rfl
@[simp] theorem State.dropJob_spool (g : Nat) : (s.dropJob g).spool = s.spool := rfl
@[simp] theorem State.dropJob_classifier (g : Nat) : (s.dropJob g).classifier = s.classifier := rfl
@[simp] theorem State.dropJob_dflt (g : Nat) : (s.dropJob g).dflt = s.dflt := rfl
@[simp] theorem State.dropJob_accounts (g : Nat) : (s.dropJob g).accounts = s.accounts := rfl
@[simp] theorem State.dropJob_tariff (g : Nat) : (s.dropJob g).tariff = s.tariff := rfl
@[simp] theorem State.dropJob_answer (g : Nat) : (s.dropJob g).answer = s.answer := rfl
@[simp] theorem State.dropJob_printers (g : Nat) : (s.dropJob g).printers = s.printers := rfl
@[simp] theorem State.dropJob_lastPrinter (g : Nat) : (s.dropJob g).lastPrinter = s.lastPrinter := rfl
@[simp] theorem State.dropJob_callouts (g : Nat) : (s.dropJob g).callouts = s.callouts := rfl
@[simp] theorem State.dropJob_reorders (g : Nat) : (s.dropJob g).reorders = s.reorders := rfl
@[simp] theorem State.dropJob_clock (g : Nat) : (s.dropJob g).clock = s.clock := rfl
@[simp] theorem State.dropJob_settings (g : Nat) : (s.dropJob g).settings = s.settings := rfl
@[simp] theorem State.dropJob_store (g : Nat) : (s.dropJob g).store = s.store := rfl
@[simp] theorem State.dropJob_restartPending (g : Nat) : (s.dropJob g).restartPending = s.restartPending := rfl
@[simp] theorem State.dropJob_console (g : Nat) : (s.dropJob g).console = s.console := rfl
@[simp] theorem State.dropJob_oport (g : Nat) : (s.dropJob g).oport = s.oport := rfl
@[simp] theorem State.dropJob_fport (g : Nat) : (s.dropJob g).fport = s.fport := rfl
@[simp] theorem State.dropJob_freeCount (g : Nat) : (s.dropJob g).freeCount = s.freeCount := rfl
@[simp] theorem State.dropJob_pending (g : Nat) : (s.dropJob g).pending = s.pending := rfl
@[simp] theorem State.dropJob_lastTag (g : Nat) : (s.dropJob g).jobs.lastTag = s.jobs.lastTag := rfl
@[simp] theorem State.dropJob_holdSeq (g : Nat) : (s.dropJob g).jobs.holdSeq = s.jobs.holdSeq := rfl
@[simp] theorem State.dropJob_contexts (g : Nat) : (s.dropJob g).jobs.contexts = s.jobs.contexts := rfl
@[simp] theorem State.dropJob_outgoing (g : Nat) : (s.dropJob g).jobs.outgoing = s.jobs.outgoing := rfl
@[simp] theorem State.dropJob_account (g : Nat) (k' : Nat) : (s.dropJob g).account k' = s.account k' := rfl
@[simp] theorem State.dropJob_printer (g : Nat) (p' : Nat) : (s.dropJob g).printer p' = s.printer p' := rfl
@[simp] theorem State.dropJob_callout (g : Nat) (i' : Nat) : (s.dropJob g).callout i' = s.callout i' := rfl
@[simp] theorem State.dropJob_reorder (g : Nat) (i' : Nat) : (s.dropJob g).reorder i' = s.reorder i' := rfl
@[simp] theorem State.dropJob_classEntry (g : Nat) (i' : Nat) : (s.dropJob g).classEntry i' = s.classEntry i' := rfl

/-! ### `listOut` -/

@[simp] theorem State.listOut_phase (m : OwnMsg) : (s.listOut m).phase = s.phase := rfl
@[simp] theorem State.listOut_spool (m : OwnMsg) : (s.listOut m).spool = s.spool := rfl
@[simp] theorem State.listOut_classifier (m : OwnMsg) : (s.listOut m).classifier = s.classifier := rfl
@[simp] theorem State.listOut_dflt (m : OwnMsg) : (s.listOut m).dflt = s.dflt := rfl
@[simp] theorem State.listOut_accounts (m : OwnMsg) : (s.listOut m).accounts = s.accounts := rfl
@[simp] theorem State.listOut_tariff (m : OwnMsg) : (s.listOut m).tariff = s.tariff := rfl
@[simp] theorem State.listOut_answer (m : OwnMsg) : (s.listOut m).answer = s.answer := rfl
@[simp] theorem State.listOut_printers (m : OwnMsg) : (s.listOut m).printers = s.printers := rfl
@[simp] theorem State.listOut_lastPrinter (m : OwnMsg) : (s.listOut m).lastPrinter = s.lastPrinter := rfl
@[simp] theorem State.listOut_callouts (m : OwnMsg) : (s.listOut m).callouts = s.callouts := rfl
@[simp] theorem State.listOut_reorders (m : OwnMsg) : (s.listOut m).reorders = s.reorders := rfl
@[simp] theorem State.listOut_clock (m : OwnMsg) : (s.listOut m).clock = s.clock := rfl
@[simp] theorem State.listOut_settings (m : OwnMsg) : (s.listOut m).settings = s.settings := rfl
@[simp] theorem State.listOut_store (m : OwnMsg) : (s.listOut m).store = s.store := rfl
@[simp] theorem State.listOut_restartPending (m : OwnMsg) : (s.listOut m).restartPending = s.restartPending := rfl
@[simp] theorem State.listOut_console (m : OwnMsg) : (s.listOut m).console = s.console := rfl
@[simp] theorem State.listOut_oport (m : OwnMsg) : (s.listOut m).oport = s.oport := rfl
@[simp] theorem State.listOut_fport (m : OwnMsg) : (s.listOut m).fport = s.fport := rfl
@[simp] theorem State.listOut_freeCount (m : OwnMsg) : (s.listOut m).freeCount = s.freeCount := rfl
@[simp] theorem State.listOut_pending (m : OwnMsg) : (s.listOut m).pending = s.pending := rfl
@[simp] theorem State.listOut_lastTag (m : OwnMsg) : (s.listOut m).jobs.lastTag = s.jobs.lastTag := rfl
@[simp] theorem State.listOut_holdSeq (m : OwnMsg) : (s.listOut m).jobs.holdSeq = s.jobs.holdSeq := rfl
@[simp] theorem State.listOut_contexts (m : OwnMsg) : (s.listOut m).jobs.contexts = s.jobs.contexts := rfl
@[simp] theorem State.listOut_recs (m : OwnMsg) : (s.listOut m).jobs.recs = s.jobs.recs := rfl
@[simp] theorem State.listOut_account (m : OwnMsg) (k' : Nat) : (s.listOut m).account k' = s.account k' := rfl
@[simp] theorem State.listOut_printer (m : OwnMsg) (p' : Nat) : (s.listOut m).printer p' = s.printer p' := rfl
@[simp] theorem State.listOut_callout (m : OwnMsg) (i' : Nat) : (s.listOut m).callout i' = s.callout i' := rfl
@[simp] theorem State.listOut_reorder (m : OwnMsg) (i' : Nat) : (s.listOut m).reorder i' = s.reorder i' := rfl
@[simp] theorem State.listOut_classEntry (m : OwnMsg) (i' : Nat) : (s.listOut m).classEntry i' = s.classEntry i' := rfl
@[simp] theorem State.listOut_job (m : OwnMsg) (g' : Nat) : (s.listOut m).job g' = s.job g' := rfl

/-! ### `withPending` -/

@[simp] theorem State.withPending_phase (q : List Instr) : (s.withPending q).phase = s.phase := rfl
@[simp] theorem State.withPending_jobs (q : List Instr) : (s.withPending q).jobs = s.jobs := rfl
@[simp] theorem State.withPending_spool (q : List Instr) : (s.withPending q).spool = s.spool := rfl
@[simp] theorem State.withPending_classifier (q : List Instr) : (s.withPending q).classifier = s.classifier := rfl
@[simp] theorem State.withPending_dflt (q : List Instr) : (s.withPending q).dflt = s.dflt := rfl
@[simp] theorem State.withPending_accounts (q : List Instr) : (s.withPending q).accounts = s.accounts := rfl
@[simp] theorem State.withPending_tariff (q : List Instr) : (s.withPending q).tariff = s.tariff := rfl
@[simp] theorem State.withPending_answer (q : List Instr) : (s.withPending q).answer = s.answer := rfl
@[simp] theorem State.withPending_printers (q : List Instr) : (s.withPending q).printers = s.printers := rfl
@[simp] theorem State.withPending_lastPrinter (q : List Instr) : (s.withPending q).lastPrinter = s.lastPrinter := rfl
@[simp] theorem State.withPending_callouts (q : List Instr) : (s.withPending q).callouts = s.callouts := rfl
@[simp] theorem State.withPending_reorders (q : List Instr) : (s.withPending q).reorders = s.reorders := rfl
@[simp] theorem State.withPending_clock (q : List Instr) : (s.withPending q).clock = s.clock := rfl
@[simp] theorem State.withPending_settings (q : List Instr) : (s.withPending q).settings = s.settings := rfl
@[simp] theorem State.withPending_store (q : List Instr) : (s.withPending q).store = s.store := rfl
@[simp] theorem State.withPending_restartPending (q : List Instr) : (s.withPending q).restartPending = s.restartPending := rfl
@[simp] theorem State.withPending_console (q : List Instr) : (s.withPending q).console = s.console := rfl
@[simp] theorem State.withPending_oport (q : List Instr) : (s.withPending q).oport = s.oport := rfl
@[simp] theorem State.withPending_fport (q : List Instr) : (s.withPending q).fport = s.fport := rfl
@[simp] theorem State.withPending_freeCount (q : List Instr) : (s.withPending q).freeCount = s.freeCount := rfl
@[simp] theorem State.withPending_account (q : List Instr) (k' : Nat) : (s.withPending q).account k' = s.account k' := rfl
@[simp] theorem State.withPending_printer (q : List Instr) (p' : Nat) : (s.withPending q).printer p' = s.printer p' := rfl
@[simp] theorem State.withPending_callout (q : List Instr) (i' : Nat) : (s.withPending q).callout i' = s.callout i' := rfl
@[simp] theorem State.withPending_reorder (q : List Instr) (i' : Nat) : (s.withPending q).reorder i' = s.reorder i' := rfl
@[simp] theorem State.withPending_classEntry (q : List Instr) (i' : Nat) : (s.withPending q).classEntry i' = s.classEntry i' := rfl
@[simp] theorem State.withPending_job (q : List Instr) (g' : Nat) : (s.withPending q).job g' = s.job g' := rfl

/-! ### A record read after a record has been replaced -/

@[simp] theorem State.account_setAccount (k : Nat) (a : Account) (i : Nat) :
    (s.setAccount k a).account i = if i = k then a else s.account i := Tbl.get_put _ _ _ _ _

@[simp] theorem State.printer_setPrinter (p : Nat) (e : Printer) (i : Nat) :
    (s.setPrinter p e).printer i = if i = p then e else s.printer i := Tbl.get_put _ _ _ _ _

@[simp] theorem State.printer_updPrinter (p : Nat) (f : Printer → Printer) (i : Nat) :
    (s.updPrinter p f).printer i = if i = p then f (s.printer p) else s.printer i := State.printer_setPrinter _ _ _ _

@[simp] theorem State.callout_setCallout (i : Nat) (c : Option Callout) (x : Nat) :
    (s.setCallout i c).callout x = if x = i then c else s.callout x := Tbl.get_put _ _ _ _ _

@[simp] theorem State.reorder_setReorder (i : Nat) (r : Option Reorder) (x : Nat) :
    (s.setReorder i r).reorder x = if x = i then r else s.reorder x := Tbl.get_put _ _ _ _ _

/-- A job read after a change, which keeps tags, of the records of a tag. -/
theorem State.job_updJob (g : Nat) (f : Job → Job) (hf : ∀ j, (f j).tag = j.tag) (x : Nat) :
    (s.updJob g f).job x = if x = g then (s.job x).map f else s.job x := by
  simp only [State.job, State.updJob]
  induction s.jobs.recs with
  | nil => simp
  | cons j l ih =>
    simp only [List.map_cons, List.find?_cons]
    by_cases hx : j.tag = x
    · have h1 : (j.tag == x) = true := by simpa using hx
      have h2 : ((f j).tag == x) = true := by rw [hf]; exact h1
      by_cases hj : j.tag = g
      · simp [hj, h2, ← hx, hf]
      · have : x ≠ g := fun h => hj (hx.trans h)
        simp [hj, h1, this]
    · have h1 : (j.tag == x) = false := by simpa using hx
      have h2 : ((f j).tag == x) = false := by rw [hf]; exact h1
      rw [h1]
      by_cases hj : j.tag = g
      · simp only [hj, if_true, h2, ih]
      · simp only [hj, if_false, h1, ih]

/-- A job read after the record of a tag has left the table. -/
@[simp] theorem State.job_dropJob (g x : Nat) : (s.dropJob g).job x = if x = g then none else s.job x := by
  simp only [State.job, State.dropJob, List.find?_filter]
  by_cases hx : x = g
  · subst hx
    rw [if_pos rfl, List.find?_eq_none]
    simp
  · rw [if_neg hx]
    congr 1
    funext j
    by_cases hj : j.tag = x <;> simp [hj, hx]

/-- The job a tag names has that tag. -/
theorem State.tag_of_job {g : Nat} {j : Job} (h : s.job g = some j) : j.tag = g := by
  simpa using List.find?_some h

/-- The job a tag names is in the Job Table. -/
theorem State.mem_of_job {g : Nat} {j : Job} (h : s.job g = some j) : j ∈ s.jobs.recs := List.mem_of_find?_eq_some h

/-- A message of the outgoing list stands at its tail. -/
@[simp] theorem State.listOut_outgoing (m : OwnMsg) : (s.listOut m).jobs.outgoing = s.jobs.outgoing ++ [m] := rfl

@[simp] theorem State.withPending_pending (q : List Instr) : (s.withPending q).pending = q := rfl

end Sys2Proof.Machine
end

