-- ==== Sys2Proof/Laws/Moves.lean ====
section
/-! SUPPORT. What an operation over the state can do, said once. A `Move` is the replacement of one record, queue or counter,
with what the replacement never breaks; `Moves l` is any number of them, none outside the pieces `l`. One lemma for each shared
operation says which moves it is made of (Sys2Proof.Laws.Operations); from it follow both what the operation leaves unchanged and
what it keeps. -/

namespace Sys2Proof.Machine

set_option Elab.async false

/-- R13: a job with the spool fields of another. -/
structure Job.Spooled (j k : Job) : Prop where
  tag : j.tag = k.tag
  chain : j.chain = k.chain
  received : j.received = k.received
  declared : j.declared = k.declared

/-- One replacement in the state, with the pieces that it may change. -/
inductive Move : List Piece → State → State → Prop
  | account (s : State) (k : Nat) (a : Account) (h : (s.account k).Sound → a.Sound) : Move [.accounts] s (s.setAccount k a)
  | accountsAll (s : State) (f : Account → Account) (h : ∀ a, a.Sound → (f a).Sound) :
      Move [.accounts] s { s with accounts := s.accounts.mapAll Account.factory f }
  | printer (s : State) (p : Nat) (e : Printer) (h : (s.printer p).HealthSound → e.HealthSound)
      (hq : (s.printer p).queue.length ≤ 8 → e.queue.length ≤ 8) : Move [.printers] s (s.setPrinter p e)
  | printersAll (s : State) (f : Printer → Printer) (h : ∀ e : Printer, e.HealthSound → (f e).HealthSound)
      (hq : ∀ e : Printer, (f e).queue = e.queue := by intro _; rfl) :
      Move [.printers] s { s with printers := s.printers.mapAll printerFactory f }
  | callout (s : State) (i : Nat) (c : Option Callout) : Move [.callouts] s (s.setCallout i c)
  | calloutsAll (s : State) (f : Option Callout → Option Callout) :
      Move [.callouts] s { s with callouts := s.callouts.mapAll none f }
  | reorder (s : State) (i : Nat) (r : Option Reorder) : Move [.reorders] s (s.setReorder i r)
  | job (s : State) (g : Nat) (f : Job → Job) (h : ∀ j, (f j).Spooled j ∧ (f j).promise = j.promise ∧
      ((f j).state = .receiving → j.state = .receiving)) : Move [.jobRecords] s (s.updJob g f)
  | extend (s : State) (j : Job) (n : Nat) (hj : s.job j.tag = some j) (hs : j.state = .receiving)
      (hd : j.received + n ≤ j.declared) (hn : n ≤ 1400) :
      Move [.freeSegments, .promises, .jobRecords] s (s.extendJob j n)
  | keep (s : State) (j : Job) (f : Job → Job) (hj : s.job j.tag = some j)
      (h : ∀ x, (f x).Spooled x ∧ (f x).promise = 0 ∧ (f x).state ≠ .receiving) :
      Move [.promises, .jobRecords] s
        (({ s with spool := { s.spool with promises := s.spool.promises - j.promise } } : State).updJob j.tag f)
  | drop (s : State) (j : Job) (h : s.job j.tag = some j) :
      Move [.freeSegments, .promises, .jobRecords] s ((s.freeSpool j).dropJob j.tag)
  | record (s : State) (j : Job) (hc : j.chain = [] ∧ j.received = 0 ∧ j.state = .receiving ∧ j.promise = ceilDiv j.declared 4096)
      (hf : s.job j.tag = none) (hr : 1 ≤ j.tag ∧ j.tag ≤ 65535) (hn : s.jobs.recs.length < 1024)
      (hp : j.promise ≤ s.spool.headroom) :
      Move [.jobRecords, .tagAllocator, .promises] s
        { s with
          jobs := { s.jobs with recs := s.jobs.recs ++ [j], lastTag := j.tag }
          spool := { s.spool with promises := s.spool.promises + j.promise } }
  | holdSequence (s : State) (n : Nat) (h : s.jobs.holdSeq ≤ 4294967295 → n ≤ 4294967295) :
      Move [.holdSequence] s { s with jobs := { s.jobs with holdSeq := n } }
  | contexts (s : State) (c : List (Option Context)) (h : c.length = s.jobs.contexts.length) :
      Move [.contexts] s { s with jobs := { s.jobs with contexts := c } }
  | outgoing (s : State) (l : List OwnMsg) (h : s.jobs.outgoing.length ≤ 4096 → l.length ≤ 4096) :
      Move [.outgoing] s { s with jobs := { s.jobs with outgoing := l } }
  | spoolLow (s : State) (b : Bool) : Move [.spoolLow] s { s with spool := { s.spool with low := b } }
  | spoolBytes (s : State) (m : List Host.Cell) (h : memWf s.spool.mem = true → memWf m = true) :
      Move [.spoolBytes] s { s with spool := { s.spool with mem := m } }
  | classifier (s : State) (i : Nat) (e : ClassEntry) :
      Move [.classifier] s { s with classifier := s.classifier.put ClassEntry.factory i e }
  | default (s : State) (e : ClassEntry) : Move [.classifier] s { s with dflt := e }
  | tariff (s : State) (x : Tariff)
      (h : Tbl.wf Row.factory s.tariff.active = true → Tbl.wf Row.factory s.tariff.pending = true →
        Tbl.wf Row.factory x.active = true ∧ Tbl.wf Row.factory x.pending = true) :
      Move [.tariff] s { s with tariff := x }
  | answer (s : State) (m : Option OwnMsg) : Move [.answer] s { s with answer := m }
  | printerTurn (s : State) (p : Nat) (h : p ≤ 63) : Move [.printerTurn] s { s with lastPrinter := p }
  | clock (s : State) (c : Clock) (hu : s.clock.uptime ≤ 4294967295 → c.uptime ≤ 4294967295)
      (hi : c.idle = s.clock.idle) (hk : s.clock.kept.length ≤ 8 → c.kept.length ≤ 8 := by exact id) :
      Move [.clock] s { s with clock := c }
  | idleTimer (s : State) (x : Timer) : Move [.idleTimer] s { s with clock := { s.clock with idle := x } }
  | settings (s : State) (x : Settings) : Move [.settings] s { s with settings := x }
  | slots (s : State) (x : Tbl Slot) (h : s.store.SlotsCanonical → ({ s.store with slots := x } : Store).SlotsCanonical) :
      Move [.slots] s { s with store := { s.store with slots := x } }
  | dirty (s : State) (x : List Nat) (h : s.store.dirty.Pairwise (· < ·) → x.Pairwise (· < ·)) :
      Move [.storeWriting] s { s with store := { s.store with dirty := x } }
  | called (s : State) (x : List Nat) : Move [.storeWriting] s { s with store := { s.store with called := x } }
  | queue (s : State) (x : List Nat) (hl : s.store.queue.length ≤ 64 → x.length ≤ 64)
      (hn : s.store.queue.Nodup → x.Nodup) : Move [.storeWriting] s { s with store := { s.store with queue := x } }
  | underWay (s : State) (x : Option (Nat × Image)) :
      Move [.storeWriting] s { s with store := { s.store with underWay := x } }
  | checkpointTimer (s : State) (x : Timer) :
      Move [.checkpointTimer] s { s with store := { s.store with checkpoint := x } }
  | resetRecord (s : State) (x : ResetRecord) : Move [.resetRecord] s { s with store := { s.store with reset := x } }
  | restartPending (s : State) (b : Bool) : Move [.restartPending] s { s with restartPending := b }
  | reply (s : State) (m : Option OwnMsg) : Move [.reply] s { s with console := { s.console with reply := m } }
  | notices (s : State) (l : List QueuedNotice) (h : s.console.notices.length ≤ 16 → l.length ≤ 16) :
      Move [.notices] s { s with console := { s.console with notices := l } }
  | sticky (s : State) (a b c : Bool) :
      Move [.sticky] s
        { s with console := { s.console with storeRestored := a, noticeOverflow := b, strayStation := c } }
  | officeOwn (s : State) (m : OwnMsg) (h : s.oport.room = true) :
      Move [.officeOwn] s { s with oport := s.oport.place m }
  | officePort (s : State) (q : PortState) (ho : s.oport.own.length ≤ 32 → q.own.length ≤ 32)
      (hp : s.oport.passHeld ≤ 65536 → q.passHeld ≤ 65536) (ht : s.oport.served ≤ 2 → q.served ≤ 2) :
      Move [.officeOwn, .officeOther] s { s with oport := q }
  | fleetOwn (s : State) (m : OwnMsg) (h : s.fport.room = true) :
      Move [.fleetOwn] s { s with fport := s.fport.place m }
  | fleetPort (s : State) (q : PortState) (ho : s.fport.own.length ≤ 32 → q.own.length ≤ 32)
      (hp : s.fport.passHeld ≤ 65536 → q.passHeld ≤ 65536) (ht : s.fport.served ≤ 1 → q.served ≤ 1) :
      Move [.fleetOwn, .fleetOther] s { s with fport := q }
  | freeCount (s : State) (n : Nat) : Move [.freeCount] s { s with freeCount := n }

/-- Any number of moves, none outside the pieces `l`. -/
inductive Moves (l : List Piece) : State → State → Prop
  | refl (s : State) : Moves l s s
  | tail {s t u : State} {m : List Piece} (h : Moves l s t) (x : Move m t u) (hm : ∀ p ∈ m, p ∈ l) : Moves l s u

namespace Moves

variable {l m : List Piece} {s t u : State}

theorem one (x : Move m s t) : Moves m s t := (refl s).tail x fun _ h => h

theorem mono (h : Moves m s t) (hm : ∀ p ∈ m, p ∈ l := by decide) : Moves l s t := by
  induction h with
  | refl => exact refl s
  | tail _ x hx ih => exact ih.tail x fun p hp => hm p (hx p hp)

theorem trans (h : Moves l s t) (h' : Moves l t u) : Moves l s u := by
  induction h' with
  | refl => exact h
  | tail _ x hx ih => exact ih.tail x hx

/-- Moves followed by moves within fewer pieces. -/
theorem next (h : Moves l s t) (h' : Moves m t u) (hm : ∀ p ∈ m, p ∈ l := by decide) : Moves l s u := h.trans (h'.mono hm)

/-- An operation repeated along a list. -/
theorem foldl {α : Type} (f : State → α → State) (hf : ∀ s x, Moves l s (f s x)) (xs : List α) (s : State) :
    Moves l s (xs.foldl f s) := by
  induction xs generalizing s with
  | nil => exact refl s
  | cons x xs ih => exact (hf s x).trans (ih _)

end Moves

/-! ### What moves leave unchanged -/

theorem Piece.same_refl (x : Piece) (s : State) : x.same s s := by cases x <;> simp [Piece.same]

theorem Piece.same_trans {x : Piece} {s t u : State} (h : x.same s t) (h' : x.same t u) : x.same s u := by
  cases x <;> simp only [Piece.same] at h h' ⊢ <;> simp_all

theorem ChangesOnly.refl (l : List Piece) (s : State) : ChangesOnly l s s := fun x _ => x.same_refl s

theorem ChangesOnly.trans {l : List Piece} {s t u : State} (h : ChangesOnly l s t) (h' : ChangesOnly l t u) :
    ChangesOnly l s u := fun x hx => Piece.same_trans (h x hx) (h' x hx)

theorem ChangesOnly.mono {l m : List Piece} {s t : State} (h : ChangesOnly m s t) (hm : ∀ p ∈ m, p ∈ l) :
    ChangesOnly l s t := fun x hx => h x fun hxm => hx (hm x hxm)

/-- R13: what taking a job's data changes outside spool memory. -/
theorem State.extendJob_eq (s : State) (j : Job) (n : Nat) :
    ∃ free promises recs, s.extendJob j n =
      { s with spool := { s.spool with free := free, promises := promises }, jobs := { s.jobs with recs := recs } } := by
  unfold State.extendJob State.takeSegment
  split
  · split <;> exact ⟨_, _, _, rfl⟩
  · exact ⟨_, _, _, rfl⟩

theorem State.extendJob_frame (s : State) (j : Job) (n : Nat) : (s.extendJob j n).phase = s.phase ∧
    (s.extendJob j n).pending = s.pending ∧ (s.extendJob j n).oport = s.oport ∧ (s.extendJob j n).fport = s.fport := by
  obtain ⟨f, m, r, e⟩ := s.extendJob_eq j n
  rw [e]; exact ⟨rfl, rfl, rfl, rfl⟩

/-- A move changes no other piece. -/
theorem Move.changesOnly {l : List Piece} {s t : State} (h : Move l s t) : ChangesOnly l s t := by
  intro x hx
  cases h
  case extend j n _ _ _ _ =>
    obtain ⟨f, m, r, e⟩ := s.extendJob_eq j n
    rw [e]
    cases x <;>
      first | exact rfl | exact ⟨rfl, rfl⟩ | exact ⟨rfl, rfl, rfl⟩ | exact ⟨rfl, rfl, rfl, rfl⟩ | exact absurd (by simp) hx
  case clock c hu hi _ => cases x <;> first | exact hi | exact rfl | exact ⟨rfl, rfl⟩ | exact ⟨rfl, rfl, rfl⟩ | exact ⟨rfl, rfl, rfl, rfl⟩ | exact absurd (by simp) hx
  all_goals
    cases x <;> first | exact rfl | exact ⟨rfl, rfl⟩ | exact ⟨rfl, rfl, rfl⟩ | exact ⟨rfl, rfl, rfl, rfl⟩ | exact absurd (by simp) hx

/-- Moves within `l` change no piece outside it. -/
theorem Moves.changesOnly {l : List Piece} {s t : State} (h : Moves l s t) : ChangesOnly l s t := by
  induction h with
  | refl => exact ChangesOnly.refl l s
  | tail _ x hx ih => exact ih.trans (x.changesOnly.mono hx)

/-- Moves that do not reach the outgoing list leave its room as it is. -/
theorem Moves.outgoing_room {l : List Piece} {s t : State} (h : Moves l s t) (hr : s.jobs.outgoing.length < 4096)
    (hl : Piece.outgoing ∉ l := by decide) : t.jobs.outgoing.length < 4096 :=
  (congrArg List.length (h.changesOnly .outgoing hl)).trans_lt hr

/-- Moves leave the phase and the queue of commands as they are. -/
theorem Moves.phase_pending {l : List Piece} {s t : State} (h : Moves l s t) : t.phase = s.phase ∧ t.pending = s.pending := by
  induction h with
  | refl => exact ⟨rfl, rfl⟩
  | tail _ x _ ih =>
    rw [← ih.1, ← ih.2]
    cases x
    case extend => exact ⟨(State.extendJob_frame _ _ _).1, (State.extendJob_frame _ _ _).2.1⟩
    all_goals exact ⟨rfl, rfl⟩

/-- Only what concerns the whole port takes a message out of the O-port Own-frame Queue. -/
theorem Moves.officeOwn_grows {l : List Piece} {s t : State} (h : Moves l s t) (hl : Piece.officeOther ∉ l := by decide) :
    ∃ x, t.oport.own = s.oport.own ++ x := by
  induction h with
  | refl => exact ⟨[], (List.append_nil _).symm⟩
  | tail _ x hx ih =>
    obtain ⟨y, hy⟩ := ih
    cases x
    case officeOwn m _ => exact ⟨y ++ [m], by simp [PortState.place, hy]⟩
    case officePort => exact absurd (hx .officeOther (by simp)) hl
    case extend => exact ⟨y, (congrArg PortState.own (State.extendJob_frame _ _ _).2.2.1).trans hy⟩
    all_goals exact ⟨y, hy⟩

/-- Only what concerns the whole port takes a message out of the F-port Own-frame Queue. -/
theorem Moves.fleetOwn_grows {l : List Piece} {s t : State} (h : Moves l s t) (hl : Piece.fleetOther ∉ l := by decide) :
    ∃ x, t.fport.own = s.fport.own ++ x := by
  induction h with
  | refl => exact ⟨[], (List.append_nil _).symm⟩
  | tail _ x hx ih =>
    obtain ⟨y, hy⟩ := ih
    cases x
    case fleetOwn m _ => exact ⟨y ++ [m], by simp [PortState.place, hy]⟩
    case fleetPort => exact absurd (hx .fleetOther (by simp)) hl
    case extend => exact ⟨y, (congrArg PortState.own (State.extendJob_frame _ _ _).2.2.2).trans hy⟩
    all_goals exact ⟨y, hy⟩

end Sys2Proof.Machine
end

