-- ==== Sys2Proof/Laws/Operations.lean ====
section
/-! SUPPORT. For each shared operation, the moves it is made of: everything it can do. -/

namespace Sys2Proof.Machine

set_option Elab.async false

open Moves

variable (s : State)

/-! ### Messages and notices (Ops) -/

theorem PortState.length_place {q : PortState} {m : OwnMsg} (h : q.room = true) (_ : q.own.length ≤ 32) :
    (q.own ++ [m]).length ≤ 32 := by
  have : q.own.length < 32 := of_decide_eq_true h
  simpa using this

theorem Move.placeOffice (m : OwnMsg) (h : s.oport.room = true) :
    Move [.officeOwn] s { s with oport := s.oport.place m } := .officeOwn s m h

theorem Move.placeFleet (m : OwnMsg) (h : s.fport.room = true) :
    Move [.fleetOwn] s { s with fport := s.fport.place m } := .fleetOwn s m h

theorem State.jobSend_moves (m : OwnMsg) (hr : s.jobs.outgoing.length < 4096) : Moves jobTraffic s (s.jobSend m) := by
  unfold State.jobSend
  split
  next h => exact (one (.placeOffice s m (by simp_all))).mono
  next => exact (one (.outgoing s _ fun _ => by simpa using hr)).mono

theorem State.jobStatus_moves (j : Job) (e : JobEvent) (p : Option Nat) (r : Option EndReason) (c : Option Nat) :
    Moves jobTraffic s (s.jobStatus j e p r c) := by
  unfold State.jobStatus
  split
  next h => exact s.jobSend_moves _ h
  next => exact refl s

theorem State.jobReply_moves (h : Hdr) (g : Nat) (r : Result) (n : Nat) (hr : s.jobs.outgoing.length < 4096) :
    Moves jobTraffic s (s.jobReply h g r n) :=
  s.jobSend_moves _ hr

theorem State.sendAnswer_moves (m : OwnMsg) : Moves [.fleetOwn, .answer] s (s.sendAnswer m) := by
  unfold State.sendAnswer
  split
  next h => exact (one (.placeFleet s m h)).mono
  next => exact (one (.answer s _)).mono

theorem State.sendReply_moves (m : OwnMsg) : Moves [.officeOwn, .reply] s (s.sendReply m) := by
  unfold State.sendReply
  split
  next h => exact (one (.placeOffice s m h)).mono
  next => exact (one (.reply s _)).mono

theorem State.offer_moves (q : QueuedNotice) : Moves noticeTraffic s (s.offer q) := by
  unfold State.offer
  split
  next h => exact (one (.placeOffice s _ (by simp_all))).mono
  next =>
    split
    next h =>
      have h : s.console.notices.length < 16 := h
      exact (one (.notices s _ (by intro; simpa using h))).mono
    next => exact (one (.sticky s _ true _)).mono

theorem State.notify_moves (n : Notice) : Moves noticeTraffic s (s.notify n) := by
  unfold State.notify
  split
  · exact s.offer_moves _
  · exact refl s

theorem State.spoolLowTest_moves : Moves (.spoolLow :: noticeTraffic) s s.spoolLowTest := by
  unfold State.spoolLowTest
  split
  · exact refl s
  · exact ((one (.spoolLow s _)).mono).next (State.notify_moves _ _)

/-! ### The Persistent Store's marks and queue (Ops, Persist) -/

theorem State.enqueue_moves (n : Nat) : Moves [.storeWriting] s (s.enqueue n) := by
  unfold State.enqueue
  split
  next h =>
    simp only [Bool.and_eq_true, Bool.not_eq_true', decide_eq_true_eq] at h
    have hlt : s.store.queue.length < 64 := h.2
    refine one (.queue s _ (fun _ => by simpa using hlt) fun hn => ?_)
    have hnot : n ∉ s.store.queue := by simpa using h.1.2
    refine List.nodup_append.2 ⟨hn, List.nodup_singleton n, fun a ha b hb => ?_⟩
    rintro rfl
    exact hnot (by simpa [List.mem_singleton.1 hb] using ha)
  next => exact refl s

theorem State.fillQueue_moves : Moves [.storeWriting] s s.fillQueue := Moves.foldl _ (fun s n => s.enqueue_moves n) _ _

theorem mem_insertSlot (n m : Nat) (l : List Nat) : m ∈ insertSlot n l ↔ m = n ∨ m ∈ l := by
  induction l with
  | nil => simp [insertSlot]
  | cons k l ih =>
    unfold insertSlot
    split
    · simp
    · split
      next h => subst h; simp
      · simp only [List.mem_cons, ih]; tauto

/-- A slot number inserted into a rising list leaves it rising. -/
theorem insertSlot_rising (n : Nat) {l : List Nat} (h : l.Pairwise (· < ·)) : (insertSlot n l).Pairwise (· < ·) := by
  induction l with
  | nil => simp [insertSlot]
  | cons k t ih =>
    rw [List.pairwise_cons] at h
    unfold insertSlot
    split
    · exact List.pairwise_cons.2 ⟨fun m hm => (List.mem_cons.1 hm).elim (fun e => e ▸ ‹n < k›) fun ht =>
        Nat.lt_trans ‹n < k› (h.1 m ht), List.pairwise_cons.2 h⟩
    · split
      · exact List.pairwise_cons.2 h
      · refine List.pairwise_cons.2 ⟨fun m hm => ?_, ih h.2⟩
        rcases (mem_insertSlot n m t).1 hm with rfl | ht
        · omega
        · exact h.1 m ht

theorem State.mark_printers (n : Nat) : (s.mark n).printers = s.printers := by
  unfold State.mark State.enqueue; split <;> rfl

theorem State.mark_moves (n : Nat) : Moves [.storeWriting] s (s.mark n) :=
  (one (.dirty s _ (insertSlot_rising n))).trans (State.enqueue_moves _ _)

theorem State.markAll_moves (ns : List Nat) : Moves [.storeWriting] s (s.markAll ns) :=
  Moves.foldl _ (fun s n => s.mark_moves n) _ _

theorem State.unmark_moves (n : Nat) : Moves [.storeWriting] s (s.unmark n) :=
  (((one (.dirty s (s.store.dirty.filter (· ≠ n)) fun h => h.filter _)).trans (one (.called _ (s.store.called.filter (· ≠ n))))).trans
    (one (.queue _ (s.store.queue.filter (· ≠ n)) (fun h => (List.length_filter_le _ _).trans h)
      fun h => h.filter _))).trans (State.fillQueue_moves _)

theorem State.checkpointOccasion_moves : Moves [.storeWriting] s s.checkpointOccasion :=
  (one (.called s _)).trans (State.fillQueue_moves _)

theorem State.beginProgram_moves : Moves [.storeWriting] s s.beginProgram := by
  unfold State.beginProgram
  split
  next n rest hu hq =>
    refine Moves.trans ?_ (State.fillQueue_moves _)
    exact (((one (.queue s rest (fun h => by rw [hq, List.length_cons] at h; omega)
      fun h => by rw [hq] at h; exact h.of_cons)).trans
      (one (.underWay _ (some (n, s.image n))))).trans (one (.dirty _ (s.store.dirty.filter (· ≠ n)) fun h => h.filter _))).trans
      (one (.called _ (s.store.called.filter (· ≠ n))))
  next => exact refl s

theorem State.idleService_moves : Moves [.idleTimer] s s.idleService := by
  unfold State.idleService
  split
  · split
    · exact refl s
    · exact one (.idleTimer s _)
  · exact one (.idleTimer s _)

/-- The end of every step (R158, R167). -/
theorem State.finish_moves : Moves endOfStep s s.finish :=
  (s.beginProgram_moves.mono).next (State.idleService_moves _)

/-! ### Accounts (Flags, Tariff, Accounts) -/

theorem Account.sound_evaluated (a : Account) (h : a.reserved ≤ 16777215) :
    ({ a with overdrawn := overdrawnFlag a.cfg.budget a.spent } : Account).Sound := ⟨rfl, h⟩

theorem State.evalOverdrawn_moves (k : Nat) (h : (s.account k).reserved ≤ 16777215 ∨ (s.account k).Sound) :
    Moves (.accounts :: noticeTraffic) s (s.evalOverdrawn k) := by
  unfold State.evalOverdrawn
  have h1 : Moves (.accounts :: noticeTraffic) s
      (s.setAccount k { s.account k with overdrawn := overdrawnFlag (s.account k).cfg.budget (s.account k).spent }) :=
    (one (.account s k _ fun _ => Account.sound_evaluated _ (h.elim id Account.Sound.reserved))).mono
  dsimp only
  split
  · exact h1.next (State.notify_moves _ _)
  · exact h1

theorem State.setAccount_setAccount (k : Nat) (a b : Account) : (s.setAccount k a).setAccount k b = s.setAccount k b := by
  simp [State.setAccount, Tbl.put_put]

/-- An account changed and then evaluated (R35). -/
theorem State.changed_moves (k : Nat) (a : Account) (h : (s.account k).Sound → a.reserved ≤ 16777215) :
    Moves (.accounts :: noticeTraffic) s ((s.setAccount k a).evalOverdrawn k) := by
  unfold State.evalOverdrawn
  simp only [State.account_setAccount, if_true, State.setAccount_setAccount]
  have h1 : Moves (.accounts :: noticeTraffic) s
      (s.setAccount k { a with overdrawn := overdrawnFlag a.cfg.budget a.spent }) :=
    (one (.account s k _ fun ha => Account.sound_evaluated _ (h ha))).mono
  split
  · exact h1.next (State.notify_moves _ _)
  · exact h1

theorem State.setBalance_moves (k : Nat) (a : Account) (h : (s.account k).Sound → a.Sound) :
    Moves [.accounts, .storeWriting] s (s.setBalance k a) :=
  ((one (.account s k a h)).mono).next (State.mark_moves _ _)

theorem State.pinMismatch_moves (k : Nat) :
    Moves ([.accounts, .storeWriting] ++ noticeTraffic) s (s.pinMismatch k) := by
  unfold State.pinMismatch
  have h1 := fun n x => s.setBalance_moves k { s.account k with failures := n, state := x } fun h => ⟨h.1, h.2⟩
  dsimp only
  split
  · exact (h1 _ _).mono
  · exact ((h1 _ _).mono).next (State.notify_moves _ _)

theorem State.authenticate_moves (b : AskBody) :
    Moves ([.accounts, .storeWriting] ++ noticeTraffic) s (s.authenticate b).1 := by
  unfold State.authenticate
  split
  · exact refl s
  · dsimp only
    split
    · exact refl s
    · split
      · exact refl s
      · split
        · exact refl s
        · split
          · have h1 := fun k => s.setBalance_moves k { s.account k with failures := 0 } fun h => ⟨h.1, h.2⟩
            dsimp only
            split
            · exact refl s
            · exact (h1 _).mono
          · exact s.pinMismatch_moves _

theorem State.reserve_moves {k c : Nat} {t : State} (h : s.reserve k c = some t) : Moves [.accounts] s t := by
  unfold State.reserve at h
  dsimp only at h
  split at h
  next hc =>
    obtain rfl := Option.some.inj h
    have : (s.account k).reserved + c ≤ 16777215 := of_decide_eq_true (Bool.and_eq_true _ _ ▸ hc).2
    exact one (.account s k { s.account k with reserved := (s.account k).reserved + c } fun ha => ⟨ha.1, this⟩)
  next => simp at h

theorem State.unreserve_moves (k n : Nat) : Moves [.accounts] s (s.unreserve k n) :=
  one (.account s k { s.account k with reserved := (s.account k).reserved - n } fun h =>
    ⟨h.1, (Nat.sub_le _ _).trans h.2⟩)

theorem State.settle_moves (k r n : Nat) :
    Moves ([.accounts, .storeWriting] ++ noticeTraffic) s (s.settle k r n) := by
  unfold State.settle
  have h1 := s.changed_moves k { s.account k with
    reserved := (s.account k).reserved - r, spent := min Config.maxPoints ((s.account k).spent + n) }
    fun h => (Nat.sub_le _ _).trans h.2
  exact (h1.mono).next (State.mark_moves _ _)

theorem State.held_moves (k : Nat) (l : List Nat) :
    Moves [.accounts] s (s.setAccount k { s.account k with held := l }) :=
  one (.account s k { s.account k with held := l } fun h => ⟨h.1, h.2⟩)

theorem State.unhold_moves (k g : Nat) : Moves [.accounts] s (s.unhold k g) := s.held_moves k _

theorem State.setNextRoll_moves (d : Nat) : Moves [.settings, .storeWriting] s (s.setNextRoll d) := by
  unfold State.setNextRoll
  split
  · exact refl s
  · exact ((one (.settings s _)).mono).next (State.mark_moves _ _)

theorem State.bankSwap_moves : Moves [.tariff, .storeWriting] s s.bankSwap := by
  unfold State.bankSwap
  have h1 := one (.tariff s { s.tariff with active := s.tariff.pending, written := false } fun _ h => ⟨h, h⟩)
  split
  · exact (h1.mono).next (State.markAll_moves _ _)
  · exact refl s

theorem State.writePending_moves (i : Nat) (r : Row) : Moves [.tariff, .storeWriting] s (s.writePending i r) := by
  have h1 := one (.tariff s { s.tariff with pending := s.tariff.pending.put Row.factory i (Row.stored r), written := true }
    fun ha hp => ⟨ha, Tbl.wf_put _ _ hp⟩)
  exact (h1.mono).next (State.mark_moves _ _)

theorem Account.sound_rolled (a : Account) (h : a.Sound) : a.rolled.Sound := by
  unfold Account.rolled
  split
  · refine ⟨?_, h.2⟩
    simp only [overdrawnFlag]
    split <;> simp
  · exact h

/-- The pieces a period roll reaches (R40). -/
def rollPieces : List Piece := [.accounts, .tariff, .settings, .storeWriting] ++ noticeTraffic

theorem State.periodRoll_moves (d : Nat) (b : Bool) : Moves rollPieces s (s.periodRoll d b) := by
  unfold State.periodRoll
  have h1 : Moves rollPieces s { s with accounts := s.accounts.mapAll Account.factory Account.rolled } :=
    (one (.accountsAll s _ Account.sound_rolled)).mono
  have h2 := h1.next (State.bankSwap_moves _)
  have h3 := fun (t : State) l => (((t.markAll_moves l).next (State.checkpointOccasion_moves _)).mono
    (l := rollPieces)).next (State.setNextRoll_moves _ d)
  dsimp only
  split
  · exact (h2.trans (h3 _ _)).next (State.notify_moves _ _)
  · exact h2.trans (h3 _ _)

/-! ### Supplies -/

theorem PrinterOf.health_setSupply (e : Printer) (col : Colorant) (r : Option Supply) :
    (e.setSupply col r).score = e.score ∧ (e.setSupply col r).health = e.health := by cases col <;> exact ⟨rfl, rfl⟩

theorem PrinterOf.queue_setSupply (e : Printer) (col : Colorant) (r : Option Supply) :
    (e.setSupply col r).queue = e.queue := by cases col <;> rfl

theorem PrinterOf.HealthSound.of_eq {e e' : Printer} (h : e.HealthSound) (hs : e'.score = e.score)
    (hh : e'.health = e.health) : e'.HealthSound := ⟨hs ▸ h.1, by rw [hs, hh]; exact h.2⟩

/-- A change of a printer that leaves its score and health, and makes its Delivery Queue no longer. -/
theorem State.updPrinter_moves (p : Nat) (f : Printer → Printer)
    (h : ∀ e, (f e).score = e.score ∧ (f e).health = e.health := by intro _; exact ⟨rfl, rfl⟩)
    (hq : ∀ e, (f e).queue.length ≤ e.queue.length := by intro _; exact Nat.le_refl _) :
    Moves [.printers] s (s.updPrinter p f) :=
  one (.printer s p _ (fun hs => hs.of_eq (h _).1 (h _).2) (hq _).trans)

/-- A change of a printer after which its health is that of its score. -/
theorem State.updPrinter_moves_sound (p : Nat) (f : Printer → Printer)
    (h : (s.printer p).HealthSound → (f (s.printer p)).HealthSound)
    (hq : (f (s.printer p)).queue = (s.printer p).queue := by rfl) : Moves [.printers] s (s.updPrinter p f) :=
  one (.printer s p _ h fun hl => by rw [hq]; exact hl)

/-- A change of an account that keeps it sound. -/
theorem State.setAccount_moves (k : Nat) (a : Account) (h : (s.account k).Sound → a.Sound) :
    Moves [.accounts] s (s.setAccount k a) := one (.account s k a h)

theorem State.putSupply_moves (p : Nat) (col : Colorant) (r : Option Supply) : Moves [.printers] s (s.putSupply p col r) :=
  s.updPrinter_moves p _ (fun e => PrinterOf.health_setSupply e col r) fun e => by rw [PrinterOf.queue_setSupply]

theorem State.setSupply_moves (p : Nat) (col : Colorant) (r : Supply) :
    Moves [.printers, .storeWriting] s (s.setSupply p col r) := by
  unfold State.setSupply
  dsimp only
  split
  · exact (s.putSupply_moves p col _).mono
  · exact ((s.putSupply_moves p col _).mono).next (State.mark_moves _ _)

theorem State.openReorder_moves (p : Nat) (col : Colorant) (i : Nat) : Moves supplyPieces s (s.openReorder p col i) := by
  unfold State.openReorder
  split
  · exact refl s
  · exact ((((one (.reorder s i _)).mono).next (State.mark_moves _ _)).next (State.setSupply_moves _ _ _ _)).next
      (State.notify_moves _ _)

theorem State.closeReorder_moves (i : Nat) (d : ReorderDetail) : Moves supplyPieces s (s.closeReorder i d) := by
  unfold State.closeReorder
  split
  · exact refl s
  · exact (((one (.reorder s i none)).mono).next (State.mark_moves _ _)).next (State.notify_moves _ _)

theorem State.offerReorder_moves (i : Nat) : Moves supplyPieces s (s.offerReorder i) := by
  unfold State.offerReorder
  split
  · exact refl s
  · exact s.openReorder_moves _ _ _

theorem State.reorderTest_moves (p : Nat) (col : Colorant) : Moves supplyPieces s (s.reorderTest p col) := by
  unfold State.reorderTest
  split
  · exact refl s
  · split
    · split
      · exact s.openReorder_moves _ _ _
      · exact (s.putSupply_moves _ _ _).mono
    · exact (s.putSupply_moves _ _ _).mono

theorem State.reorderTests_moves (p : Nat) : Moves supplyPieces s (s.reorderTests p) :=
  Moves.foldl _ (fun s col => s.reorderTest_moves p col) _ _

theorem State.cartridgeChange_moves (p : Nat) (col : Colorant) : Moves supplyPieces s (s.cartridgeChange p col) := by
  unfold State.cartridgeChange
  split
  · exact refl s
  · dsimp only
    split
    · exact (s.setSupply_moves _ _ _).mono
    · exact (((s.setSupply_moves _ _ _).mono).next (State.closeReorder_moves _ _ _)).next (State.offerReorder_moves _ _)

theorem State.takeReport_moves (p : Nat) (r : ColorantReport) : Moves supplyPieces s (s.takeReport p r) := by
  unfold State.takeReport
  split
  · exact refl s
  · dsimp only
    split
    · exact (s.setSupply_moves _ _ _).mono
    · split
      · exact (s.setSupply_moves _ _ _).mono
      · exact ((s.setSupply_moves _ _ _).mono).next (State.cartridgeChange_moves _ _ _)

theorem State.takeReports_moves (p : Nat) (l : List ColorantReport) : Moves supplyPieces s (s.takeReports p l) :=
  (Moves.foldl _ (fun s col => Moves.foldl _ (fun s r => s.takeReport_moves p r) _ s) _ s).trans
    (State.reorderTests_moves _ _)

theorem State.countFaces_moves (p : Nat) (col : Colorant) (n : Nat) :
    Moves [.printers, .storeWriting] s (s.countFaces p col n) := by
  unfold State.countFaces
  split
  · exact refl s
  · dsimp only
    split
    · exact (s.putSupply_moves _ _ _).mono
    · exact ((s.putSupply_moves _ _ _).mono).next (State.mark_moves _ _)

theorem State.supplyFaces_moves (p m c : Nat) : Moves [.printers, .storeWriting] s (s.supplyFaces p m c) :=
  (((s.countFaces_moves _ _ _).trans (State.countFaces_moves _ _ _ _)).trans (State.countFaces_moves _ _ _ _)).trans
    (State.countFaces_moves _ _ _ _)

theorem State.averageUsage_moves (p : Nat) (col : Colorant) : Moves [.printers, .storeWriting] s (s.averageUsage p col) := by
  unfold State.averageUsage
  split
  · exact refl s
  · exact s.setSupply_moves _ _ _

theorem State.renotifyReorder_moves (i : Nat) : Moves noticeTraffic s (s.renotifyReorder i) := by
  unfold State.renotifyReorder
  split
  · exact refl s
  · split
    · exact refl s
    · exact s.notify_moves _

theorem State.dayRoll_moves : Moves supplyPieces s s.dayRoll := by
  unfold State.dayRoll
  have h1 : Moves supplyPieces s (s.configured.foldl (fun t p => colorants.foldl (fun u col => u.averageUsage p col) t) s) :=
    (Moves.foldl _ (fun s p => Moves.foldl _ (fun s col => s.averageUsage_moves p col) _ s) _ s).mono
  exact (h1.next (Moves.foldl _ (fun s i => s.renotifyReorder_moves i) _ _)).next
    (Moves.foldl _ (fun s p => s.reorderTests_moves p) _ _)

theorem State.createSupply_moves (p : Nat) (col : Colorant) (f : SupplyFields) :
    Moves [.printers, .storeWriting] s (s.createSupply p col f) :=
  ((s.putSupply_moves _ _ _).mono).next (State.mark_moves _ _)

theorem State.removeSupplies_moves (p : Nat) (cs : List Colorant) (w : CloseReason) :
    Moves supplyPieces s (s.removeSupplies p cs w) := by
  unfold State.removeSupplies
  have h1 := fun l => Moves.foldl (fun (t : State) i => t.closeReorder i (.closed w)) (fun s i => s.closeReorder_moves i _) l s
  have h2 := Moves.foldl (l := supplyPieces) (fun (t : State) col => (t.putSupply p col none).unmark (colorantSlot p col))
    (fun s col => ((s.putSupply_moves p col none).mono).next (State.unmark_moves _ _)) cs
  have h3 := Moves.foldl State.offerReorder (fun s i => s.offerReorder_moves i)
  exact ((h1 _).trans (h2 _)).trans (h3 _ _)

/-! ### Callouts -/

theorem State.setOwed_moves (p : Nat) (o : Option (CalloutKind × CalloutCause)) : Moves [.printers] s (s.setOwed p o) :=
  s.updPrinter_moves p _

theorem State.openCallout_moves (p : Nat) (k : CalloutKind) (c : CalloutCause) (i : Nat) :
    Moves calloutPieces s (s.openCallout p k c i) :=
  ((((one (.callout s i _)).mono).next (State.setOwed_moves _ _ _)).next (State.mark_moves _ _)).next
    (State.notify_moves _ _)

theorem State.raiseCallout_moves (p : Nat) (k : CalloutKind) (c : CalloutCause) :
    Moves calloutPieces s (s.raiseCallout p k c) := by
  unfold State.raiseCallout
  split
  · split
    · split
      · exact (((one (.callout s _ _)).mono).next (State.mark_moves _ _)).next (State.notify_moves _ _)
      · exact refl s
    · exact refl s
  · split
    · exact s.openCallout_moves _ _ _ _
    · split
      · exact (s.setOwed_moves _ _).mono
      · split
        · exact (s.setOwed_moves _ _).mono
        · exact refl s

theorem State.closeRecord_moves (i : Nat) (w : CloseReason) : Moves calloutPieces s (s.closeRecord i w) := by
  unfold State.closeRecord
  split
  · exact refl s
  · exact (((one (.callout s i none)).mono).next (State.mark_moves _ _)).next (State.notify_moves _ _)

theorem State.offerCalloutTo_moves (i : Nat) (ps : List Nat) : Moves calloutPieces s (State.offerCalloutTo i s ps) := by
  induction ps generalizing s with
  | nil => exact refl s
  | cons p ps ih =>
    simp only [State.offerCalloutTo]
    split
    · exact ih s
    · split
      · exact ((s.setOwed_moves _ _).mono).trans (ih _)
      · exact s.openCallout_moves _ _ _ _

theorem State.offerCallout_moves (i : Nat) : Moves calloutPieces s (s.offerCallout i) := s.offerCalloutTo_moves i _

theorem State.closeTest_moves (p : Nat) : Moves calloutPieces s (s.closeTest p) := by
  unfold State.closeTest
  split
  · dsimp only
    split
    · exact (s.setOwed_moves _ _).mono
    · exact ((s.closeRecord_moves _ _).trans (State.offerCallout_moves _ _)).next (State.setOwed_moves _ _ _)
  · exact refl s

theorem State.renotifyCallout_moves (i : Nat) : Moves calloutPieces s (s.renotifyCallout i) := by
  unfold State.renotifyCallout
  split
  · exact refl s
  · split
    · exact refl s
    · have h1 : ∀ n, Moves calloutPieces s (s.notify n) := fun n => (s.notify_moves n).mono
      dsimp only
      split
      · exact (h1 _).next (one (.callout _ i _))
      · split
        · exact (h1 _).next (one (.callout _ i _))
        · exact (((h1 _).next (one (.callout _ i _))).next (State.mark_moves _ _)).next (State.notify_moves _ _)

/-! ### Delivery -/

theorem State.becomeParked_moves (p : Nat) : Moves [.printers, .storeWriting] s (s.becomeParked p) :=
  ((s.updPrinter_moves p _).mono).next (State.mark_moves _ _)

theorem State.parkIfEmpty_moves (p : Nat) : Moves [.printers, .storeWriting] s (s.parkIfEmpty p) := by
  unfold State.parkIfEmpty
  split
  · exact s.becomeParked_moves p
  · exact refl s

theorem State.unqueue_moves (p g : Nat) : Moves [.printers, .storeWriting] s (s.unqueue p g) :=
  ((s.updPrinter_moves p _ (hq := fun _ => List.length_filter_le _ _)).mono).next (State.parkIfEmpty_moves _ _)

theorem State.abandonSettling_moves : Moves [.clock] s s.abandonSettling := by
  unfold State.abandonSettling
  split
  · exact one (.clock s _ id rfl)
  · exact refl s

/-- R66, R88: a job joins a Delivery Queue with room. -/
theorem State.enterQueue_moves (p g : Nat) (h : (s.printer p).queue.length < 8) :
    Moves [.printers, .clock] s (s.enterQueue p g) :=
  ((one (.printer s p { s.printer p with queue := (s.printer p).queue ++ [g] } (fun hs => hs.of_eq rfl rfl) fun _ => by
    simpa using h)).mono).next (State.abandonSettling_moves _)

theorem State.freeContext_moves (g : Nat) : Moves [.contexts] s (s.freeContext g) :=
  one (.contexts s _ (by simp))

theorem State.leaveCollection_moves (j : Job) :
    Moves [.accounts, .printers, .storeWriting] s (s.leaveCollection j) := by
  unfold State.leaveCollection
  split
  · exact refl s
  · exact (s.unhold_moves _ _).mono
  · split
    · exact (s.unqueue_moves _ _).mono
    · exact refl s

theorem State.enqueue_dropJob (g n : Nat) : (s.dropJob g).enqueue n = (s.enqueue n).dropJob g := by
  unfold State.enqueue
  rw [apply_ite (State.dropJob · g)]
  rfl

theorem State.updPrinter_dropJob (g p : Nat) (f : Printer → Printer) :
    (s.dropJob g).updPrinter p f = (s.updPrinter p f).dropJob g := rfl

theorem State.mark_dropJob (g n : Nat) : (s.dropJob g).mark n = (s.mark n).dropJob g :=
  State.enqueue_dropJob { s with store := { s.store with dirty := insertSlot n s.store.dirty } } g n

theorem State.becomeParked_dropJob (g p : Nat) : (s.dropJob g).becomeParked p = (s.becomeParked p).dropJob g := by
  unfold State.becomeParked
  rw [State.updPrinter_dropJob, State.mark_dropJob]

theorem State.parkIfEmpty_dropJob (g p : Nat) : (s.dropJob g).parkIfEmpty p = (s.parkIfEmpty p).dropJob g := by
  unfold State.parkIfEmpty
  rw [apply_ite (State.dropJob · g), ← State.becomeParked_dropJob]
  rfl

theorem State.unqueue_dropJob (g p x : Nat) : (s.dropJob g).unqueue p x = (s.unqueue p x).dropJob g := by
  unfold State.unqueue
  rw [State.updPrinter_dropJob, State.parkIfEmpty_dropJob]

theorem State.leaveCollection_dropJob (g : Nat) (j : Job) :
    (s.dropJob g).leaveCollection j = (s.leaveCollection j).dropJob g := by
  unfold State.leaveCollection
  have h : (s.dropJob g).queueOf j.tag = s.queueOf j.tag := rfl
  rw [h]
  cases j.state <;> simp only <;> first | rfl | (cases s.queueOf j.tag <;> first | rfl | exact State.unqueue_dropJob _ _ _ _)

theorem State.jobSend_dropJob (g : Nat) (m : OwnMsg) : (s.dropJob g).jobSend m = (s.jobSend m).dropJob g := by
  unfold State.jobSend
  rw [apply_ite (State.dropJob · g)]
  rfl

theorem State.jobStatus_dropJob (g : Nat) (j : Job) (e : JobEvent) (p : Option Nat) (r : Option EndReason)
    (c : Option Nat) : (s.dropJob g).jobStatus j e p r c = (s.jobStatus j e p r c).dropJob g := by
  unfold State.jobStatus
  rw [apply_ite (State.dropJob · g), ← State.jobSend_dropJob]
  rfl

/-- The end of a job as its record's leaving, which frees its chain, and then the rest (R3). -/
theorem State.endJob_eq (j : Job) (why : EndReason) :
    s.endJob j why =
      (((((s.freeSpool j).dropJob j.tag).freeContext j.tag).leaveCollection j).jobStatus j .ended
        (if j.state.inDelivery then s.queueOf j.tag else none) (some why) j.charged).spoolLowTest := by
  have : ((s.freeSpool j).dropJob j.tag).freeContext j.tag = ((s.freeSpool j).freeContext j.tag).dropJob j.tag := by
    simp [State.freeContext, State.dropJob, State.freeSpool]
  rw [this, State.leaveCollection_dropJob, State.jobStatus_dropJob]
  rfl

theorem State.endJob_moves (j : Job) (why : EndReason) (h : s.job j.tag = some j) :
    Moves endPieces s (s.endJob j why) := by
  rw [State.endJob_eq]
  exact (((((one (.drop s j h)).mono).next (State.freeContext_moves _ _)).next (State.leaveCollection_moves _ _)).next
    (State.jobStatus_moves _ _ _ _ _ _)).next (State.spoolLowTest_moves _)

theorem State.endTag_moves (g : Nat) (why : EndReason) : Moves endPieces s (s.endTag g why) := by
  unfold State.endTag
  split
  next j hj => exact s.endJob_moves j why ((s.tag_of_job hj).symm ▸ hj)
  next => exact refl s

theorem State.restartStall_moves (p : Nat) : Moves [.printers] s (s.restartStall p) := s.updPrinter_moves p _

theorem State.sendControl_moves (p : Nat) (m : OwnMsg) : Moves [.printers, .fleetOwn] s (s.sendControl p m) := by
  unfold State.sendControl
  split
  next h =>
    have h1 : Moves [.printers, .fleetOwn] s { s with fport := s.fport.place m } :=
      (one (.placeFleet s m (by simp_all))).mono
    dsimp only
    split
    · exact h1
    · exact h1.next (State.restartStall_moves _ _)
  next => exact (s.updPrinter_moves p _).mono

theorem State.leavePrinting_moves (p g : Nat) : Moves [.printers] s (s.leavePrinting p g) := s.updPrinter_moves p _

theorem State.cancelStream_moves (p g : Nat) : Moves [.printers, .fleetOwn] s (s.cancelStream p g) := by
  unfold State.cancelStream
  dsimp only
  split
  · exact (s.leavePrinting_moves p g).mono
  · exact ((s.leavePrinting_moves p g).mono).next (State.sendControl_moves _ _ _)

/-- A change of a job that leaves its tag and its chain. -/
theorem State.updJob_moves (g : Nat) (f : Job → Job)
    (h : ∀ j, (f j).Spooled j ∧ (f j).promise = j.promise ∧ ((f j).state = .receiving → j.state = .receiving) := by
      intro _; exact ⟨⟨rfl, rfl, rfl, rfl⟩, rfl, by first | exact id | exact nofun⟩) :
    Moves [.jobRecords] s (s.updJob g f) := one (.job s g f h)

/-- The pieces that the start of a stream reaches. -/
def streamPieces : List Piece := [.jobRecords, .printers, .fleetOwn] ++ jobTraffic

theorem State.startStream_moves (p : Nat) : Moves streamPieces s (s.startStream p) := by
  unfold State.startStream
  split
  · split
    · exact refl s
    · exact (((s.updJob_moves _ _).mono).next (State.sendControl_moves _ _ _)).next (State.jobStatus_moves _ _ _ _ _ _)
  · exact refl s

/-- The pieces that a settlement reaches. -/
def settlePieces : List Piece := [.jobRecords, .accounts, .storeWriting] ++ noticeTraffic

theorem State.settleJob_moves (g : Nat) (n : Counts) : Moves settlePieces s (s.settleJob g n) := by
  unfold State.settleJob
  split
  · exact refl s
  · exact ((s.settle_moves _ _ _).mono).next (State.updJob_moves _ _ _)

/-! ### Targets -/

/-- R65: an eligible printer has room in its Delivery Queue. -/
theorem PrinterOf.queue_of_eligible {e : Printer} {j : Job} (h : e.eligible j = true) : e.queue.length < 8 := by
  simp only [PrinterOf.eligible, Bool.and_eq_true, decide_eq_true_eq] at h
  exact h.2

theorem State.foldl_shorter_mem {l : List Nat} {b : Option Nat} {t : Nat} (h : l.foldl s.shorter b = some t) :
    b = some t ∨ t ∈ l := by
  induction l generalizing b with
  | nil => exact .inl h
  | cons p l ih =>
    rcases ih h with h | h
    · unfold State.shorter at h
      split at h
      · exact .inr (by simp [Option.some.inj h])
      · split at h
        · exact .inr (by simp [Option.some.inj h])
        · exact .inl h
    · exact .inr (List.mem_cons_of_mem _ h)

variable {s} in
/-- R67 step 2: the partner of a printer is another one that is eligible. -/
theorem State.partner_spec {a : Nat} {j : Job} {t : Nat} (h : s.partner a j = some t) :
    t ≠ a ∧ (s.printer t).eligible j = true := by
  rcases s.foldl_shorter_mem h with h | h
  · exact nomatch h
  · simpa using (List.mem_filter.1 h).2

variable {s} in
/-- R67: a target is eligible. -/
theorem State.target_spec {a : Nat} {j : Job} {t : Nat} (h : s.target a j = some t) : (s.printer t).eligible j = true := by
  unfold State.target at h
  split at h
  next he => exact Option.some.inj h ▸ he
  next => exact (State.partner_spec h).2

variable {s} in
theorem State.reserve_printers {k c : Nat} {t : State} (h : s.reserve k c = some t) : t.printers = s.printers := by
  unfold State.reserve at h
  dsimp only at h
  split at h
  · exact Option.some.inj h ▸ rfl
  · simp at h

/-- A job leaving one Delivery Queue leaves the other entries as they are. -/
theorem State.printer_unqueue (p g : Nat) {i : Nat} (h : i ≠ p) : (s.unqueue p g).printer i = s.printer i := by
  unfold State.unqueue State.parkIfEmpty State.becomeParked
  split
  · rw [State.printer, State.mark_printers, ← State.printer]; simp [h]
  · simp [h]

/-- The pieces that a return to hold reaches. -/
def holdPieces : List Piece := [.jobRecords, .accounts, .printers, .storeWriting] ++ jobTraffic

theorem State.returnToHold_moves (p g : Nat) : Moves holdPieces s (s.returnToHold p g) := by
  unfold State.returnToHold
  split
  · exact refl s
  · have h1 : Moves holdPieces s ((s.unqueue p g).updJob g (fun x => x.returned s.clock.uptime)) :=
      ((s.unqueue_moves p g).mono).next (State.updJob_moves _ _ _)
    dsimp only
    generalize (s.unqueue p g).updJob g (fun x => x.returned s.clock.uptime) = t at h1 ⊢
    exact (h1.next (t.held_moves _ _)).next (State.jobStatus_moves _ _ _ _ _ _)

theorem State.stopPrinting_moves (p : Nat) : Moves deliveryPieces s (s.stopPrinting p) := by
  unfold State.stopPrinting
  split
  · exact refl s
  · exact (((s.cancelStream_moves p _).mono).next (State.settleJob_moves _ _ _)).next (State.returnToHold_moves _ _ _)

theorem State.endFinishing_moves (g : Nat) : Moves deliveryPieces s (s.endFinishing g) := by
  unfold State.endFinishing
  split
  · exact refl s
  · exact ((s.settleJob_moves g _).mono).next (State.endTag_moves _ _ _)

theorem State.reroute_moves (p g : Nat) : Moves deliveryPieces s (s.reroute p g) := by
  unfold State.reroute
  split
  · exact refl s
  next j hj =>
    have h1 : Moves deliveryPieces s (s.unreserve j.account (j.reservation.getD 0)) := (s.unreserve_moves _ _).mono
    dsimp only
    split
    · exact h1.next (State.returnToHold_moves _ _ _)
    next t ht =>
      split
      · exact h1.next (State.returnToHold_moves _ _ _)
      next s2 hr =>
        exact (((((h1.next (State.reserve_moves _ hr)).next (State.unqueue_moves _ _ _)).next
          (State.updJob_moves _ _ _)).next (State.enterQueue_moves _ _ _ (by
            obtain ⟨hne, he⟩ := State.partner_spec ht
            have h2 := State.reserve_printers hr
            rw [State.updJob_printer, State.printer_unqueue _ _ _ hne, State.printer, h2]
            exact PrinterOf.queue_of_eligible he))).next
          (State.jobStatus_moves _ _ _ _ _ _)).next (State.startStream_moves _ _)

theorem State.evacuate_moves (p : Nat) (full : Bool) : Moves deliveryPieces s (s.evacuate p full) := by
  unfold State.evacuate
  have h1 := s.stopPrinting_moves p
  have h2 := fun (t : State) (l : List Nat) => Moves.foldl (l := deliveryPieces) State.endFinishing
    (fun s g => s.endFinishing_moves g) l t
  have h3 := fun (t : State) (l : List Nat) => Moves.foldl (l := deliveryPieces) (fun t g => t.reroute p g)
    (fun s g => s.reroute_moves p g) l t
  dsimp only
  split
  · exact (h1.trans (h2 _ _)).trans (h3 _ _)
  · exact h1.trans (h3 _ _)

/-! ### Health -/

theorem State.healthChange_moves (p : Nat) (a b : Health) : Moves noticeTraffic s (s.healthChange p a b) :=
  s.notify_moves _

theorem State.setPrinter_setPrinter (p : Nat) (a b : Printer) : (s.setPrinter p a).setPrinter p b = s.setPrinter p b := by
  simp [State.setPrinter, Tbl.put_put]

/-- What follows a printer's move from one band to another (R116, R117). -/
theorem State.bandEffects_moves (p : Nat) (old new : Health) (t : State) (h : Moves deliveryPieces s t) :
    Moves deliveryPieces s
      (if new.rank < old.rank then (if new.well then t.closeTest p else t)
       else match new with
        | .degraded => t.raiseCallout p .service .degraded
        | .withdrawn => ((t.raiseCallout p .urgent .withdrawn).mark (healthSlot p)).evacuate p true
        | _ => t) := by
  split
  · split
    · exact h.next (State.closeTest_moves _ _)
    · exact h
  · split
    · exact h.next (State.raiseCallout_moves _ _ _ _)
    · exact ((h.next (State.raiseCallout_moves _ _ _ _)).next (State.mark_moves _ _)).next (State.evacuate_moves _ _ _)
    · exact h

/-- A change of a printer's score, its health being brought to the score's band (R116). -/
theorem State.scored_moves (p : Nat) (f : Printer → Printer) (hs : ∀ e, (s.printer p).HealthSound → e = s.printer p →
    (f e).score ≤ 1023) (hq : (f (s.printer p)).queue = (s.printer p).queue := by rfl) :
    Moves deliveryPieces s ((s.updPrinter p f).moveBand p) := by
  unfold State.moveBand
  simp only [State.printer_updPrinter, if_true]
  set e := f (s.printer p) with he
  split
  next h =>
    refine (one (Move.printer s p e (fun hse => ⟨hs _ hse rfl, fun hw => ?_⟩) fun hl => by rw [he, hq]; exact hl)).mono
    rcases Bool.or_eq_true _ _ ▸ h with h | h
    · exact absurd (by simpa using h) hw
    · simpa using h
  next h =>
    simp only [State.updPrinter, State.printer_setPrinter, if_true, State.setPrinter_setPrinter]
    refine State.bandEffects_moves s p e.health (bandOf e.score) _ ?_
    have h0 : Moves [.printers] s (s.setPrinter p { e with health := bandOf e.score }) :=
      one (Move.printer s p _ (fun hse => ⟨hs _ hse rfl, fun _ => rfl⟩) fun hl => by rw [he, hq]; exact hl)
    have h1 : Moves deliveryPieces s (s.setPrinter p { e with health := bandOf e.score }) := h0.mono
    exact h1.next (State.healthChange_moves _ _ _ _)

theorem State.takeFault_moves (p : Nat) (k : FaultKind) : Moves deliveryPieces s (s.takeFault p k) := by
  unfold State.takeFault
  dsimp only
  split
  · exact (s.updPrinter_moves p _).mono
  · refine Moves.trans ((s.updPrinter_moves p _).mono) (State.scored_moves _ p _ (fun e _ _ => ?_))
    exact Nat.min_le_left _ _

theorem State.lowerScore_moves (p n : Nat) : Moves deliveryPieces s (s.lowerScore p n) := by
  unfold State.lowerScore
  split
  · exact refl s
  · refine State.scored_moves _ p _ (fun e he h => ?_)
    exact (Nat.sub_le _ _).trans (h ▸ he.1)

theorem State.handFaces_moves (p m c : Nat) : Moves deliveryPieces s (s.handFaces p m c) := by
  unfold State.handFaces
  split
  · exact refl s
  · exact (((s.supplyFaces_moves p m c).mono).next (State.lowerScore_moves _ _ _)).next (State.updPrinter_moves _ _ _)

theorem State.quietHour_moves (p : Nat) : Moves deliveryPieces s (s.quietHour p) := by
  unfold State.quietHour
  dsimp only
  split
  · exact (s.updPrinter_moves p _).mono
  · exact (s.lowerScore_moves p 8).next (State.updPrinter_moves _ _ _)

theorem State.startLimit_moves (p : Nat) : Moves [.printers] s (s.startLimit p) := by
  unfold State.startLimit
  dsimp only
  split
  · exact s.updPrinter_moves p _
  · exact refl s

theorem State.beginPause_moves (p : Nat) : Moves [.printers] s (s.beginPause p) :=
  (s.updPrinter_moves p _).trans (State.startLimit_moves _ _)

theorem State.endPause_moves (p : Nat) : Moves streamPieces s (s.endPause p) :=
  ((s.updPrinter_moves p _).mono).next (State.startStream_moves _ _)

theorem State.setStanding_moves (p : Nat) (x : Standing) : Moves streamPieces s (s.setStanding p x) := by
  unfold State.setStanding
  have h1 := s.updPrinter_moves p (fun e => { e with standing := x })
  dsimp only
  split
  · exact (h1.mono).next (State.beginPause_moves _ _)
  · split
    · exact (h1.mono).next (State.endPause_moves _ _)
    · exact h1.mono

/-- The pieces that a frame from a printer reaches (R121). -/
def framePieces : List Piece := calloutPieces ++ [.jobRecords, .fleetOwn] ++ jobTraffic

theorem State.becomePresent_moves (p : Nat) : Moves framePieces s (s.becomePresent p) := by
  unfold State.becomePresent
  split
  · have h1 := ((s.updPrinter_moves p (fun e =>
      { e with standing := { (s.printer p).standing with unreachable := false } })).mono (l := framePieces)).next
      (State.closeTest_moves _ p)
    dsimp only
    split
    · exact h1.next (State.endPause_moves _ _)
    · exact h1
  · exact refl s

theorem State.frameFrom_moves (p : Nat) : Moves framePieces s (s.frameFrom p) := by
  unfold State.frameFrom
  dsimp only
  split
  · exact s.becomePresent_moves p
  · exact (s.becomePresent_moves p).next (State.updPrinter_moves _ _ _)

end Sys2Proof.Machine
end

