-- ==== Sys2Proof/Laws/Blocks.lean ====
section
/-! SUPPORT. For each rule of a block (release, jobs, printers, clock, store, console, ports), the moves it is made of. -/

namespace Sys2Proof.Machine

set_option Elab.async false

open Moves

variable (s : State)

/-! ### Release (file 04) -/

theorem State.releaseJob_moves {p : Nat} {j : Job} {t : State} (h : s.releaseJob p j = some t)
    (he : (s.printer p).eligible j = true) : Moves deliveryPieces s t := by
  unfold State.releaseJob at h
  split at h
  · simp at h
  next s1 hr =>
    obtain rfl := Option.some.inj h
    exact ((((((s.reserve_moves hr).mono (l := deliveryPieces)).next (State.unhold_moves _ _ _)).next
      (State.updJob_moves _ _ _)).next (State.enterQueue_moves _ _ _ (by
        simpa [State.unhold, State.printer, State.reserve_printers hr] using PrinterOf.queue_of_eligible he))).next
      (State.jobStatus_moves _ _ _ _ _ _)).next (State.startStream_moves _ _)

theorem State.examine_moves (a : Nat) (j : Job) : Moves deliveryPieces s (s.examine a j).state := by
  unfold State.examine
  split
  · exact refl s
  next ht =>
    split
    next t1 h => exact s.releaseJob_moves h (State.target_spec ht)
    next => exact refl s

theorem State.walk_moves (a : Nat) (tags : List Nat) (n : Nat) : Moves deliveryPieces s (State.walk a tags n s).1 := by
  induction tags generalizing n s with
  | nil => exact refl s
  | cons g rest ih =>
    simp only [State.walk]
    split
    · exact refl s
    · split
      · exact ih s n
      · exact (s.examine_moves a _).trans (ih _ _)

theorem State.directPath_moves (j : Job) (x : Nat) : Moves deliveryPieces s (s.directPath j x) := by
  unfold State.directPath
  split
  · exact refl s
  next p _ =>
    split
    · exact refl s
    · split
      next he =>
        cases h : s.releaseJob p j with
        | none => exact refl s
        | some t => exact s.releaseJob_moves h he
      · exact refl s

/-! ### Jobs (file 01) -/

/-- The pieces that an accepted JOB_OPEN reaches (R10). -/
def openPieces : List Piece :=
  [.jobRecords, .tagAllocator, .contexts, .promises, .clock, .spoolLow] ++ jobTraffic ++ noticeTraffic

theorem State.nextTag_range (t : Nat) : 1 ≤ nextTag t ∧ nextTag t ≤ 65535 := by
  unfold nextTag
  split <;> omega

/-- The tag that the allocator tries `i` places after another. -/
theorem State.nextTag_shift (c i : Nat) (hc : 1 ≤ c ∧ c ≤ 65535) :
    nextTag ((c - 1 + i) % 65535 + 1) = (c - 1 + (i + 1)) % 65535 + 1 := by
  unfold nextTag
  split <;> omega

/-- R2: the tag the allocator gives is in its range and is held by no record. -/
theorem State.freeTag_free (hn : s.jobs.recs.length < 65535) (t : Nat) :
    s.job (s.freeTag s.jobs.recs.length t) = none ∧ 1 ≤ s.freeTag s.jobs.recs.length t
      ∧ s.freeTag s.jobs.recs.length t ≤ 65535 := by
  have key : ∀ n i c, (1 ≤ c ∧ c ≤ 65535) → i + n = s.jobs.recs.length →
      (∀ k, k < i → ((c - 1 + k) % 65535 + 1) ∈ s.jobs.recs.map Job.tag) →
      ∀ last, nextTag last = (c - 1 + i) % 65535 + 1 →
      s.job (s.freeTag n last) = none ∧ 1 ≤ s.freeTag n last ∧ s.freeTag n last ≤ 65535 := by
    intro n
    induction n with
    | zero =>
      intro i c hc hi hheld last hlast
      refine ⟨?_, State.nextTag_range last⟩
      simp only [State.freeTag, hlast]
      rw [State.job, List.find?_eq_none]
      intro j hj htag
      have htag : j.tag = (c - 1 + i) % 65535 + 1 := by simpa using htag
      have hsub : (List.range (i + 1)).map (fun k => (c - 1 + k) % 65535 + 1) ⊆ s.jobs.recs.map Job.tag := by
        intro x hx
        obtain ⟨k, hk, rfl⟩ := List.mem_map.1 hx
        rcases Nat.lt_succ_iff_lt_or_eq.1 (List.mem_range.1 hk) with hk | rfl
        · exact hheld k hk
        · exact List.mem_map.2 ⟨j, hj, htag⟩
      have hnd : ((List.range (i + 1)).map (fun k => (c - 1 + k) % 65535 + 1)).Nodup := by
        refine List.Nodup.map_on (fun x hx y hy hxy => ?_) List.nodup_range
        have hx := List.mem_range.1 hx
        have hy := List.mem_range.1 hy
        omega
      have hle := (hnd.subperm hsub).length_le
      simp only [List.length_map, List.length_range] at hle
      omega
    | succ n ih =>
      intro i c hc hi hheld last hlast
      simp only [State.freeTag]
      split
      next hsome =>
        obtain ⟨j, hj⟩ := Option.isSome_iff_exists.1 hsome
        refine ih (i + 1) c hc (by omega) (fun k hk => ?_) _ ?_
        · rcases Nat.lt_succ_iff_lt_or_eq.1 hk with hk | rfl
          · exact hheld k hk
          · exact List.mem_map.2 ⟨j, s.mem_of_job hj, by rw [s.tag_of_job hj, hlast]⟩
        · rw [hlast, State.nextTag_shift c i hc]
      next hnone =>
        refine ⟨by simpa using hnone, State.nextTag_range last⟩
  have hr := State.nextTag_range t
  refine key s.jobs.recs.length 0 (nextTag t) hr (by omega) (by simp) t ?_
  omega

theorem length_takeContext (x : Context) (l : List (Option Context)) : (takeContext x l).length = l.length := by
  induction l with
  | nil => rfl
  | cons c l ih => cases c <;> simp [takeContext, ih]

theorem State.acceptJob_moves (h : Hdr) (b : JobOpenBody) (k hit : Nat) (hn : s.jobs.recs.length < 1024)
    (hp : b.need ≤ s.spool.headroom) (hr : s.jobs.outgoing.length < 4096) :
    Moves openPieces s (s.acceptJob h b k hit) := by
  unfold State.acceptJob
  obtain ⟨h1, h2⟩ := s.freeTag_free (by omega) s.jobs.lastTag
  dsimp only
  generalize s.freeTag s.jobs.recs.length s.jobs.lastTag = g at h1 h2 ⊢
  have m1 : Moves openPieces s
      { s with
        jobs := { s.jobs with recs := s.jobs.recs ++ [b.record g h.src k hit], lastTag := g }
        spool := { s.spool with promises := s.spool.promises + b.need } } :=
    (one (.record s (b.record g h.src k hit) ⟨rfl, rfl, rfl, rfl⟩ h1 h2 hn hp)).mono
  have m2 := m1.next (one (.contexts _ (takeContext { tag := g, idle := .running Config.receiveIdleSeconds }
    s.jobs.contexts) (length_takeContext _ _)))
  exact ((m2.next (State.abandonSettling_moves _)).next (State.jobReply_moves _ _ _ _ _
    ((State.abandonSettling_moves _).outgoing_room hr))).next (State.spoolLowTest_moves _)

theorem State.wake_moves : Moves [.clock] s s.wake := by
  unfold State.wake
  split
  · exact one (.clock s _ id rfl)
  · exact refl s

theorem State.admission_records {s : State} {h : Hdr} {b : JobOpenBody} {x : Nat × Nat} (ha : s.admission h b = .inr x) :
    s.jobs.recs.length < 1024 ∧ b.need ≤ s.spool.headroom := by
  unfold State.admission at ha
  dsimp only at ha
  repeat' split at ha
  all_goals first
    | (simp at ha; done)
    | (have hmax : Config.jobRecords = 1024 := rfl; omega)

theorem openJob_moves (h : Hdr) (b : JobOpenBody) (hr : s.jobs.outgoing.length < 4096) : Moves openPieces s (openJob h b s) := by
  unfold openJob
  split
  · exact (s.wake_moves.mono).next (State.jobReply_moves _ _ _ _ _ (s.wake_moves.outgoing_room hr))
  · split
    · exact (s.jobReply_moves _ _ _ _ hr).mono
    next k hit ha =>
      obtain ⟨hn, hp⟩ := State.admission_records ha
      exact s.acceptJob_moves h b k hit hn hp hr

/-- The pieces that the data of an accepted JOB_DATA reaches (R13). -/
def takenPieces : List Piece := [.jobRecords, .contexts, .freeSegments, .promises, .spoolBytes]

/-- The pieces that a JOB_DATA reaches with its reply (R12, R13). -/
def dataPieces : List Piece := takenPieces ++ jobTraffic

theorem State.restartReceiveIdle_moves (g : Nat) : Moves [.contexts] s (s.restartReceiveIdle g) :=
  one (.contexts s _ (by simp))

theorem State.acceptData_moves (j : Job) (d : JobDataBody) (hj : s.job j.tag = some j) (hs : j.state = .receiving)
    (hd : j.received + d.data.length ≤ j.declared) (hn : d.data.length ≤ 1400) : Moves takenPieces s (s.acceptData j d) := by
  unfold State.acceptData
  exact (((one (.extend s j d.data.length hj hs hd hn)).mono (l := takenPieces)).next (one (.spoolBytes _ _
    (memWf_writeData _ _ _)))).next (State.restartReceiveIdle_moves _ _)

theorem State.jobFrom_some {s : State} {h : Hdr} {j : Job} (hj : s.jobFrom h = some j) :
    s.job h.jobTag = some j ∧ j.origin = h.src := by
  simp only [State.jobFrom, Option.filter_eq_some_iff] at hj
  exact ⟨hj.1, by simpa using hj.2⟩

/-- The job a message names, under its own tag. -/
theorem State.jobFrom_self {s : State} {h : Hdr} {j : Job} (hj : s.jobFrom h = some j) :
    s.job j.tag = some j := (s.tag_of_job (State.jobFrom_some hj).1).symm ▸ (State.jobFrom_some hj).1

theorem takeData_moves (h : Hdr) (d : JobDataBody) (hr : s.jobs.outgoing.length < 4096) :
    Moves dataPieces s (takeData h d s) := by
  unfold takeData
  split
  next hf =>
    have hn : d.data.length ≤ 1400 := by
      unfold dataFits at hf
      rw [decide_eq_true_iff] at hf
      exact hf.2
    split
    · exact (s.jobReply_moves _ _ _ _ hr).mono
    next j hj =>
      split
      · exact (s.jobReply_moves _ _ _ _ hr).mono
      next hs =>
        split
        · exact (s.jobReply_moves _ _ _ _ hr).mono
        next ho =>
          split
          · exact (s.jobReply_moves _ _ _ _ hr).mono
          next hd =>
            rw [not_not] at hs ho
            have h1 := s.acceptData_moves j d (State.jobFrom_self hj) hs (by rw [← ho]; exact not_lt.1 hd) hn
            exact h1.mono.next (State.jobReply_moves _ _ _ _ _ (h1.outgoing_room hr))
  next => exact (s.jobReply_moves _ _ _ _ hr).mono

/-- The pieces that an accepted JOB_CLOSE reaches before the direct path (R14). -/
def heldPieces : List Piece := [.jobRecords, .holdSequence, .contexts, .promises, .spoolLow, .accounts] ++ noticeTraffic

theorem State.becomeHeld_moves (j : Job) (hj : s.job j.tag = some j) : Moves heldPieces s (s.becomeHeld j) := by
  unfold State.becomeHeld
  have h1 := (one (.keep s j (fun x =>
    { x with promise := 0, state := .held, stamp := some (s.clock.uptime, s.jobs.holdSeq)
             expiry := some (s.clock.uptime + (s.classEntry j.hit).hold * 60) }) hj
    (fun _ => ⟨⟨rfl, rfl, rfl, rfl⟩, rfl, nofun⟩))).mono (l := heldPieces)
  have h2 := (h1.next (State.spoolLowTest_moves _)).next (State.freeContext_moves _ j.tag)
  have hseq : ∀ u : State, (u.spoolLowTest.freeContext j.tag).jobs.holdSeq = u.jobs.holdSeq := by
    intro u
    simp only [State.freeContext, State.spoolLowTest, State.notify, State.offer]
    split
    · rfl
    · split
      · split
        · rfl
        · split <;> rfl
      · rfl
  have h3 := h2.next (one (.holdSequence _ (if Config.maxHoldSeq ≤ s.jobs.holdSeq then 0 else s.jobs.holdSeq + 1)
    (fun h => by
      rw [hseq] at h
      simp only [State.updJob_holdSeq] at h
      have hmax : Config.maxHoldSeq = 4294967295 := rfl
      split <;> omega)))
  exact h3.next (State.held_moves _ _ _)

/-- The pieces that a JOB_CLOSE or JOB_CANCEL reaches. -/
def jobPieces : List Piece := deliveryPieces ++ [.holdSequence]

theorem State.acceptClose_moves (h : Hdr) (j : Job) (hj : s.job j.tag = some j)
    (hr : s.jobs.outgoing.length < 4096) : Moves jobPieces s (s.acceptClose h j) := by
  unfold State.acceptClose
  have h1 := (((s.becomeHeld_moves j hj).mono (l := jobPieces)).next (State.jobReply_moves _ h h.jobTag .ok 0
    ((s.becomeHeld_moves j hj).outgoing_room hr))).next (State.jobStatus_moves _ j .held none none none)
  dsimp only
  split
  · split
    · exact h1.next (State.directPath_moves _ _ _)
    · exact h1
  · exact h1

@[simp] theorem State.jobSend_recs (m : OwnMsg) : (s.jobSend m).jobs.recs = s.jobs.recs := by
  unfold State.jobSend
  split <;> rfl

@[simp] theorem State.job_jobReply (h : Hdr) (g : Nat) (r : Result) (n x : Nat) : (s.jobReply h g r n).job x = s.job x := by
  simp [State.job, State.jobReply]

theorem closeJob_moves (h : Hdr) (n : Nat) (hr : s.jobs.outgoing.length < 4096) : Moves jobPieces s (closeJob h n s) := by
  unfold closeJob
  split
  · exact (s.jobReply_moves _ _ _ _ hr).mono
  next j hj =>
    split
    · exact (s.jobReply_moves _ _ _ _ hr).mono
    · split
      · exact (s.jobReply_moves _ _ _ _ hr).mono
      · split
        · exact ((s.jobReply_moves _ _ _ _ hr).mono).next
            (State.endJob_moves _ _ _ (by simpa using State.jobFrom_self hj))
        · exact s.acceptClose_moves h j (State.jobFrom_self hj) hr

theorem State.cancelReleased_moves (h : Hdr) (j : Job) (hr : s.jobs.outgoing.length < 4096) :
    Moves jobPieces s (s.cancelReleased h j) :=
  ((((s.unreserve_moves _ _).mono (l := jobPieces)).next (State.updJob_moves _ _ _)).next
    (State.jobReply_moves _ _ _ _ _ ((s.unreserve_moves _ _).outgoing_room hr))).next (State.endTag_moves _ _ _)

theorem State.cancelPrinting_moves (h : Hdr) (j : Job) (hr : s.jobs.outgoing.length < 4096) :
    Moves jobPieces s (s.cancelPrinting h j) := by
  unfold State.cancelPrinting
  split
  · exact refl s
  · exact (((((s.cancelStream_moves _ _).mono (l := jobPieces)).next (State.settleJob_moves _ _ _)).next
      (State.jobReply_moves _ _ _ _ _ ((State.settleJob_moves _ _ _).outgoing_room
        ((s.cancelStream_moves _ _).outgoing_room hr)))).next (State.endTag_moves _ _ _)).next (State.startStream_moves _ _)

theorem cancelJob_moves (h : Hdr) (hr : s.jobs.outgoing.length < 4096) : Moves jobPieces s (cancelJob h s) := by
  unfold cancelJob
  split
  · exact (s.jobReply_moves _ _ _ _ hr).mono
  next j hj =>
    have h1 : Moves jobPieces s ((s.jobReply h h.jobTag .ok 0).endJob j .userCancelled) :=
      ((s.jobReply_moves _ _ _ _ hr).mono).next (State.endJob_moves _ _ _ (by simpa using State.jobFrom_self hj))
    split
    · exact h1
    · exact h1
    · exact s.cancelReleased_moves h j hr
    · exact s.cancelPrinting_moves h j hr
    · exact (s.jobReply_moves _ _ _ _ hr).mono

theorem State.expireHeld_moves : Moves endPieces s s.expireHeld := Moves.foldl _ (fun s g => s.endTag_moves g _) _ _

theorem purgeRule_moves (g : Nat) : Moves endPieces s (purgeRule g s).state := by
  unfold purgeRule
  split
  · exact refl s
  next j hj =>
    split
    · exact refl s
    · exact s.endJob_moves j _ ((s.tag_of_job hj).symm ▸ hj)

/-! ### Printers (files 05, 06, 07) -/

theorem grantRule_moves (h : Hdr) (n p : Nat) : Moves deliveryPieces s (grantRule h n p s) := by
  unfold grantRule
  split
  · exact s.takeFault_moves _ _
  · split
    · exact refl s
    · split
      · exact ((s.updJob_moves _ _).mono).next (State.restartStall_moves _ _)
      · exact refl s

theorem State.finalReport_moves (p : Nat) (j : Job) (n : Counts) (b : Bool) :
    Moves deliveryPieces s (s.finalReport p j n b) := by
  unfold State.finalReport
  have h1 : Moves deliveryPieces s (if j.state = .printing then s.leavePrinting p j.tag else s) := by
    split
    · exact (s.leavePrinting_moves _ _).mono
    · exact refl s
  exact ((h1.next (State.settleJob_moves _ _ _)).next (State.endTag_moves _ _ _)).next (State.startStream_moves _ _)

theorem State.takePageReport_moves (p : Nat) (j : Job) (r : PageReportBody) :
    Moves deliveryPieces s (s.takePageReport p j r) := by
  unfold State.takePageReport
  have h1 : Moves deliveryPieces s ((s.updJob j.tag (fun x => { x with reported := some (j.reportedOrZero.raise r) })).handFaces p
      ((j.reportedOrZero.raise r).tm - j.reportedOrZero.tm) ((j.reportedOrZero.raise r).tc - j.reportedOrZero.tc)) :=
    ((s.updJob_moves j.tag _).mono).trans (State.handFaces_moves _ _ _ _)
  dsimp only
  generalize (s.updJob j.tag (fun x => { x with reported := some (j.reportedOrZero.raise r) })).handFaces p
      ((j.reportedOrZero.raise r).tm - j.reportedOrZero.tm) ((j.reportedOrZero.raise r).tc - j.reportedOrZero.tc) = t
    at h1 ⊢
  have h2 : Moves deliveryPieces s (if j.state = .printing then t.restartStall p
      else t.updJob j.tag (fun x => { x with finish := .running Config.finishSeconds })) := by
    split
    · exact h1.next (State.restartStall_moves _ _)
    · exact h1.next (State.updJob_moves _ _ _)
  split
  · exact h2.trans (State.finalReport_moves _ _ _ _ _)
  · exact h2

theorem pageReportRule_moves (h : Hdr) (r : PageReportBody) (p : Nat) : Moves deliveryPieces s (pageReportRule h r p s) := by
  unfold pageReportRule
  split
  · exact refl s
  · split
    · exact s.takeFault_moves _ _
    · split
      · exact refl s
      · split
        · exact s.takePageReport_moves _ _ _
        · exact refl s

/-- The pieces that a STATUS reaches (R120, R138). -/
def statusPieces : List Piece := calloutPieces ++ [.reorders, .jobRecords, .fleetOwn] ++ jobTraffic

theorem statusRule_moves (r : StatusBody) (p : Nat) : Moves statusPieces s (statusRule r p s) := by
  unfold statusRule
  have h1 := ((s.setStanding_moves p ((s.printer p).standing.reported r)).mono (l := statusPieces)).next
    (State.closeTest_moves _ p)
  dsimp only
  split
  · exact h1.next (State.takeReports_moves _ _ _)
  · exact h1

theorem State.takeFaultMessage_moves (p c : Nat) : Moves deliveryPieces s (s.takeFaultMessage p c) := by
  unfold State.takeFaultMessage
  split
  · exact ((s.frameFrom_moves p).mono).next (State.takeFault_moves _ _ _)
  · exact (s.frameFrom_moves p).mono

theorem State.keepFault_moves (p c : Nat) : Moves [.clock] s (s.keepFault p c) := by
  unfold State.keepFault
  dsimp only
  split
  next h =>
    exact s.wake_moves.trans (one (.clock _ _ id rfl fun _ => by
      rw [List.length_append]; exact h))
  · exact s.wake_moves

theorem State.stallExpiry_moves (p : Nat) : Moves deliveryPieces s (s.stallExpiry p) := by
  unfold State.stallExpiry
  split
  · exact refl s
  · exact (((((s.cancelStream_moves _ _).mono (l := deliveryPieces)).next (State.settleJob_moves _ _ _)).next
      (State.returnToHold_moves _ _ _)).next (State.takeFault_moves _ _ _)).next (State.startStream_moves _ _)

theorem State.finishExpiry_moves (p : Nat) (j : Job) : Moves deliveryPieces s (s.finishExpiry p j) :=
  (((s.handFaces_moves _ _ _).next (State.settleJob_moves _ _ _)).next (State.endTag_moves _ _ _)).next
    (State.takeFault_moves _ _ _)

theorem State.hourDecay_moves : Moves deliveryPieces s s.hourDecay := Moves.foldl _ (fun s p => s.quietHour_moves p) _ _

theorem parkRule_moves (p : Nat) : Moves [.printers, .storeWriting] s (parkRule p s).state := by
  unfold parkRule
  split
  · split
    · exact s.becomeParked_moves p
    · exact ((s.updPrinter_moves p _).mono).next (State.mark_moves _ _)
  · exact refl s

theorem unparkRule_moves (p : Nat) : Moves [.printers, .storeWriting] s (unparkRule p s).state := by
  unfold unparkRule
  have h1 : Moves [.printers, .storeWriting] s
      ((s.updPrinter p (fun e => { e with service := .inService })).mark (healthSlot p)) :=
    ((s.updPrinter_moves p _).mono).next (State.mark_moves _ _)
  split
  · dsimp only
    split
    · exact h1
    · exact h1.next (State.startLimit_moves _ _)
  · exact h1
  · exact refl s

theorem parkNowRule_moves (p : Nat) : Moves deliveryPieces s (parkNowRule p s).state := by
  unfold parkNowRule
  split
  · exact refl s
  · dsimp only
    exact (s.evacuate_moves p true).next (State.becomeParked_moves _ _)

theorem withdrawRule_moves (p : Nat) : Moves deliveryPieces s (withdrawRule p s).state := by
  unfold withdrawRule
  have h1 : Moves [.printers] s (s.updPrinter p (fun e => { e with health := .withdrawn })) :=
    s.updPrinter_moves_sound p _ fun h => ⟨h.1, fun hw => absurd rfl hw⟩
  dsimp only
  split
  · exact refl s
  · dsimp only
    have h2 := (h1.mono (l := deliveryPieces)).next (State.healthChange_moves _ p (s.printer p).health .withdrawn)
    exact (h2.next (State.mark_moves _ _)).next (State.evacuate_moves _ _ _)

theorem reinstateRule_moves (p : Nat) : Moves calloutPieces s (reinstateRule p s).state := by
  unfold reinstateRule
  have h1 : Moves [.printers] s (s.updPrinter p (fun e => { e with score := 0, health := .active })) :=
    s.updPrinter_moves_sound p _ fun _ => ⟨Nat.zero_le _, fun _ => rfl⟩
  dsimp only
  have h2 : Moves calloutPieces s (if (s.printer p).health = .active then
      s.updPrinter p (fun e => { e with score := 0, health := .active }) else
      (s.updPrinter p (fun e => { e with score := 0, health := .active })).healthChange p (s.printer p).health .active) := by
    split
    · exact h1.mono
    · exact (h1.mono (l := calloutPieces)).next (State.healthChange_moves _ p (s.printer p).health .active)
  split
  · exact (h2.next (State.mark_moves _ _)).next (State.closeTest_moves _ _)
  · exact h2.next (State.closeTest_moves _ _)

theorem ackRule_moves (p : Nat) : Moves [.callouts, .storeWriting] s (ackRule p s).state := by
  unfold ackRule
  split
  · exact refl s
  · split
    · exact refl s
    · split
      · exact refl s
      · split
        · exact refl s
        · exact ((one (.callout s _ _)).mono).next (State.mark_moves _ _)

theorem closeCalloutRule_moves (p : Nat) : Moves calloutPieces s (closeCalloutRule p s).state := by
  unfold closeCalloutRule
  split
  · exact refl s
  · split
    · exact (s.closeRecord_moves _ _).trans (State.offerCallout_moves _ _)
    · split
      · exact (s.setOwed_moves _ _).mono
      · exact refl s

theorem confirmRule_moves (p : Nat) (col : Colorant) (r : Supply) :
    Moves [.reorders, .storeWriting] s (confirmRule p col r s).state := by
  unfold confirmRule
  split
  · exact refl s
  · split
    · exact refl s
    · split
      · exact refl s
      · exact ((one (.reorder s _ _)).mono).next (State.mark_moves _ _)

theorem cancelRule_moves (p : Nat) (col : Colorant) (r : Supply) : Moves supplyPieces s (cancelRule p col r s).state := by
  unfold cancelRule
  split
  · exact (((s.setSupply_moves _ _ _).mono (l := supplyPieces)).next (State.closeReorder_moves _ _ _)).next
      (State.offerReorder_moves _ _)
  · split
    · exact (s.setSupply_moves _ _ _).mono
    · exact refl s

theorem cartridgeRule_moves (p : Nat) (col : Colorant) (r : Supply) :
    Moves supplyPieces s (cartridgeRule p col r s).state :=
  (((s.setSupply_moves _ _ _).mono (l := supplyPieces)).next (State.cartridgeChange_moves _ _ _)).next
    (State.reorderTest_moves _ _ _)

/-! ### The Fleet Clock (file 08) -/

/-- The pieces that hours, midnights and their rolls reach, and everything that a clock event may do besides (R153 to R162). -/
def clockPieces : List Piece :=
  deliveryPieces ++ [.tariff, .reorders, .settings, .checkpointTimer, .idleTimer, .freeCount]

theorem State.takeHour_moves : Moves clockPieces s s.takeHour := by
  unfold State.takeHour
  split
  · exact ((one (.clock s { s.clock with hourRaised := false } id rfl)).mono).next (State.hourDecay_moves _)
  · exact refl s

theorem State.midnightRolls_moves (d : Nat) : Moves clockPieces s (s.midnightRolls d) := by
  unfold State.midnightRolls
  have h1 : Moves clockPieces s s.dayRoll := s.dayRoll_moves.mono
  dsimp only
  split
  · exact h1.next (State.periodRoll_moves _ _ _)
  · exact h1

theorem State.midnight_moves : Moves clockPieces s s.midnight := by
  unfold State.midnight
  have hc := fun (t : State) c hu hi hk => (one (.clock t c hu hi hk)).mono (l := clockPieces)
  split
  · exact refl s
  · split
    · exact hc s _ id rfl id
    next c _ _ =>
      have h1 := hc s { s.clock with calendar := some { day := c.day + 1, minute := 0 } } id rfl id
      dsimp only
      split
      · exact h1.trans (hc _ _ id rfl id)
      · exact h1.trans (State.midnightRolls_moves _ _)

theorem State.takeMidnight_moves : Moves clockPieces s s.takeMidnight := by
  unfold State.takeMidnight
  split
  · exact ((one (.clock s { s.clock with midnightRaised := false } id rfl)).mono).trans (State.midnight_moves _)
  · exact refl s

theorem State.takeRaised_moves : Moves clockPieces s s.takeRaised := s.takeHour_moves.trans (State.takeMidnight_moves _)

theorem State.advanceUptime_moves : Moves clockPieces s s.advanceUptime := by
  unfold State.advanceUptime
  have hn : (if s.clock.uptime < Config.maxUptime then s.clock.uptime + 1
      else (Config.uptimePastEnd s.freeCount).toNat) ≤ 4294967295 := by
    have hmax : Config.maxUptime = 4294967295 := rfl
    have := (Config.uptimePastEnd s.freeCount).isLt
    split <;> omega
  dsimp only
  generalize (if s.clock.uptime < Config.maxUptime then s.clock.uptime + 1
      else (Config.uptimePastEnd s.freeCount).toNat) = n at hn ⊢
  have h1 := (one (.clock s { s.clock with uptime := n, hourRaised := n % 60 == 0 } (fun _ => hn) rfl)).mono
    (l := clockPieces)
  exact h1.next (one (.freeCount _ (if s.clock.uptime < Config.maxUptime then s.freeCount else s.freeCount + 1)))

theorem State.advanceCalendar_moves : Moves clockPieces s s.advanceCalendar := by
  unfold State.advanceCalendar
  have h1 := fun c m => (one (.clock s { s.clock with calendar := c, midnightRaised := m } id rfl)).mono (l := clockPieces)
  split
  · exact refl s
  · split
    · exact h1 _ _
    · exact h1 _ _

theorem State.minute_moves : Moves clockPieces s s.minute := by
  unfold State.minute
  have h1 : Moves clockPieces s s.takeRaised.advanceUptime := s.takeRaised_moves.trans (State.advanceUptime_moves _)
  dsimp only
  split
  · exact h1.trans (State.advanceCalendar_moves _)
  · exact (h1.next (State.expireHeld_moves _)).trans (State.advanceCalendar_moves _)

theorem State.clockRolls_moves (c : Option Calendar) (d : Nat) : Moves clockPieces s (s.clockRolls c d) := by
  unfold State.clockRolls
  have h1 : ∀ b : Bool, Moves clockPieces s (if b then s.dayRoll else s) := fun b => by
    cases b
    · exact refl s
    · exact s.dayRoll_moves.mono
  have h2 : ∀ b : Bool, ∀ e : Bool, Moves clockPieces s
      (if (b || e) && decide ((if b then s.dayRoll else s).settings.nextRollDay ≤ d)
        then (if b then s.dayRoll else s).periodRoll (if b then s.dayRoll else s).nextRollCaught true
        else if b then s.dayRoll else s) := fun b e => by
    have h1 := h1 b
    generalize (if b then s.dayRoll else s) = t at h1 ⊢
    split
    · exact h1.next (State.periodRoll_moves _ _ _)
    · exact h1
  exact h2 _ _

theorem setClockRule_moves (b : Nat × Nat) : Moves clockPieces s (setClockRule b s).state := by
  unfold setClockRule
  split
  · exact refl s
  · have h1 := s.takeRaised_moves
    dsimp only
    generalize s.takeRaised = t at h1 ⊢
    have h2 := h1.next (one (.clock t { t.clock with calendar := some { day := b.1, minute := b.2 } } id rfl))
    exact h2.trans (State.clockRolls_moves _ _ _)

theorem rollRule_moves (b : Bool) : Moves rollPieces s (rollRule b s).state := s.periodRoll_moves _ _

theorem State.enterStandby_moves : Moves clockPieces s s.enterStandby := by
  unfold State.enterStandby
  have h1 := (one (.idleTimer s .stopped)).mono (l := clockPieces)
  have h2 := h1.next (one (.clock _ { s.clock with mode := .standby, idle := .stopped, midnights := 0 } id rfl))
  have h3 := h2.next (one (.checkpointTimer _ .stopped))
  have h4 := h3.next (one (.printersAll _ (fun e =>
      { e with presence := e.presence.suspend, limit := e.limit.suspend }) fun e h => h.of_eq rfl rfl))
  exact h4.next (one (.calloutsAll _ (fun c => c.map (fun r => { r with timer := r.timer.suspend }))))

theorem State.enterSettling_moves : Moves clockPieces s s.enterSettling := by
  unfold State.enterSettling
  have h1 := (one (.idleTimer s .stopped)).mono (l := clockPieces)
  have h2 := h1.next (one (.clock _ { s.clock with mode := .settling, idle := .stopped } id rfl))
  have h3 := h2.next (State.checkpointOccasion_moves _)
  dsimp only
  split
  · exact h3.trans (State.enterStandby_moves _)
  · exact h3

theorem standbyRule_moves : Moves clockPieces s (standbyRule s).state := by
  unfold standbyRule
  split
  · exact refl s
  · split
    · exact s.takeRaised_moves.trans (State.enterSettling_moves _)
    · exact refl s

theorem State.wakeRolls_moves : Moves clockPieces s s.wakeRolls := by
  unfold State.wakeRolls
  split
  · exact refl s
  · have h1 : Moves clockPieces s (if 0 < s.clock.midnights then s.dayRoll else s) := by
      split
      · exact s.dayRoll_moves.mono
      · exact refl s
    dsimp only
    generalize (if 0 < s.clock.midnights then s.dayRoll else s) = t at h1 ⊢
    split
    · exact h1.next (State.periodRoll_moves _ _ _)
    · exact h1

theorem State.resumeTimers_moves : Moves [.printers, .callouts] s s.resumeTimers := by
  unfold State.resumeTimers
  have h1 := (one (.printersAll s PrinterOf.woken fun e h => h.of_eq rfl rfl)).mono (l := [.printers, .callouts])
  exact h1.next (one (.calloutsAll _ (fun c => c.map (fun r => { r with timer := r.timer.carryOn }))))

theorem State.takeKept_moves : Moves deliveryPieces s s.takeKept := by
  unfold State.takeKept
  have h1 := (one (.clock s { s.clock with kept := [] } id rfl fun _ => Nat.zero_le _)).mono (l := deliveryPieces)
  exact h1.trans (Moves.foldl (fun t (f : Nat × Nat) => t.takeFaultMessage f.1 f.2)
    (fun s f => s.takeFaultMessage_moves f.1 f.2) _ _)

theorem State.awaken_moves : Moves clockPieces s s.awaken := by
  unfold State.awaken
  have h0 := s.takeRaised_moves
  dsimp only
  generalize s.takeRaised = t at h0 ⊢
  have h1 := (h0.next (one (.clock t { t.clock with mode := .running } id rfl))).next
    (one (.checkpointTimer _ (.running t.settings.checkpoint)))
  have h2 := h1.trans (State.wakeRolls_moves _)
  generalize State.wakeRolls _ = u at h2 ⊢
  have h3 := h2.next (one (.clock u { u.clock with midnights := 0 } id rfl))
  exact ((h3.next (State.expireHeld_moves _)).next (State.resumeTimers_moves _)).next (State.takeKept_moves _)

/-! ### Store, restart and console (files 09, 10) -/

theorem checkpointRule_moves : Moves [.storeWriting] s (checkpointRule s).state := s.checkpointOccasion_moves

theorem restartRule_moves : Moves [.restartPending, .resetRecord, .clock] s (restartRule s).state := by
  unfold restartRule
  have h1 := (one (.restartPending s true)).mono (l := [.restartPending, .resetRecord, .clock])
  exact (h1.next (one (.resetRecord _ { s.store.reset with cause := .console }))).next (State.abandonSettling_moves _)

theorem settingsRule_moves (b : Nat × Settings) : Moves [.settings, .storeWriting] s (settingsRule b s).state := by
  unfold settingsRule
  split
  · exact refl s
  · exact ((one (.settings s _)).mono).next (State.mark_moves _ _)

theorem classifierRule_moves (b : Nat × ClassEntry) : Moves [.classifier, .storeWriting] s (classifierRule b s).state := by
  unfold classifierRule
  split
  · exact refl s
  · dsimp only
    split
    · exact ((one (.classifier s _ _)).mono).next (State.mark_moves _ _)
    · exact ((one (.default s _)).mono).next (State.mark_moves _ _)

theorem tariffRule_moves (b : Nat × Row) : Moves [.tariff, .storeWriting] s (tariffRule b s).state := by
  unfold tariffRule
  split
  · exact refl s
  · exact s.writePending_moves _ _

theorem State.validate_moves (k : Nat) : Moves [.accounts, .storeWriting] s (s.validate k) := by
  refine s.setBalance_moves k _ fun h => ⟨?_, h.2⟩
  simp only [overdrawnFlag]
  split <;> simp

/-- The pieces that an account write reaches (R42, R43). -/
def accountPieces : List Piece := endPieces ++ [.freeCount]

theorem State.invalidate_moves (k : Nat) : Moves accountPieces s (s.invalidate k) := by
  have := Moves.foldl (l := endPieces) (fun (t : State) g => t.endTag g .purged) (fun s g => s.endTag_moves g _)
    (((s.jobsOf k).filter (fun j => j.state == .receiving)).map Job.tag ++ (s.account k).held) s
  exact this.mono

theorem State.mark_setAccount (k n : Nat) (a : Account) : (s.setAccount k a).mark n = (s.mark n).setAccount k a := by
  unfold State.mark State.enqueue
  rw [apply_ite (State.setAccount · k a)]
  rfl

@[simp] theorem State.mark_account (n k : Nat) : (s.mark n).account k = s.account k := by
  simp only [State.mark, State.enqueue]
  split <;> rfl

/-- An account whose configuration is replaced, its failures cleared when the PIN changes and its overdrawn flag evaluated
when the budget does (R42). -/
theorem State.written_moves (k : Nat) (new : AccountConfig) :
    Moves ([.accounts, .storeWriting] ++ noticeTraffic) s
      ((s.setAccount k { s.account k with cfg := new }).afterAccountWrite k (s.account k).cfg new) := by
  have key : Moves ([.accounts, .storeWriting] ++ noticeTraffic) s
      (if new.budget ≠ (s.account k).cfg.budget then
        (if new.pin ≠ (s.account k).cfg.pin then
          (s.setAccount k { s.account k with cfg := new }).setBalance k
            { (s.setAccount k { s.account k with cfg := new }).account k with failures := 0 }
          else s.setAccount k { s.account k with cfg := new }).evalOverdrawn k
        else (if new.pin ≠ (s.account k).cfg.pin then
          (s.setAccount k { s.account k with cfg := new }).setBalance k
            { (s.setAccount k { s.account k with cfg := new }).account k with failures := 0 }
          else s.setAccount k { s.account k with cfg := new })) := by
    by_cases hb : new.budget ≠ (s.account k).cfg.budget
    · rw [if_pos hb]
      split
      · simp only [State.setBalance, State.account_setAccount, if_true, State.setAccount_setAccount]
        rw [State.mark_setAccount]
        have h0 : Moves ([.accounts, .storeWriting] ++ noticeTraffic) s (s.mark (balanceSlot k)) := (s.mark_moves _).mono
        exact h0.next (State.changed_moves _ k _ fun h => by simpa using h.2)
      · exact (s.changed_moves k { s.account k with cfg := new } fun h => h.2).mono
    · have hb' : new.budget = (s.account k).cfg.budget := not_not.1 hb
      have h1 : Moves ([.accounts, .storeWriting] ++ noticeTraffic) s (s.setAccount k { s.account k with cfg := new }) :=
        (s.setAccount_moves k { s.account k with cfg := new } fun h => ⟨by simpa [hb'] using h.1, h.2⟩).mono
      rw [if_neg hb]
      generalize s.setAccount k { s.account k with cfg := new } = t at h1 ⊢
      split
      · exact h1.next (t.setBalance_moves k { t.account k with failures := 0 } fun h => ⟨h.1, h.2⟩)
      · exact h1
  exact key.next (State.mark_moves _ _)

theorem State.freeCount_setAccount (k n : Nat) (a : Account) :
    ({ s.setAccount k a with freeCount := n } : State) = ({ s with freeCount := n } : State).setAccount k a := rfl

theorem State.writeAccount_moves (k : Nat) (c : AccountConfig) : Moves accountPieces s (s.writeAccount k c) := by
  unfold State.writeAccount
  have h0 := fun n => (one (.freeCount s n)).mono (l := accountPieces)
  dsimp only
  rw [State.freeCount_setAccount]
  generalize (if Budget.inRange c.budget = true then s.freeCount else s.freeCount + 1) = n
  generalize AccountConfig.stored c s.freeCount = new
  have h1 := (h0 n).next (State.written_moves _ k new)
  change Moves accountPieces s ((({ s with freeCount := n } : State).setAccount k { s.account k with cfg := new }).afterAccountWrite k
    (s.account k).cfg new) at h1
  generalize (({ s with freeCount := n } : State).setAccount k { s.account k with cfg := new }).afterAccountWrite k
    (s.account k).cfg new = t at h1 ⊢
  split
  · exact h1.next (State.validate_moves _ _)
  · split
    · exact h1.trans (State.invalidate_moves _ _)
    · exact h1

theorem accountRule_moves (b : Nat × AccountConfig) : Moves accountPieces s (accountRule b s).state := by
  unfold accountRule
  split
  · exact refl s
  · split
    · exact refl s
    · exact s.writeAccount_moves _ _

theorem queryRule_moves (b : Bool) : Moves [.sticky] s (queryRule b s).state := by
  unfold queryRule
  cases b
  · exact refl s
  · exact one (.sticky s false false false)

theorem adjustRule_moves (b : Nat × Int) : Moves ([.accounts, .storeWriting] ++ noticeTraffic) s (adjustRule b s).state := by
  unfold adjustRule onAccount
  split
  · exact refl s
  · split
    · exact refl s
    · have h1 := (s.changed_moves b.1 { s.account b.1 with spent := adjusted (s.account b.1).spent b.2 } fun h => h.2).mono
        (l := [.accounts, .storeWriting] ++ noticeTraffic)
      exact h1.next (State.mark_moves _ _)

theorem unlockRule_moves (k : Nat) : Moves [.accounts, .storeWriting] s (unlockRule k s).state :=
  s.setBalance_moves k { s.account k with
    failures := 0, state := if (s.account k).state = .locked then .isOpen else (s.account k).state } fun h => ⟨h.1, h.2⟩

theorem suspendRule_moves (k : Nat) : Moves [.accounts, .storeWriting] s (suspendRule k s).state := by
  unfold suspendRule
  split
  · exact s.setBalance_moves k { s.account k with state := .suspended } fun h => ⟨h.1, h.2⟩
  · exact refl s
  · exact refl s

theorem resumeRule_moves (k : Nat) : Moves [.accounts, .storeWriting] s (resumeRule k s).state := by
  unfold resumeRule
  split
  · exact refl s
  · exact s.setBalance_moves k { s.account k with state := .isOpen } fun h => ⟨h.1, h.2⟩
  · exact refl s

/-! ### The write of a Printer Table entry (R84, R130, R136) -/

/-- The pieces that a printer write reaches. -/
def printerPieces : List Piece := supplyPieces ++ [.callouts]

theorem State.configure_moves (p : Nat) (f : PrinterFields) : Moves printerPieces s (s.configure p f) := by
  unfold State.configure
  have h1 := (s.updPrinter_moves_sound p (fun e =>
    { e.healthReset ((printerConfigStored f.cfg).mode != .silent) with cfg := printerConfigStored f.cfg, service := .parked })
    fun _ => ⟨Nat.zero_le _, fun _ => rfl⟩).mono (l := printerPieces)
  have h2 := (h1.next (State.mark_moves _ (printerSlot p))).next (State.mark_moves _ (healthSlot p))
  exact h2.next (Moves.foldl (fun (t : State) col => t.createSupply p col (supplyStored (f.supply col)))
    (fun s col => s.createSupply_moves p col _) _ _)

theorem State.unconfigure_moves (p : Nat) (f : PrinterFields) : Moves printerPieces s (s.unconfigure p f) := by
  unfold State.unconfigure
  have h1 := (s.updPrinter_moves_sound p (fun e =>
    { e.healthReset false with cfg := printerConfigStored f.cfg, service := .unused })
    fun _ => ⟨Nat.zero_le _, fun _ => rfl⟩).mono (l := printerPieces)
  have h2 := (h1.next (State.mark_moves _ (printerSlot p))).next (State.mark_moves _ (healthSlot p))
  dsimp only
  generalize State.mark _ (healthSlot p) = t at h2 ⊢
  have h3 : Moves printerPieces s (match t.calloutOf p with
    | some i => (t.closeRecord i .entryRemoved).offerCallout i
    | none => t) := by
    split
    · exact (h2.next (State.closeRecord_moves _ _ _)).next (State.offerCallout_moves _ _)
    · exact h2
  exact h3.next (State.removeSupplies_moves _ _ _ _)

theorem State.changeMode_moves (p : Nat) (a b : ReportMode) : Moves printerPieces s (s.changeMode p a b) := by
  unfold State.changeMode
  split
  · exact ((s.updPrinter_moves p _).mono).next (State.closeTest_moves _ _)
  · split
    · exact (s.updPrinter_moves p _).mono
    · exact refl s

theorem State.writeSupply_moves (p : Nat) (f : SupplyFields) (b : Bool) (col : Colorant) :
    Moves printerPieces s (s.writeSupply p f b col) := by
  unfold State.writeSupply
  split
  · exact refl s
  · exact (s.setSupply_moves _ _ _).mono

theorem State.changeColour_moves (p : Nat) (a b : Bool) : Moves printerPieces s (s.changeColour p a b) := by
  unfold State.changeColour
  split
  · exact refl s
  · split
    · exact (Moves.foldl (fun (t : State) col => t.createSupply p col SupplyFields.factory)
        (fun s col => s.createSupply_moves p col _) _ _).mono
    · exact (s.removeSupplies_moves _ _ _).mono

theorem State.reconfigure_moves (p : Nat) (f : PrinterFields) : Moves printerPieces s (s.reconfigure p f) := by
  unfold State.reconfigure
  have h1 := ((s.updPrinter_moves p (fun e => { e with cfg := printerConfigStored f.cfg })).mono
    (l := printerPieces)).next (State.mark_moves _ (printerSlot p))
  have h2 := h1.trans (State.changeMode_moves _ p (s.printer p).cfg.mode (printerConfigStored f.cfg).mode)
  have h3 := fun (t : State) l b => Moves.foldl (l := printerPieces)
    (fun (t : State) col => t.writeSupply p (f.supply col) b col) (fun s col => s.writeSupply_moves p _ _ col) l t
  exact (h2.trans (h3 _ _ _)).trans (State.changeColour_moves _ _ _ _)

theorem State.writePrinter_moves (p : Nat) (f : PrinterFields) : Moves printerPieces s (s.writePrinter p f) := by
  unfold State.writePrinter
  split
  · exact ((s.updPrinter_moves p _).mono).next (State.mark_moves _ _)
  · exact s.configure_moves p f
  · exact s.unconfigure_moves p f
  · exact s.reconfigure_moves p f

theorem printerRule_moves (b : Nat × PrinterFields) : Moves printerPieces s (printerRule b s).state := by
  unfold printerRule
  split
  · exact refl s
  · split
    · exact refl s
    · exact s.writePrinter_moves _ _

/-! ### Ports (file 11) -/

theorem PortState.passHeld_pass1 (q : PortState) (f : EthFrame) (h : q.passHeld ≤ 65536) : (q.pass1 f).passHeld ≤ 65536 := by
  unfold PortState.pass1
  split
  next hf =>
    have hf : q.passHeld + f.bytes.length ≤ 65536 := hf
    simpa [PortState.passHeld] using hf
  next => exact h

theorem PortState.own_pass1 (q : PortState) (f : EthFrame) : (q.pass1 f).own = q.own := by
  unfold PortState.pass1
  split <;> rfl

theorem PortState.served_pass1 (q : PortState) (f : EthFrame) : (q.pass1 f).served = q.served := by
  unfold PortState.pass1
  split <;> rfl

theorem PortState.served_transmit (q : PortState) : q.transmit.served = q.served := by
  unfold PortState.transmit
  split
  case h_4 => split <;> rfl
  all_goals rfl

theorem PortState.transmit_bounds (q : PortState) :
    q.transmit.passHeld ≤ q.passHeld ∧ q.transmit.own.length ≤ q.own.length := by
  unfold PortState.transmit
  split
  next => exact ⟨le_rfl, le_rfl⟩
  next h h' => simp [PortState.passHeld, h]
  next h h' => simp [PortState.passHeld, h']
  next h h' => split <;> simp [PortState.passHeld, h, h']

/-- A port replaced. -/
theorem State.office_moves (q : PortState) (ho : s.oport.own.length ≤ 32 → q.own.length ≤ 32)
    (hp : s.oport.passHeld ≤ 65536 → q.passHeld ≤ 65536) (ht : s.oport.served ≤ 2 → q.served ≤ 2) :
    Moves [.officeOwn, .officeOther] s { s with oport := q } :=
  one (.officePort s q ho hp ht)

theorem State.fleet_moves (q : PortState) (ho : s.fport.own.length ≤ 32 → q.own.length ≤ 32)
    (hp : s.fport.passHeld ≤ 65536 → q.passHeld ≤ 65536) (ht : s.fport.served ≤ 1 → q.served ≤ 1) :
    Moves [.fleetOwn, .fleetOther] s { s with fport := q } :=
  one (.fleetPort s q ho hp ht)

theorem State.stray_moves : Moves [.sticky] s s.stray := one (.sticky s _ _ true)

theorem nextTurn_lt {n served i : Nat} {ready : Nat → Bool} (hn : 0 < n) (h : nextTurn n served ready = some i) : i < n := by
  obtain ⟨k, _, rfl⟩ := List.mem_map.1 (List.mem_of_find?_eq_some h)
  exact Nat.mod_lt _ hn

theorem State.room_of_streamTurn {s : State} {p : Nat} (h : s.streamTurn p = true) : s.fport.room = true := by
  simp only [State.streamTurn, Bool.and_eq_true] at h
  exact h.1.1

theorem State.index_of_streamTurn {s : State} {p : Nat} (h : s.streamTurn p = true) : p ≤ 63 := by
  simp only [State.streamTurn, Bool.and_eq_true, beq_iff_eq] at h
  exact Nat.le_of_lt_succ (nextTurn_lt (by decide) h.2)

theorem State.placeStream_moves (p : Nat) (m : OwnMsg) (h : s.streamTurn p = true) :
    Moves [.fleetOwn, .fleetOther, .printerTurn] s (s.placeStream p m) := by
  have h1 := (s.fleet_moves (s.fport.placeFrom 1 m) (PortState.length_place (State.room_of_streamTurn h)) id
    (fun _ => le_refl 1)).mono (l := [.fleetOwn, .fleetOther, .printerTurn])
  exact h1.next (one (.printerTurn _ p (State.index_of_streamTurn h)))

/-- The pieces that a stream message's placing reaches (R90, R92). -/
def placePieces : List Piece := deliveryPieces ++ [.fleetOther, .printerTurn]

theorem State.placeControl_moves (p : Nat) (h : s.streamTurn p = true) : Moves placePieces s (s.placeControl p) := by
  unfold State.placeControl
  split
  · exact refl s
  next m rest _ =>
    have h1 := ((s.placeStream_moves p m h).mono (l := placePieces)).next
      (State.updPrinter_moves _ p (fun e => { e with control := rest }))
    dsimp only
    split
    · exact h1
    · exact h1.next (State.restartStall_moves _ _)

theorem State.placeChunk_moves (p : Nat) (j : Job) (d : List Byte) (h : s.streamTurn p = true) :
    Moves placePieces s (s.placeChunk p j d) :=
  ((s.placeStream_moves p _ h).mono).next (State.updJob_moves _ _ _)

theorem State.finishStream_moves (p : Nat) (j : Job) : Moves deliveryPieces s (s.finishStream p j) := by
  unfold State.finishStream
  have h1 := fun f hf => (s.updJob_moves j.tag f hf).mono (l := deliveryPieces)
  split
  · exact (((h1 (fun x => { x with state := .finishing }) fun _ => ⟨⟨rfl, rfl, rfl, rfl⟩, rfl, nofun⟩).next
      (State.handFaces_moves _ _ _ _)).next (State.settleJob_moves _ _ _)).next (State.endTag_moves _ _ _)
  · exact h1 _ fun _ => ⟨⟨rfl, rfl, rfl, rfl⟩, rfl, nofun⟩

theorem State.placeEnd_moves (p : Nat) (j : Job) (h : s.streamTurn p = true) : Moves placePieces s (s.placeEnd p j) :=
  ((((s.placeStream_moves p _ h).mono (l := placePieces)).next
    (State.updPrinter_moves _ p (fun e => { e with stall := .stopped }))).next
    (State.finishStream_moves _ _ _)).next (State.startStream_moves _ _)

theorem State.room_of_officeTurn {s : State} {i : Nat} (h : s.officeTurn i = true) : s.oport.room = true := by
  simp only [State.officeTurn, Bool.and_eq_true] at h
  exact h.1

end Sys2Proof.Machine
end

