-- ==== Sys2Proof/Laws/Commands.lean ====
section
/-! SUPPORT. What a command can do: how each kind of message reaches its rule, and, for every command but those that end or
begin the life of the part, the moves it is made of. -/

namespace Sys2Proof.Machine

set_option Elab.async false

open Moves

variable {s t : State} {l : List Piece}

/-! ### What a message passes before its rule -/

theorem State.whenUp_up (act : State → State) (h : s.phase = .up) : s.whenUp act = .next (act s).finish := if_pos h

theorem jobMessage_ready {α : Type} {h : Hdr} {x : α} {act : α → State → State} (hr : JobReady h s) :
    jobMessage h (some x) act s = .next (act x s).finish := by
  have hlt : ¬ Config.outgoingBusy ≤ s.jobs.outgoing.length := Nat.not_le.2 hr.room
  simp [jobMessage, State.whenUp, hr.up, hr.port, hlt]

theorem printerMessage_ready {h : Hdr} {p : Nat} {act : Nat → State → State} (hr : PrinterReady h p s) :
    printerMessage h act s = .next (act p s).finish := by
  simp [printerMessage, State.whenUp, hr.up, hr.port, hr.station]

theorem deliveryMessage_ready {α : Type} {h : Hdr} {p : Nat} {x : α} {act : α → Nat → State → State}
    (hr : PrinterReady h p s) : deliveryMessage h (some x) act s = .next (act x p (s.frameFrom p)).finish := by
  rw [deliveryMessage, printerMessage_ready hr]
  simp [hr.awake]

@[simp] theorem State.restartIdle_classEntry (i : Nat) : s.restartIdle.classEntry i = s.classEntry i := by
  unfold State.restartIdle
  split <;> rfl

@[simp] theorem State.restartIdle_hit (i : Nat) : s.restartIdle.hit i = s.hit i := by
  unfold State.restartIdle
  split <;> rfl

@[simp] theorem State.restartIdle_asleep : s.restartIdle.asleep = s.asleep := by
  unfold State.restartIdle
  split <;> rfl

@[simp] theorem State.restartIdle_restartPending : s.restartIdle.restartPending = s.restartPending := by
  unfold State.restartIdle
  split <;> rfl

/-- R174: a request that passes its gates is carried out, answered, and the step ends. -/
theorem mgmtRequest_ready {α : Type} {h : Hdr} {x : α} {act : α → State → Reply} (hr : ConsoleReady h s) :
    mgmtRequest h (some x) act s =
      .next ((act x s.restartIdle).state.reply h 0 (act x s.restartIdle).result (act x s.restartIdle).body).finish := by
  simp [mgmtRequest, State.whenUp, hr.up, hr.port, hr.idle, hr.rights, hr.awake, hr.steady]

/-! ### Moves of a message -/

theorem State.whenUp_moves {act : State → State} (ha : Moves l s (act s)) (he : ∀ p ∈ endOfStep, p ∈ l)
    (h : s.whenUp act = .next t) : Moves l s t := by
  unfold State.whenUp at h
  split at h
  · obtain rfl := Host.Outcome.next.inj h
    exact ha.next (State.finish_moves _) he
  · obtain rfl := Host.Outcome.next.inj h
    exact refl s

theorem jobMessage_moves {α : Type} {hd : Hdr} {b : Option α} {act : α → State → State}
    (ha : ∀ x, s.jobs.outgoing.length < 4096 → Moves l s (act x s)) (he : ∀ p ∈ endOfStep ++ jobTraffic, p ∈ l)
    (h : jobMessage hd b act s = .next t) : Moves l s t := by
  refine State.whenUp_moves ?_ (fun p hp => he p (List.mem_append_left _ hp)) h
  split
  · exact refl s
  next hb =>
    have hr : s.jobs.outgoing.length < 4096 := by
      have h32 : Config.outgoingBusy = 32 := rfl
      simp only [Bool.or_eq_true, decide_eq_true_eq, not_or, not_le] at hb
      omega
    split
    · exact (s.jobReply_moves _ _ _ _ hr).mono fun p hp => he p (List.mem_append_right _ hp)
    · exact ha _ hr

theorem printerMessage_moves {hd : Hdr} {act : Nat → State → State} (ha : ∀ p, Moves l s (act p s))
    (he : ∀ p ∈ endOfStep ++ [.sticky], p ∈ l) (h : printerMessage hd act s = .next t) : Moves l s t := by
  refine State.whenUp_moves ?_ (fun p hp => he p (List.mem_append_left _ hp)) h
  split
  · exact s.stray_moves.mono fun p hp => he p (List.mem_append_right _ hp)
  · split
    · exact s.stray_moves.mono fun p hp => he p (List.mem_append_right _ hp)
    · exact ha _

theorem deliveryMessage_moves {α : Type} {hd : Hdr} {b : Option α} {act : α → Nat → State → State}
    (ha : ∀ x p u, Moves l u (act x p u)) (he : ∀ p ∈ endOfStep ++ [.sticky] ++ framePieces, p ∈ l)
    (h : deliveryMessage hd b act s = .next t) : Moves l s t := by
  refine printerMessage_moves (fun p => ?_) (fun p hp => he p (List.mem_append_left _ hp)) h
  have hf : Moves l s (s.frameFrom p) := (s.frameFrom_moves p).mono fun p hp => he p (List.mem_append_right _ hp)
  split
  · exact refl s
  · split
    · exact hf
    · exact hf.trans (ha _ _ _)

theorem State.answerPanel_moves (s : State) (h : Hdr) (g : Nat) (r : Result) (x : Option Nat) (es : List AnswerEntry) :
    Moves [.fleetOwn, .answer] s (s.answerPanel h g r x es) := s.sendAnswer_moves _

/-- The pieces that a panel request reaches. -/
def panelPieces : List Piece := deliveryPieces ++ [.answer]

theorem panelRequest_moves {hd : Hdr} {b : Option AskBody} {act : Option (Nat → Nat → State → PanelAnswer)}
    (ha : ∀ f, act = some f → ∀ p k u, Moves panelPieces u (f p k u).state) (hl : ∀ p ∈ panelPieces ++ endOfStep, p ∈ l)
    (h : panelRequest hd b act s = .next t) : Moves l s t := by
  have hl' : ∀ p ∈ panelPieces, p ∈ l := fun p hp => hl p (List.mem_append_left _ hp)
  refine printerMessage_moves (fun p => ?_) (fun p hp => hl p ?_) h
  · have hf : Moves panelPieces s (s.frameFrom p) := (s.frameFrom_moves p).mono
    refine Moves.mono (m := panelPieces) ?_ hl'
    dsimp only
    generalize s.frameFrom p = u at hf ⊢
    split
    · split
      · exact hf
      · exact hf.next (State.answerPanel_moves _ _ _ _ _ _)
    · split
      · have hw : Moves panelPieces s u.wake := hf.next u.wake_moves
        split
        · exact hw
        · exact hw.next (State.answerPanel_moves _ _ _ _ _ _)
      · split
        · exact hf
        · split
          · exact hf.next (State.answerPanel_moves _ _ _ _ _ _)
          next f =>
            have hm := hf.next (u.authenticate_moves ‹AskBody›)
            split
            next heq =>
              rw [heq] at hm
              exact hm.next (State.answerPanel_moves _ _ _ _ _ _)
            next heq =>
              rw [heq] at hm
              exact (hm.trans (ha f rfl _ _ _)).next (State.answerPanel_moves _ _ _ _ _ _)
  · revert p hp
    decide

theorem State.restartIdle_moves (s : State) : Moves [.idleTimer] s s.restartIdle := by
  unfold State.restartIdle
  split
  · exact one (.idleTimer s _)
  · exact refl s

theorem State.reply_moves (s : State) (h : Hdr) (g : Nat) (r : Result) (b : ReplyBody) :
    Moves [.officeOwn, .reply] s (s.reply h g r b) := s.sendReply_moves _

theorem mgmtRequest_moves {α : Type} {hd : Hdr} {b : Option α} {act : α → State → Reply}
    (ha : ∀ x u, Moves l u (act x u).state) (hl : ∀ p ∈ replyTraffic ++ [.clock], p ∈ l)
    (h : mgmtRequest hd b act s = .next t) : Moves l s t := by
  have hl' : ∀ (m : List Piece), (∀ p ∈ m, p ∈ replyTraffic ++ [.clock]) → ∀ p ∈ m, p ∈ l := fun m hm p hp => hl p (hm p hp)
  refine State.whenUp_moves ?_ (hl' _ (by decide)) h
  split
  · exact refl s
  · have hi : Moves l s s.restartIdle := s.restartIdle_moves.mono (hl' _ (by decide))
    have hr := fun (u : State) g r x => (State.reply_moves u hd g r x).mono (l := l) (hl' _ (by decide))
    dsimp only
    split
    · exact hi.trans (hr _ _ _ _)
    · split
      · exact hi.trans (hr _ _ _ _)
      · split
        · exact (hi.trans ((State.wake_moves _).mono (hl' _ (by decide)))).trans (hr _ _ _ _)
        · split
          · exact hi.trans (hr _ _ _ _)
          · exact (hi.trans (ha _ _)).trans (hr _ _ _ _)

theorem onPrinter_moves {act : Nat → State → Reply} {p : Nat} (ha : Moves l s (act p s).state) :
    Moves l s (onPrinter act p s).state := by
  unfold onPrinter
  split
  · exact refl s
  · split
    · exact refl s
    · exact ha

theorem onAccount_moves {act : Nat → State → Reply} {k : Nat} (ha : Moves l s (act k s).state) :
    Moves l s (onAccount act k s).state := by
  unfold onAccount
  split
  · exact refl s
  · split
    · exact refl s
    · exact ha

theorem onColorant_moves {act : Nat → Colorant → Supply → State → Reply} {b : Nat × Colorant}
    (ha : ∀ r, Moves l s (act b.1 b.2 r s).state) : Moves l s (onColorant act b s).state := by
  unfold onColorant
  refine onPrinter_moves ?_
  split
  · exact refl s
  · exact ha _

/-! ### Every command but those of power and restart -/

/-- Every piece but the phase and the queue of commands. -/
def ordinaryPieces : List Piece :=
  jobPieces ++ clockPieces ++ openPieces ++ [.spoolBytes, .classifier, .answer, .printerTurn, .slots, .resetRecord,
    .restartPending, .reply, .officeOther, .fleetOther]

/-- The commands that end or begin the life of the part (R167, R169, R171, R173). -/
def Instr.isVital : Instr → Bool
  | .restartComplete => true
  | .powerLoss => true
  | .coldStart _ => true
  | .startUpComplete => true
  | _ => false

/-- The ordinary pieces are all but two. -/
theorem mem_ordinaryPieces : ∀ p : Piece, (p ≠ .phase && p ≠ .pending) = true → p ∈ ordinaryPieces := by
  intro p
  cases p <;> decide

/-- A rule's moves, within the ordinary pieces. -/
theorem Moves.ordinary {m : List Piece} {s t : State} (h : Moves m s t)
    (hm : m.all (fun p => p ≠ .phase && p ≠ .pending) = true := by decide) : Moves ordinaryPieces s t :=
  h.mono fun p hp => mem_ordinaryPieces p (List.all_eq_true.1 hm p hp)

theorem ordinary_job {α : Type} {hd : Hdr} {b : Option α} {act : α → State → State}
    (ha : ∀ x, s.jobs.outgoing.length < 4096 → Moves ordinaryPieces s (act x s)) (h : jobMessage hd b act s = .next t) :
    Moves ordinaryPieces s t :=
  jobMessage_moves ha (fun p hp => mem_ordinaryPieces p (by revert p; decide)) h

theorem ordinary_delivery {α : Type} {hd : Hdr} {b : Option α} {act : α → Nat → State → State}
    (ha : ∀ x p u, Moves ordinaryPieces u (act x p u)) (h : deliveryMessage hd b act s = .next t) :
    Moves ordinaryPieces s t := deliveryMessage_moves ha (fun p hp => mem_ordinaryPieces p (by revert p; decide)) h

theorem ordinary_panel {hd : Hdr} {b : Option AskBody} {act : Option (Nat → Nat → State → PanelAnswer)}
    (ha : ∀ f, act = some f → ∀ p k u, Moves panelPieces u (f p k u).state) (h : panelRequest hd b act s = .next t) :
    Moves ordinaryPieces s t := panelRequest_moves ha (fun p hp => mem_ordinaryPieces p (by revert p; decide)) h

theorem ordinary_mgmt {α : Type} {hd : Hdr} {b : Option α} {act : α → State → Reply}
    (ha : ∀ x u, Moves ordinaryPieces u (act x u).state) (h : mgmtRequest hd b act s = .next t) :
    Moves ordinaryPieces s t := mgmtRequest_moves ha (fun p hp => mem_ordinaryPieces p (by revert p; decide)) h

theorem ordinary_up {act : State → State} (ha : Moves ordinaryPieces s (act s)) (h : s.whenUp act = .next t) :
    Moves ordinaryPieces s t := State.whenUp_moves ha (fun p hp => mem_ordinaryPieces p (by revert p; decide)) h

theorem execJobOpen_moves {hd : Hdr} {b : Option JobOpenBody} (h : execJobOpen hd b s = .next t) :
    Moves ordinaryPieces s t := by
  unfold execJobOpen at h
  exact ordinary_job (fun x hr => (openJob_moves s hd x hr).ordinary) h

theorem execJobData_moves {hd : Hdr} {b : Option JobDataBody} (h : execJobData hd b s = .next t) :
    Moves ordinaryPieces s t := by
  unfold execJobData at h
  exact ordinary_job (fun x hr => (takeData_moves s hd x hr).ordinary) h

theorem execJobClose_moves {hd : Hdr} {n : Option Nat} (h : execJobClose hd n s = .next t) :
    Moves ordinaryPieces s t := by
  unfold execJobClose at h
  exact ordinary_job (fun x hr => (closeJob_moves s hd x hr).ordinary) h

theorem execJobCancel_moves {hd : Hdr} {f : Bool} (h : execJobCancel hd f s = .next t) :
    Moves ordinaryPieces s t := by
  unfold execJobCancel at h
  exact ordinary_job (fun _ hr => (cancelJob_moves s hd hr).ordinary) h

theorem execReceiveIdleExpiry_moves {i : Nat} (h : execReceiveIdleExpiry i s = .next t) :
    Moves ordinaryPieces s t := by
  unfold execReceiveIdleExpiry at h
  refine ordinary_up ?_ h
  split
  · split
    · exact (s.endTag_moves _ _).ordinary
    · exact refl s
  · exact refl s

theorem execList_moves {hd : Hdr} {b : Option AskBody} (h : execList hd b s = .next t) :
    Moves ordinaryPieces s t := by
  unfold execList at h
  exact ordinary_panel (fun f hf p k u => by obtain rfl := Option.some.inj hf; exact refl u) h

theorem execReleaseAll_moves {hd : Hdr} {b : Option AskBody} (h : execReleaseAll hd b s = .next t) :
    Moves ordinaryPieces s t := by
  unfold execReleaseAll at h
  exact ordinary_panel (fun f hf p k u => by obtain rfl := Option.some.inj hf; exact (u.walk_moves _ _ _).mono) h

theorem execReleaseOne_moves {hd : Hdr} {b : Option AskBody} (h : execReleaseOne hd b s = .next t) :
    Moves ordinaryPieces s t := by
  unfold execReleaseOne at h
  refine ordinary_panel (fun f hf p k u => ?_) h
  obtain rfl := Option.some.inj hf
  unfold releaseOneRule
  split
  · exact refl u
  · exact (u.examine_moves _ _).mono

theorem execDeleteOne_moves {hd : Hdr} {b : Option AskBody} (h : execDeleteOne hd b s = .next t) :
    Moves ordinaryPieces s t := by
  unfold execDeleteOne at h
  refine ordinary_panel (fun f hf p k u => ?_) h
  obtain rfl := Option.some.inj hf
  dsimp only
  unfold deleteOneRule
  split
  · exact refl u
  next j hj =>
    refine (u.endJob_moves j _ ?_).mono
    unfold State.heldJob at hj
    split at hj
    next j' hj' =>
      split at hj
      · obtain rfl := Option.some.inj hj
        exact (u.tag_of_job hj').symm ▸ hj'
      · exact nomatch hj
    · exact nomatch hj

theorem execUnknownReleaseRequest_moves {hd : Hdr} {b : Option AskBody} (h : execUnknownReleaseRequest hd b s = .next t) :
    Moves ordinaryPieces s t := by
  unfold execUnknownReleaseRequest at h
  exact ordinary_panel (fun f hf => absurd hf (by simp)) h

theorem execGrant_moves {hd : Hdr} {b : Option Nat} (h : execGrant hd b s = .next t) :
    Moves ordinaryPieces s t := by
  unfold execGrant at h
  exact ordinary_delivery (fun x p u => (grantRule_moves u hd x p).ordinary) h

theorem execPageReport_moves {hd : Hdr} {b : Option PageReportBody} (h : execPageReport hd b s = .next t) :
    Moves ordinaryPieces s t := by
  unfold execPageReport at h
  exact ordinary_delivery (fun x p u => (pageReportRule_moves u hd x p).ordinary) h

theorem execStatus_moves {hd : Hdr} {b : Option StatusBody} (h : execStatus hd b s = .next t) :
    Moves ordinaryPieces s t := by
  unfold execStatus at h
  exact ordinary_delivery (fun x p u => (statusRule_moves u x p).ordinary) h

theorem execFault_moves {hd : Hdr} {k : Option Nat} (h : execFault hd k s = .next t) :
    Moves ordinaryPieces s t := by
  unfold execFault at h
  refine printerMessage_moves (fun p => ?_) (fun p hp => mem_ordinaryPieces p (by revert p; decide)) h
  split
  · split
    · exact refl s
    · exact (s.frameFrom_moves p).ordinary
  · split
    · exact (s.keepFault_moves _ _).ordinary
    · exact (s.takeFaultMessage_moves _ _).ordinary

theorem execStallTimerExpiry_moves {p : Nat} (h : execStallTimerExpiry p s = .next t) :
    Moves ordinaryPieces s t := by
  unfold execStallTimerExpiry at h
  refine ordinary_up ?_ h
  split
  · exact (s.stallExpiry_moves p).ordinary
  · exact refl s

theorem execFinishTimerExpiry_moves {g : Nat} (h : execFinishTimerExpiry g s = .next t) :
    Moves ordinaryPieces s t := by
  unfold execFinishTimerExpiry at h
  refine ordinary_up ?_ h
  split
  · split
    · exact (s.finishExpiry_moves _ _).ordinary
    · exact refl s
  · exact refl s

theorem execPresenceTimerExpiry_moves {p : Nat} (h : execPresenceTimerExpiry p s = .next t) :
    Moves ordinaryPieces s t := by
  unfold execPresenceTimerExpiry at h
  refine ordinary_up ?_ h
  split
  · exact ((s.updPrinter_moves p _).ordinary).next (State.setStanding_moves _ _ _)
  · exact refl s

theorem execStandingLimitExpiry_moves {p : Nat} (h : execStandingLimitExpiry p s = .next t) :
    Moves ordinaryPieces s t := by
  unfold execStandingLimitExpiry at h
  refine ordinary_up ?_ h
  split
  · exact (((s.updPrinter_moves p _).ordinary).next (State.evacuate_moves _ _ _)).next (State.raiseCallout_moves _ _ _ _)
  · exact refl s

theorem execRenotifyTimerExpiry_moves {i : Nat} (h : execRenotifyTimerExpiry i s = .next t) :
    Moves ordinaryPieces s t := by
  unfold execRenotifyTimerExpiry at h
  exact ordinary_up ((s.renotifyCallout_moves i).ordinary) h

theorem execMinuteEvent_moves  (h : execMinuteEvent s = .next t) :
    Moves ordinaryPieces s t := by
  unfold execMinuteEvent at h
  exact ordinary_up (s.minute_moves.ordinary) h

theorem execHourEvent_moves  (h : execHourEvent s = .next t) :
    Moves ordinaryPieces s t := by
  unfold execHourEvent at h
  exact ordinary_up (s.takeHour_moves.ordinary) h

theorem execCalendarMidnight_moves  (h : execCalendarMidnight s = .next t) :
    Moves ordinaryPieces s t := by
  unfold execCalendarMidnight at h
  exact ordinary_up (s.takeMidnight_moves.ordinary) h

theorem execIdleTimerExpiry_moves  (h : execIdleTimerExpiry s = .next t) :
    Moves ordinaryPieces s t := by
  unfold execIdleTimerExpiry at h
  refine ordinary_up ?_ h
  split
  · exact (s.takeRaised_moves.ordinary).next (State.enterSettling_moves _)
  · exact refl s

theorem execStoreDrainComplete_moves  (h : execStoreDrainComplete s = .next t) :
    Moves ordinaryPieces s t := by
  unfold execStoreDrainComplete at h
  refine ordinary_up ?_ h
  split
  · have hm : Moves ordinaryPieces s s.takeRaised := s.takeRaised_moves.ordinary
    dsimp only
    split
    · exact hm.next (State.enterStandby_moves _)
    · exact hm
  · exact refl s

theorem execWakeCompletion_moves  (h : execWakeCompletion s = .next t) :
    Moves ordinaryPieces s t := by
  unfold execWakeCompletion at h
  refine ordinary_up ?_ h
  split
  · exact (s.awaken_moves).ordinary
  · exact refl s

theorem execCheckpointTimerExpiry_moves  (h : execCheckpointTimerExpiry s = .next t) :
    Moves ordinaryPieces s t := by
  unfold execCheckpointTimerExpiry at h
  refine ordinary_up ?_ h
  split
  · exact (s.checkpointOccasion_moves.ordinary).next (one (.checkpointTimer _ _))
  · exact refl s

/-- R164: writing a slot keeps the canonical form of the slots. -/
theorem Store.SlotsCanonical.setSlot {st : Store} (h : st.SlotsCanonical) (n : Nat) (v : Slot) :
    (st.setSlot n v).SlotsCanonical := by
  have h1 : ((Tbl.erase st.slots n).map Prod.fst).Pairwise (· < ·) := h.1.sublist (List.filter_sublist.map _)
  have h2 : ∀ e ∈ Tbl.erase st.slots n, e.2 ≠ some (factoryImage e.1) := fun e he => h.2 e (List.mem_of_mem_filter he)
  unfold Store.setSlot Store.SlotsCanonical Tbl.put
  dsimp only
  split
  · exact ⟨h1, h2⟩
  next hv =>
    refine ⟨Tbl.rising_insert h1 fun e he => Tbl.ne_of_mem_erase he, fun e he => ?_⟩
    rcases Tbl.mem_insert he with rfl | he
    · exact hv
    · exact h2 e he

theorem execProgramOperationComplete_moves  (h : execProgramOperationComplete s = .next t) :
    Moves ordinaryPieces s t := by
  unfold execProgramOperationComplete at h
  refine ordinary_up ?_ h
  split
  · exact refl s
  next n img _ =>
    have h1 := (one (.slots s (s.store.setSlot n (some img)).slots fun h => h.setSlot n (some img))).ordinary
    exact h1.next (one (.underWay _ none))

theorem execPassThroughFrame_moves {port : Port} {f : EthFrame} (h : execPassThroughFrame port f s = .next t) :
    Moves ordinaryPieces s t := by
  unfold execPassThroughFrame at h
  refine ordinary_up ?_ h
  cases port
  · exact (s.fleet_moves _ (by rw [PortState.own_pass1]; exact id) (PortState.passHeld_pass1 _ _)
      (by rw [PortState.served_pass1]; exact id)).ordinary
  · exact (s.office_moves _ (by rw [PortState.own_pass1]; exact id) (PortState.passHeld_pass1 _ _)
      (by rw [PortState.served_pass1]; exact id)).ordinary

theorem execFptDiscard_moves {port : Port} {b : List Byte} (h : execFptDiscard port b s = .next t) :
    Moves ordinaryPieces s t := by
  unfold execFptDiscard at h
  refine ordinary_up ?_ h
  split
  · exact s.stray_moves.ordinary
  · exact refl s

theorem execFrameTransmit_moves {port : Port} (h : execFrameTransmit port s = .next t) :
    Moves ordinaryPieces s t := by
  unfold execFrameTransmit at h
  refine ordinary_up ?_ h
  have hb := PortState.transmit_bounds
  cases port
  · exact (s.office_moves _ ((hb _).2.trans ·) ((hb _).1.trans ·) (by rw [PortState.served_transmit]; exact id)).ordinary
  · exact (s.fleet_moves _ ((hb _).2.trans ·) ((hb _).1.trans ·) (by rw [PortState.served_transmit]; exact id)).ordinary

theorem execJobOutgoingPlace_moves  (h : execJobOutgoingPlace s = .next t) :
    Moves ordinaryPieces s t := by
  unfold execJobOutgoingPlace at h
  refine ordinary_up ?_ h
  split
  · exact refl s
  next m rest hm =>
    split
    next hr =>
      have h1 := (s.office_moves (s.oport.placeFrom 0 m) (PortState.length_place (State.room_of_officeTurn hr)) id
        (fun _ => show (0:Nat) ≤ 2 by decide)).ordinary
      exact h1.next (one (.outgoing _ rest fun h => by simp [hm] at h; omega))
    next => exact refl s

theorem execMgmtReplyPlace_moves  (h : execMgmtReplyPlace s = .next t) :
    Moves ordinaryPieces s t := by
  unfold execMgmtReplyPlace at h
  refine ordinary_up ?_ h
  split
  · exact refl s
  next m _ =>
    split
    next hr =>
      have h1 := (s.office_moves (s.oport.placeFrom 1 m) (PortState.length_place (State.room_of_officeTurn hr)) id
        (fun _ => show (1:Nat) ≤ 2 by decide)).ordinary
      exact h1.next (one (.reply _ none))
    next => exact refl s

theorem execNoticeSend_moves  (h : execNoticeSend s = .next t) :
    Moves ordinaryPieces s t := by
  unfold execNoticeSend at h
  refine ordinary_up ?_ h
  split
  · exact refl s
  next q rest hq =>
    split
    next hr =>
      have h1 := (s.office_moves (s.oport.placeFrom 2 (s.addressed q))
        (PortState.length_place (State.room_of_officeTurn hr)) id
        (fun _ => show (2:Nat) ≤ 2 by decide)).ordinary
      refine h1.next (one (.notices _ rest fun hn => ?_))
      have : s.console.notices.length ≤ 16 := hn
      rw [hq, List.length_cons] at this
      omega
    next => exact refl s

theorem execReleaseAnswerPlace_moves  (h : execReleaseAnswerPlace s = .next t) :
    Moves ordinaryPieces s t := by
  unfold execReleaseAnswerPlace at h
  refine ordinary_up ?_ h
  split
  · exact refl s
  next m _ =>
    split
    next hr =>
      have hroom : s.fport.room = true := ((Bool.and_eq_true _ _).mp hr).1
      have h1 := (s.fleet_moves (s.fport.placeFrom 0 m) (PortState.length_place hroom) id (fun _ => show (0:Nat) ≤ 1 by decide)).ordinary
      exact h1.next (one (.answer _ none))
    next => exact refl s

theorem execStreamControlPlace_moves {p : Nat} (h : execStreamControlPlace p s = .next t) :
    Moves ordinaryPieces s t := by
  unfold execStreamControlPlace at h
  refine ordinary_up ?_ h
  split
  next hr => exact (s.placeControl_moves p hr).ordinary
  next => exact refl s

theorem execStreamData_moves {p : Nat} (h : execStreamData p s = .next t) :
    Moves ordinaryPieces s t := by
  unfold execStreamData at h
  split at h
  next hr =>
    have hturn := ((Bool.and_eq_true _ _).mp hr).2
    split at h
    · exact ordinary_up (Moves.refl s) h
    · split at h
      · exact nomatch h
      · exact ordinary_up ((s.placeChunk_moves _ _ _ hturn).ordinary) h
  next => exact ordinary_up (Moves.refl s) h

theorem execStreamEnd_moves {p : Nat} (h : execStreamEnd p s = .next t) :
    Moves ordinaryPieces s t := by
  unfold execStreamEnd at h
  refine ordinary_up ?_ h
  split
  next hr =>
    split
    · exact refl s
    · exact (s.placeEnd_moves p _ hr).ordinary
  next => exact refl s

theorem execTableRead_moves {hd : Hdr} {b : Option (TableId × Nat)} (h : execTableRead hd b s = .next t) :
    Moves ordinaryPieces s t := by
  unfold execTableRead at h
  refine ordinary_mgmt (fun x u => ?_) h
  unfold readRule
  split
  · exact refl u
  · split <;> exact refl u

theorem execSettingsWrite_moves {hd : Hdr} {b : Option (Nat × Settings)} (h : execSettingsWrite hd b s = .next t) :
    Moves ordinaryPieces s t := by
  unfold execSettingsWrite at h
  exact ordinary_mgmt (fun x u => (settingsRule_moves u x).ordinary) h

theorem execClassifierWrite_moves {hd : Hdr} {b : Option (Nat × ClassEntry)} (h : execClassifierWrite hd b s = .next t) :
    Moves ordinaryPieces s t := by
  unfold execClassifierWrite at h
  exact ordinary_mgmt (fun x u => (classifierRule_moves u x).ordinary) h

theorem execTariffWrite_moves {hd : Hdr} {b : Option (Nat × Row)} (h : execTariffWrite hd b s = .next t) :
    Moves ordinaryPieces s t := by
  unfold execTariffWrite at h
  exact ordinary_mgmt (fun x u => (tariffRule_moves u x).ordinary) h

theorem execAccountWrite_moves {hd : Hdr} {b : Option (Nat × AccountConfig)} (h : execAccountWrite hd b s = .next t) :
    Moves ordinaryPieces s t := by
  unfold execAccountWrite at h
  exact ordinary_mgmt (fun x u => (accountRule_moves u x).ordinary) h

theorem execPrinterWrite_moves {hd : Hdr} {b : Option (Nat × PrinterFields)} (h : execPrinterWrite hd b s = .next t) :
    Moves ordinaryPieces s t := by
  unfold execPrinterWrite at h
  exact ordinary_mgmt (fun x u => (printerRule_moves u x).ordinary) h

theorem execTableWrite_moves {hd : Hdr} {b : Option (ClosedTable × Nat)} (h : execTableWrite hd b s = .next t) :
    Moves ordinaryPieces s t := by
  unfold execTableWrite at h
  exact ordinary_mgmt (fun x u => Moves.refl u) h

theorem execQuery_moves {hd : Hdr} {b : Option Bool} (h : execQuery hd b s = .next t) :
    Moves ordinaryPieces s t := by
  unfold execQuery at h
  exact ordinary_mgmt (fun x u => (queryRule_moves u x).ordinary) h

theorem execRollPeriod_moves {hd : Hdr} {b : Bool} (h : execRollPeriod hd b s = .next t) :
    Moves ordinaryPieces s t := by
  unfold execRollPeriod at h
  exact ordinary_mgmt (fun _ u => (rollRule_moves u true).ordinary) h

theorem execForceRoll_moves {hd : Hdr} {b : Bool} (h : execForceRoll hd b s = .next t) :
    Moves ordinaryPieces s t := by
  unfold execForceRoll at h
  exact ordinary_mgmt (fun _ u => (rollRule_moves u false).ordinary) h

theorem execSetClock_moves {hd : Hdr} {b : Option (Nat × Nat)} (h : execSetClock hd b s = .next t) :
    Moves ordinaryPieces s t := by
  unfold execSetClock at h
  exact ordinary_mgmt (fun x u => (setClockRule_moves u x).ordinary) h

theorem execStandby_moves {hd : Hdr} {b : Bool} (h : execStandby hd b s = .next t) :
    Moves ordinaryPieces s t := by
  unfold execStandby at h
  exact ordinary_mgmt (fun _ u => (standbyRule_moves u).ordinary) h

theorem execRestart_moves {hd : Hdr} {b : Bool} (h : execRestart hd b s = .next t) :
    Moves ordinaryPieces s t := by
  unfold execRestart at h
  exact ordinary_mgmt (fun _ u => (restartRule_moves u).ordinary) h

theorem execCheckpoint_moves {hd : Hdr} {b : Bool} (h : execCheckpoint hd b s = .next t) :
    Moves ordinaryPieces s t := by
  unfold execCheckpoint at h
  exact ordinary_mgmt (fun _ u => (checkpointRule_moves u).ordinary) h

theorem execPark_moves {hd : Hdr} {b : Option Nat} (h : execPark hd b s = .next t) :
    Moves ordinaryPieces s t := by
  unfold execPark at h
  exact ordinary_mgmt (fun x u => onPrinter_moves (parkRule_moves u x).ordinary) h

theorem execUnpark_moves {hd : Hdr} {b : Option Nat} (h : execUnpark hd b s = .next t) :
    Moves ordinaryPieces s t := by
  unfold execUnpark at h
  exact ordinary_mgmt (fun x u => onPrinter_moves (unparkRule_moves u x).ordinary) h

theorem execParkNow_moves {hd : Hdr} {b : Option Nat} (h : execParkNow hd b s = .next t) :
    Moves ordinaryPieces s t := by
  unfold execParkNow at h
  exact ordinary_mgmt (fun x u => onPrinter_moves (parkNowRule_moves u x).ordinary) h

theorem execWithdraw_moves {hd : Hdr} {b : Option Nat} (h : execWithdraw hd b s = .next t) :
    Moves ordinaryPieces s t := by
  unfold execWithdraw at h
  exact ordinary_mgmt (fun x u => onPrinter_moves (withdrawRule_moves u x).ordinary) h

theorem execReinstate_moves {hd : Hdr} {b : Option Nat} (h : execReinstate hd b s = .next t) :
    Moves ordinaryPieces s t := by
  unfold execReinstate at h
  exact ordinary_mgmt (fun x u => onPrinter_moves (reinstateRule_moves u x).ordinary) h

theorem execAckCallout_moves {hd : Hdr} {b : Option Nat} (h : execAckCallout hd b s = .next t) :
    Moves ordinaryPieces s t := by
  unfold execAckCallout at h
  exact ordinary_mgmt (fun x u => (ackRule_moves u x).ordinary) h

theorem execCloseCallout_moves {hd : Hdr} {b : Option Nat} (h : execCloseCallout hd b s = .next t) :
    Moves ordinaryPieces s t := by
  unfold execCloseCallout at h
  exact ordinary_mgmt (fun x u => (closeCalloutRule_moves u x).ordinary) h

theorem execConfirmOrder_moves {hd : Hdr} {b : Option (Nat × Colorant)} (h : execConfirmOrder hd b s = .next t) :
    Moves ordinaryPieces s t := by
  unfold execConfirmOrder at h
  exact ordinary_mgmt (fun x u => onColorant_moves fun r => (confirmRule_moves u x.1 x.2 r).ordinary) h

theorem execCancelOrder_moves {hd : Hdr} {b : Option (Nat × Colorant)} (h : execCancelOrder hd b s = .next t) :
    Moves ordinaryPieces s t := by
  unfold execCancelOrder at h
  exact ordinary_mgmt (fun x u => onColorant_moves fun r => (cancelRule_moves u x.1 x.2 r).ordinary) h

theorem execCartridgeReplaced_moves {hd : Hdr} {b : Option (Nat × Colorant)} (h : execCartridgeReplaced hd b s = .next t) :
    Moves ordinaryPieces s t := by
  unfold execCartridgeReplaced at h
  exact ordinary_mgmt (fun x u => onColorant_moves fun r => (cartridgeRule_moves u x.1 x.2 r).ordinary) h

theorem execAdjustAccount_moves {hd : Hdr} {b : Option (Nat × Int)} (h : execAdjustAccount hd b s = .next t) :
    Moves ordinaryPieces s t := by
  unfold execAdjustAccount at h
  exact ordinary_mgmt (fun x u => (adjustRule_moves u x).ordinary) h

theorem execUnlockAccount_moves {hd : Hdr} {b : Option Nat} (h : execUnlockAccount hd b s = .next t) :
    Moves ordinaryPieces s t := by
  unfold execUnlockAccount at h
  exact ordinary_mgmt (fun x u => onAccount_moves (unlockRule_moves u x).ordinary) h

theorem execSuspend_moves {hd : Hdr} {b : Option Nat} (h : execSuspend hd b s = .next t) :
    Moves ordinaryPieces s t := by
  unfold execSuspend at h
  exact ordinary_mgmt (fun x u => onAccount_moves (suspendRule_moves u x).ordinary) h

theorem execResume_moves {hd : Hdr} {b : Option Nat} (h : execResume hd b s = .next t) :
    Moves ordinaryPieces s t := by
  unfold execResume at h
  exact ordinary_mgmt (fun x u => onAccount_moves (resumeRule_moves u x).ordinary) h

theorem execPurgeJob_moves {hd : Hdr} {b : Option Nat} (h : execPurgeJob hd b s = .next t) :
    Moves ordinaryPieces s t := by
  unfold execPurgeJob at h
  exact ordinary_mgmt (fun x u => (purgeRule_moves u x).ordinary) h

theorem execUnknownMgmtRequest_moves {hd : Hdr} {b : Bool} (h : execUnknownMgmtRequest hd b s = .next t) :
    Moves ordinaryPieces s t := by
  unfold execUnknownMgmtRequest at h
  exact ordinary_mgmt (fun _ u => Moves.refl u) h

/-- An ordinary command is made of moves (R181 to R185, and the rules of each command). -/
theorem exec_moves {c : Instr} (hc : Instr.isVital c = false) (h : exec c s = .next t) : Moves ordinaryPieces s t := by
  cases c
  case restartComplete => exact nomatch hc
  case powerLoss => exact nomatch hc
  case coldStart => exact nomatch hc
  case startUpComplete => exact nomatch hc
  case jobOpen => exact execJobOpen_moves h
  case jobData => exact execJobData_moves h
  case jobClose => exact execJobClose_moves h
  case jobCancel => exact execJobCancel_moves h
  case receiveIdleExpiry => exact execReceiveIdleExpiry_moves h
  case list => exact execList_moves h
  case releaseAll => exact execReleaseAll_moves h
  case releaseOne => exact execReleaseOne_moves h
  case deleteOne => exact execDeleteOne_moves h
  case unknownReleaseRequest => exact execUnknownReleaseRequest_moves h
  case grant => exact execGrant_moves h
  case pageReport => exact execPageReport_moves h
  case status => exact execStatus_moves h
  case fault => exact execFault_moves h
  case stallTimerExpiry => exact execStallTimerExpiry_moves h
  case finishTimerExpiry => exact execFinishTimerExpiry_moves h
  case presenceTimerExpiry => exact execPresenceTimerExpiry_moves h
  case standingLimitExpiry => exact execStandingLimitExpiry_moves h
  case renotifyTimerExpiry => exact execRenotifyTimerExpiry_moves h
  case minuteEvent => exact execMinuteEvent_moves h
  case hourEvent => exact execHourEvent_moves h
  case calendarMidnight => exact execCalendarMidnight_moves h
  case idleTimerExpiry => exact execIdleTimerExpiry_moves h
  case storeDrainComplete => exact execStoreDrainComplete_moves h
  case wakeCompletion => exact execWakeCompletion_moves h
  case checkpointTimerExpiry => exact execCheckpointTimerExpiry_moves h
  case programOperationComplete => exact execProgramOperationComplete_moves h
  case passThroughFrame => exact execPassThroughFrame_moves h
  case fptDiscard => exact execFptDiscard_moves h
  case frameTransmit => exact execFrameTransmit_moves h
  case jobOutgoingPlace => exact execJobOutgoingPlace_moves h
  case mgmtReplyPlace => exact execMgmtReplyPlace_moves h
  case noticeSend => exact execNoticeSend_moves h
  case releaseAnswerPlace => exact execReleaseAnswerPlace_moves h
  case streamControlPlace => exact execStreamControlPlace_moves h
  case streamData => exact execStreamData_moves h
  case streamEnd => exact execStreamEnd_moves h
  case tableRead => exact execTableRead_moves h
  case settingsWrite => exact execSettingsWrite_moves h
  case classifierWrite => exact execClassifierWrite_moves h
  case tariffWrite => exact execTariffWrite_moves h
  case accountWrite => exact execAccountWrite_moves h
  case printerWrite => exact execPrinterWrite_moves h
  case tableWrite => exact execTableWrite_moves h
  case query => exact execQuery_moves h
  case rollPeriod => exact execRollPeriod_moves h
  case forceRoll => exact execForceRoll_moves h
  case setClock => exact execSetClock_moves h
  case standby => exact execStandby_moves h
  case restart => exact execRestart_moves h
  case checkpoint => exact execCheckpoint_moves h
  case park => exact execPark_moves h
  case unpark => exact execUnpark_moves h
  case parkNow => exact execParkNow_moves h
  case withdraw => exact execWithdraw_moves h
  case reinstate => exact execReinstate_moves h
  case ackCallout => exact execAckCallout_moves h
  case closeCallout => exact execCloseCallout_moves h
  case confirmOrder => exact execConfirmOrder_moves h
  case cancelOrder => exact execCancelOrder_moves h
  case cartridgeReplaced => exact execCartridgeReplaced_moves h
  case adjustAccount => exact execAdjustAccount_moves h
  case unlockAccount => exact execUnlockAccount_moves h
  case suspend => exact execSuspend_moves h
  case resume => exact execResume_moves h
  case purgeJob => exact execPurgeJob_moves h
  case unknownMgmtRequest => exact execUnknownMgmtRequest_moves h

end Sys2Proof.Machine
end

