-- ==== Sys2Proof/Laws/Answers.lean ====
section
/-! SUPPORT. What the shared operations of every command leave: the end of a step, the answers of the Job Table, the Console
Agent and the Release Engine, notices, marks, and the frame of a printer. Proofs about a command cite these. -/

namespace Sys2Proof.Machine

set_option Elab.async false

variable {s t u : State}

theorem State.finish_changes (u : State) : ChangesOnly endOfStep u u.finish := (State.finish_moves u).changesOnly

/-! ### The end of a step leaves every field but those of the store's writing and the idle timer -/

@[simp] theorem State.finish_phase : u.finish.phase = u.phase := (State.finish_moves u).phase_pending.1
@[simp] theorem State.finish_pending : u.finish.pending = u.pending := (State.finish_moves u).phase_pending.2
@[simp] theorem State.finish_recs : u.finish.jobs.recs = u.jobs.recs := State.finish_changes u .jobRecords (by decide)
@[simp] theorem State.finish_lastTag :
    u.finish.jobs.lastTag = u.jobs.lastTag := State.finish_changes u .tagAllocator (by decide)
@[simp] theorem State.finish_holdSeq :
    u.finish.jobs.holdSeq = u.jobs.holdSeq := State.finish_changes u .holdSequence (by decide)
@[simp] theorem State.finish_contexts :
    u.finish.jobs.contexts = u.jobs.contexts := State.finish_changes u .contexts (by decide)
@[simp] theorem State.finish_outgoing :
    u.finish.jobs.outgoing = u.jobs.outgoing := State.finish_changes u .outgoing (by decide)
@[simp] theorem State.finish_jobs : u.finish.jobs = u.jobs := by
  cases h : u.finish.jobs; cases h' : u.jobs
  have a := @State.finish_recs u; have b := @State.finish_lastTag u; have c := @State.finish_holdSeq u; have d :=
      @State.finish_contexts u; have e := @State.finish_outgoing u
  simp_all
@[simp] theorem State.finish_free : u.finish.spool.free = u.spool.free := State.finish_changes u .freeSegments (by decide)
@[simp] theorem State.finish_promises :
    u.finish.spool.promises = u.spool.promises := State.finish_changes u .promises (by decide)
@[simp] theorem State.finish_low : u.finish.spool.low = u.spool.low := State.finish_changes u .spoolLow (by decide)
@[simp] theorem State.finish_mem : u.finish.spool.mem = u.spool.mem := State.finish_changes u .spoolBytes (by decide)
@[simp] theorem State.finish_spool : u.finish.spool = u.spool := by
  cases h : u.finish.spool; cases h' : u.spool
  have a := @State.finish_free u; have b := @State.finish_promises u; have c := @State.finish_low u; have d :=
      @State.finish_mem u
  simp_all
@[simp] theorem State.finish_accounts : u.finish.accounts = u.accounts := State.finish_changes u .accounts (by decide)
@[simp] theorem State.finish_tariff : u.finish.tariff = u.tariff := State.finish_changes u .tariff (by decide)
@[simp] theorem State.finish_answer : u.finish.answer = u.answer := State.finish_changes u .answer (by decide)
@[simp] theorem State.finish_printers : u.finish.printers = u.printers := State.finish_changes u .printers (by decide)
@[simp] theorem State.finish_lastPrinter :
    u.finish.lastPrinter = u.lastPrinter := State.finish_changes u .printerTurn (by decide)
@[simp] theorem State.finish_callouts : u.finish.callouts = u.callouts := State.finish_changes u .callouts (by decide)
@[simp] theorem State.finish_reorders : u.finish.reorders = u.reorders := State.finish_changes u .reorders (by decide)
@[simp] theorem State.finish_core : u.finish.clock.core = u.clock.core := State.finish_changes u .clock (by decide)
theorem Clock.eq_of_core {c d : Clock} (h : c.core = d.core) :
    c.uptime = d.uptime ∧ c.calendar = d.calendar ∧ c.hourRaised = d.hourRaised ∧ c.midnightRaised = d.midnightRaised ∧
    c.mode = d.mode ∧ c.kept = d.kept ∧ c.midnights = d.midnights := by
  cases c; cases d; simp_all [Clock.core]
@[simp] theorem State.finish_uptime : u.finish.clock.uptime = u.clock.uptime := (Clock.eq_of_core State.finish_core).1
@[simp] theorem State.finish_calendar :
    u.finish.clock.calendar = u.clock.calendar := (Clock.eq_of_core State.finish_core).2.1
@[simp] theorem State.finish_hourRaised :
    u.finish.clock.hourRaised = u.clock.hourRaised := (Clock.eq_of_core State.finish_core).2.2.1
@[simp] theorem State.finish_midnightRaised :
    u.finish.clock.midnightRaised = u.clock.midnightRaised := (Clock.eq_of_core State.finish_core).2.2.2.1
@[simp] theorem State.finish_mode : u.finish.clock.mode = u.clock.mode := (Clock.eq_of_core State.finish_core).2.2.2.2.1
@[simp] theorem State.finish_kept : u.finish.clock.kept = u.clock.kept := (Clock.eq_of_core State.finish_core).2.2.2.2.2.1
@[simp] theorem State.finish_midnights :
    u.finish.clock.midnights = u.clock.midnights := (Clock.eq_of_core State.finish_core).2.2.2.2.2.2
@[simp] theorem State.finish_settings : u.finish.settings = u.settings := State.finish_changes u .settings (by decide)
@[simp] theorem State.finish_slots : u.finish.store.slots = u.store.slots := State.finish_changes u .slots (by decide)
@[simp] theorem State.finish_checkpoint :
    u.finish.store.checkpoint = u.store.checkpoint := State.finish_changes u .checkpointTimer (by decide)
@[simp] theorem State.finish_reset : u.finish.store.reset = u.store.reset := State.finish_changes u .resetRecord (by decide)
@[simp] theorem State.finish_restartPending :
    u.finish.restartPending = u.restartPending := State.finish_changes u .restartPending (by decide)
@[simp] theorem State.finish_reply : u.finish.console.reply = u.console.reply := State.finish_changes u .reply (by decide)
@[simp] theorem State.finish_notices :
    u.finish.console.notices = u.console.notices := State.finish_changes u .notices (by decide)
@[simp] theorem State.finish_sticky :
    u.finish.console.storeRestored = u.console.storeRestored ∧ u.finish.console.noticeOverflow = u.console.noticeOverflow
      ∧ u.finish.console.strayStation = u.console.strayStation := State.finish_changes u .sticky (by decide)
@[simp] theorem State.finish_console : u.finish.console = u.console := by
  cases h : u.finish.console; cases h' : u.console
  have a := @State.finish_reply u; have b := @State.finish_notices u; have c := @State.finish_sticky u
  simp_all
@[simp] theorem State.finish_officeOwn : u.finish.oport.own = u.oport.own := State.finish_changes u .officeOwn (by decide)
@[simp] theorem State.finish_officeOther :
    u.finish.oport.other = u.oport.other := State.finish_changes u .officeOther (by decide)
@[simp] theorem State.finish_fleetOwn : u.finish.fport.own = u.fport.own := State.finish_changes u .fleetOwn (by decide)
@[simp] theorem State.finish_fleetOther :
    u.finish.fport.other = u.fport.other := State.finish_changes u .fleetOther (by decide)
theorem PortState.eq_of_own_other {p q : PortState} (h1 : p.own = q.own) (h2 : p.other = q.other) : p = q := by
  cases p; cases q; simp_all [PortState.other]
@[simp] theorem State.finish_oport :
    u.finish.oport = u.oport := PortState.eq_of_own_other State.finish_officeOwn State.finish_officeOther
@[simp] theorem State.finish_fport :
    u.finish.fport = u.fport := PortState.eq_of_own_other State.finish_fleetOwn State.finish_fleetOther
@[simp] theorem State.finish_classifier :
    u.finish.classifier = u.classifier := (State.finish_changes u .classifier (by decide)).1
@[simp] theorem State.finish_dflt : u.finish.dflt = u.dflt := (State.finish_changes u .classifier (by decide)).2
@[simp] theorem State.finish_freeCount : u.finish.freeCount = u.freeCount := State.finish_changes u .freeCount (by decide)
@[simp] theorem State.finish_account (k) : u.finish.account k = u.account k := by simp [State.account]
@[simp] theorem State.finish_printer (k) : u.finish.printer k = u.printer k := by simp [State.printer]
@[simp] theorem State.finish_callout (k) : u.finish.callout k = u.callout k := by simp [State.callout]
@[simp] theorem State.finish_reorder (k) : u.finish.reorder k = u.reorder k := by simp [State.reorder]
@[simp] theorem State.finish_job (k) : u.finish.job k = u.job k := by simp [State.job]
@[simp] theorem State.finish_image (k) : u.finish.image k = u.image k := by simp [State.image, State.classEntry]

theorem State.account_congr (h : t.accounts = s.accounts) (k) : t.account k = s.account k := by simp [State.account, h]
theorem State.printer_congr (h : t.printers = s.printers) (k) : t.printer k = s.printer k := by simp [State.printer, h]
theorem State.job_congr (h : t.jobs.recs = s.jobs.recs) (k) : t.job k = s.job k := by simp [State.job, h]
theorem State.callout_congr (h : t.callouts = s.callouts) (k) : t.callout k = s.callout k := by simp [State.callout, h]
theorem State.reorder_congr (h : t.reorders = s.reorders) (k) : t.reorder k = s.reorder k := by simp [State.reorder, h]

/-! ### The Job Table's messages (R184, R185) -/

theorem State.jobMessages_congr (h1 : t.oport.own = s.oport.own) (h2 : t.jobs.outgoing = s.jobs.outgoing) :
    t.jobMessages = s.jobMessages := by
  simp [State.jobMessages, h1, h2]

@[simp] theorem State.finish_jobMessages :
    u.finish.jobMessages = u.jobMessages := State.jobMessages_congr (by simp) (by simp)

theorem State.jobMessages_jobSend (m : OwnMsg) (hm : m.ofJobs = true) :
    (s.jobSend m).jobMessages = s.jobMessages ++ [m] := by
  unfold State.jobSend State.jobMessages
  split
  next h =>
    have h1 : s.jobs.outgoing = [] := by simpa using ((Bool.and_eq_true _ _).mp h).1
    simp [PortState.place, h1, hm]
  · simp [State.listOut, hm]

@[simp] theorem State.jobMessages_jobReply (h : Hdr) (g r n) :
    (s.jobReply h g r n).jobMessages = s.jobMessages ++ [jobReplyTo s h g r n] :=
  State.jobMessages_jobSend _ rfl

theorem State.jobMessages_jobStatus (j : Job) (e p r c) (h : s.jobs.outgoing.length < 4096) :
    (s.jobStatus j e p r c).jobMessages = s.jobMessages ++ [statusOf s j e p r c] := by
  unfold State.jobStatus; rw [if_pos (show _ < Config.outgoingMax from h)]; exact State.jobMessages_jobSend _ rfl

theorem State.outgoing_jobSend_le (m : OwnMsg) : (s.jobSend m).jobs.outgoing.length ≤ s.jobs.outgoing.length + 1 := by
  unfold State.jobSend; split
  · simp
  · simp [State.listOut]
theorem State.outgoing_jobStatus_le (j : Job) (e p r c) :
    (s.jobStatus j e p r c).jobs.outgoing.length ≤ s.jobs.outgoing.length + 1 := by
  unfold State.jobStatus; split
  · exact State.outgoing_jobSend_le _
  · omega

@[simp] theorem State.jobMessages_notify (n : Notice) : (s.notify n).jobMessages = s.jobMessages := by
  unfold State.notify State.offer
  split
  · split
    · simp [State.jobMessages, PortState.place, State.addressed, OwnMsg.ofJobs]
    · split <;> rfl
  · rfl

theorem State.notify_formed (n : Notice) : NoticeFormed s (s.notify n) n := by
  intro h
  unfold State.notify; rw [if_pos h]
  unfold State.offer
  split
  · exact .inl ⟨[], [], by simp [PortState.place]⟩
  · split
    · exact .inr (.inl ⟨[], [], by simp⟩)
    next h =>
      refine .inr (.inr ⟨?_, rfl⟩)
      simp only [Config.noticeQueue] at h
      exact Nat.le_of_not_lt h

theorem State.notify_settings (n) :
    (s.notify n).settings = s.settings := (s.notify_moves n).changesOnly .settings (by decide)

/-- A notice formed stays formed while the queues grow. -/
theorem NoticeFormed.later {n} (h : NoticeFormed s t n) {x} (h1 : u.oport.own = t.oport.own ++ x) {y}
    (h2 : u.console.notices = t.console.notices ++ y)
    (h3 : t.console.noticeOverflow = true → u.console.noticeOverflow = true) : NoticeFormed s u n := by
  intro he
  rcases h he with ⟨a,b,e⟩ | ⟨a,b,e⟩ | ⟨e, f⟩
  · exact .inl ⟨a, b ++ x, by rw [h1, e]; simp⟩
  · exact .inr (.inl ⟨a, b ++ y, by rw [h2, e]; simp⟩)
  · exact .inr (.inr ⟨by rw [h2]; simp; omega, h3 f⟩)

/-- A notice formed after the queues grew is formed from before. -/
theorem NoticeFormed.earlier {s'} {n} (h : NoticeFormed s' t n) {x}
    (h1 : s'.oport.own = s.oport.own ++ x) {y} (h2 : s'.console.notices = s.console.notices ++ y)
    (h3 : s'.settings = s.settings) : NoticeFormed s t n := by
  intro he
  have he' : s'.noticeEnabled n.kind = true := by unfold State.noticeEnabled; rw [h3]; exact he
  have ha : ∀ q, s'.addressed q = s.addressed q := fun q => by simp [State.addressed, h3]
  rcases h he' with ⟨a,b,e⟩ | ⟨a,b,e⟩ | ⟨e, f⟩
  · exact .inl ⟨x ++ a, b, by rw [e, h1, h3, ha]; simp⟩
  · exact .inr (.inl ⟨y ++ a, b, by rw [e, h2, h3]; simp⟩)
  · exact .inr (.inr ⟨e, f⟩)

theorem NoticeFormed.finish {n} (h : NoticeFormed s t n) : NoticeFormed s t.finish n :=
  NoticeFormed.later h (x := []) (by simp) (y := []) (by simp) (by simp)

theorem State.jobSend_own (m) : ∃ x, (s.jobSend m).oport.own = s.oport.own ++ x := by
  unfold State.jobSend
  split
  · exact ⟨[m], rfl⟩
  · exact ⟨[], (List.append_nil _).symm⟩
theorem State.jobSend_console (m) : (s.jobSend m).console = s.console := by unfold State.jobSend; split <;> rfl
theorem State.jobSend_settings (m) : (s.jobSend m).settings = s.settings := by unfold State.jobSend; split <;> rfl
theorem State.jobStatus_settings (j : Job) (e p r c) :
    (s.jobStatus j e p r c).settings = s.settings := by unfold State.jobStatus; split; exact State.jobSend_settings _; rfl
theorem State.jobStatus_console (j : Job) (e p r c) :
    (s.jobStatus j e p r c).console = s.console := by unfold State.jobStatus; split; exact State.jobSend_console _; rfl
theorem State.jobStatus_own (j : Job) (e p r c) :
    ∃ x, (s.jobStatus j e p r c).oport.own = s.oport.own ++ x := (s.jobStatus_moves j e p r c).officeOwn_grows

/-! ### The spool-low test (R16) -/

theorem State.spoolLowTest_low : (s.spoolLowTest).spool.low = s.spool.isLow := by
  unfold State.spoolLowTest
  split
  next h => exact h.symm
  · exact (State.notify_moves _ _).changesOnly .spoolLow (by decide)
theorem State.spoolLowTest_spool :
    (s.spoolLowTest).spool.free = s.spool.free ∧ (s.spoolLowTest).spool.promises = s.spool.promises ∧
    s.spoolLowTest.spool.mem = s.spool.mem :=
  ⟨(s.spoolLowTest_moves).changesOnly .freeSegments (by decide),
      (s.spoolLowTest_moves).changesOnly .promises (by decide), (s.spoolLowTest_moves).changesOnly .spoolBytes (by decide)⟩
theorem State.isLow_congr (h : t.spool.free = s.spool.free) (h2 : t.spool.promises = s.spool.promises) :
    t.spool.isLow = s.spool.isLow := by
  unfold Spool.isLow Spool.headroom Spool.freeLength; rw [h, h2]
theorem State.spoolLowTest_told : SpoolLowTold s s.spoolLowTest := by
  refine ⟨?_, ?_⟩
  · rw [State.spoolLowTest_low]; exact (State.isLow_congr State.spoolLowTest_spool.1 State.spoolLowTest_spool.2.1).symm
  · intro h
    rw [State.spoolLowTest_low] at h ⊢
    unfold State.spoolLowTest
    rw [if_neg (Ne.symm h)]
    refine NoticeFormed.earlier (State.notify_formed _) (x := []) (by simp) (y := []) (by simp) rfl
@[simp] theorem State.jobMessages_spoolLowTest : s.spoolLowTest.jobMessages = s.jobMessages := by
  unfold State.spoolLowTest
  split
  · rfl
  · rw [State.jobMessages_notify]; rfl
@[simp] theorem State.spoolLowTest_jobs : s.spoolLowTest.jobs = s.jobs := by
  unfold State.spoolLowTest State.notify State.offer
  repeat' split
  all_goals rfl
theorem State.spoolLowTest_account (k) :
    s.spoolLowTest.account k = s.account k :=
  State.account_congr ((s.spoolLowTest_moves).changesOnly .accounts (by decide)) k
theorem State.spoolLowTest_settings :
    s.spoolLowTest.settings = s.settings := (s.spoolLowTest_moves).changesOnly .settings (by decide)

/-- The spool-low test stays told from an earlier state, and to a later one. -/
theorem SpoolLowTold.widen {s' t' : State} (h : SpoolLowTold s' t') (hl : s'.spool.low = s.spool.low) {x}
    (h1 : s'.oport.own = s.oport.own ++ x) {y} (h2 : s'.console.notices = s.console.notices ++ y)
    (h3 : s'.settings = s.settings) (ht : t.spool.low = t'.spool.low) (hf : t.spool.free = t'.spool.free)
    (hp : t.spool.promises = t'.spool.promises) {x'} (h1' : t.oport.own = t'.oport.own ++ x') {y'}
    (h2' : t.console.notices = t'.console.notices ++ y')
    (h3' : t'.console.noticeOverflow = true → t.console.noticeOverflow = true) : SpoolLowTold s t := by
  refine ⟨by rw [ht, State.isLow_congr hf hp]; exact h.1, fun hne => ?_⟩
  rw [ht] at hne ⊢
  rw [← hl] at hne
  exact NoticeFormed.later (NoticeFormed.earlier (h.2 hne) h1 h2 h3) h1' h2' h3'

theorem SpoolLowTold.finish (h : SpoolLowTold s t) : SpoolLowTold s t.finish :=
  SpoolLowTold.widen h rfl (x := []) (by simp) (y := []) (by simp) rfl (by simp) (by simp) (by simp) (x' := []) (by simp)
    (y' := []) (by simp) (by simp)

/-! ### Marks (R165, R166) -/

theorem State.enqueue_dirty (n) :
    (s.enqueue n).store.dirty = s.store.dirty ∧
    (s.enqueue n).store.underWay = s.store.underWay := by unfold State.enqueue; split <;> exact ⟨rfl, rfl⟩
theorem State.enqueueAll_dirty (l : List Nat) :
    ∀ s : State, (l.foldl State.enqueue s).store.dirty = s.store.dirty ∧
    (l.foldl State.enqueue s).store.underWay = s.store.underWay := by
  induction l with
  | nil => exact fun s => ⟨rfl, rfl⟩
  | cons x l ih =>
    intro s
    simp only [List.foldl_cons]
    exact ⟨(ih _).1.trans (State.enqueue_dirty x).1, (ih _).2.trans (State.enqueue_dirty x).2⟩
theorem State.fillQueue_dirty :
    (s.fillQueue).store.dirty = s.store.dirty ∧ (s.fillQueue).store.underWay = s.store.underWay := State.enqueueAll_dirty _ _
theorem State.mark_dirty (n) : (s.mark n).store.dirty = insertSlot n s.store.dirty := (State.enqueue_dirty n).1
theorem State.mem_mark (n) : n ∈ (s.mark n).store.dirty := by rw [State.mark_dirty, mem_insertSlot]; exact .inl rfl
theorem State.mem_mark_of_mem (n m) (h : m ∈ s.store.dirty) :
    m ∈ (s.mark n).store.dirty := by rw [State.mark_dirty, mem_insertSlot]; exact .inr h
theorem State.written_of_dirty {n} (h : n ∈ u.store.dirty) : Written u.finish n := by
  unfold Written
  rw [State.finish_image]
  have hi : u.finish.store.dirty = u.beginProgram.store.dirty ∧ u.finish.store.underWay = u.beginProgram.store.underWay := by
    unfold State.finish State.idleService
    split
    · split <;> exact ⟨rfl, rfl⟩
    · exact ⟨rfl, rfl⟩
  rw [hi.1, hi.2]
  unfold State.beginProgram
  split
  next m rest h1 h2 =>
    rw [State.fillQueue_dirty.1, State.fillQueue_dirty.2]
    by_cases hm : n = m
    · right; simp [hm]
    · left; simp [h, hm]
  · exact .inl h

/-! ### Replies (R175) -/

theorem State.replied_reply {v : State} {h : Hdr} {r b} (hc : v.console.reply = none) {x}
    (hg : v.oport.own = s.oport.own ++ x) :
    Replied s (v.reply h 0 r b).finish h r b := by
  unfold Replied
  simp only [State.finish_oport, State.finish_settings, State.finish_console]
  unfold State.reply State.sendReply
  split
  · exact .inl ⟨x, by simp [PortState.place, State.form, hg], hc⟩
  next h =>
    refine .inr ⟨?_, rfl⟩
    have : ¬ v.oport.own.length < 32 := fun hlt => h (decide_eq_true hlt)
    exact Nat.le_of_not_lt this

/-- R174, R175: what a management request that is carried out answers, and its frame. -/
theorem mgmtRequest_next {α : Type} {h : Hdr} {x : α} {act : α → State → Reply} (hr : ConsoleReady h s) {l : List Piece}
    (hm : Moves l s.restartIdle (act x s.restartIdle).state) (hl : Piece.reply ∉ l ∧ Piece.officeOther ∉ l := by decide) :
    ∃ t, mgmtRequest h (some x) act s = .next t ∧
      t = ((act x s.restartIdle).state.reply h 0 (act x s.restartIdle).result (act x s.restartIdle).body).finish ∧
      Replied s t h (act x s.restartIdle).result (act x s.restartIdle).body ∧ ChangesOnly (l ++ replyTraffic) s t ∧
      Moves (l ++ replyTraffic) s t := by
  refine ⟨_, mgmtRequest_ready hr, rfl, ?_, ?_⟩
  · obtain ⟨y, hy⟩ := hm.officeOwn_grows hl.2
    have hi : s.restartIdle.oport = s.oport ∧ s.restartIdle.console = s.console := by
      unfold State.restartIdle
      split <;> exact ⟨rfl, rfl⟩
    refine State.replied_reply ?_ (x := y) (by rw [hy, hi.1])
    rw [hm.changesOnly .reply hl.1, hi.2, hr.idle]
  · suffices h : Moves (l ++ replyTraffic) s _ from ⟨h.changesOnly, h⟩
    refine Moves.next (m := endOfStep) ?_ (State.finish_moves _) (by intro p hp; simp [replyTraffic]; tauto)
    refine Moves.next (m := [.officeOwn, .reply]) ?_ (State.reply_moves _ _ _ _ _)
      (by intro p hp; simp [replyTraffic] at hp ⊢; tauto)
    exact ((State.restartIdle_moves s).mono
      (by intro p hp; simp [replyTraffic, endOfStep] at hp ⊢; tauto)).trans (hm.mono (by intro p hp; simp; tauto))

theorem State.restartIdle_eq (s : State) : ∃ c : Timer, s.restartIdle = { s with clock := { s.clock with idle := c } } := by
  unfold State.restartIdle; split
  · exact ⟨_, rfl⟩
  · exact ⟨s.clock.idle, rfl⟩
theorem State.reply_eq (v : State) (h : Hdr) (tag r b) :
    ∃ q o, v.reply h tag r b = { v with oport := { v.oport with own := q}, console := {v.console with reply := o} } := by
  unfold State.reply State.sendReply; split
  · exact ⟨_, _, rfl⟩
  · exact ⟨_, _, rfl⟩

theorem ChangesOnly.wider {l m : List Piece} (h : ChangesOnly m s t) (hm : ∀ p ∈ m, p ∈ l := by decide) :
    ChangesOnly l s t := h.mono hm
theorem Moves.changes {l m : List Piece} (h : Moves m s t) (hm : ∀ p ∈ m, p ∈ l := by decide) :
    ChangesOnly l s t := h.changesOnly.mono hm

/-! ### Which fields an operation changes -/

theorem State.notify_eq (u : State) (n) :
    ∃ q l b, u.notify n =
      { u with oport := { u.oport with own := q }, console := { u.console with notices := l, noticeOverflow := b } } := by
  unfold State.notify State.offer PortState.place
  repeat' split
  all_goals exact ⟨_, _, _, rfl⟩
theorem State.enqueue_eq (u : State) (n) : ∃ q, u.enqueue n = { u with store := { u.store with queue := q } } := by
  unfold State.enqueue; split <;> exact ⟨_, rfl⟩
theorem State.enqueueAll_eq (l : List Nat) :
    ∀ u : State, ∃ q, l.foldl State.enqueue u = { u with store := { u.store with queue := q } } := by
  induction l with
  | nil => exact fun u => ⟨_, rfl⟩
  | cons x l ih =>
    intro u
    obtain ⟨q, e⟩ := State.enqueue_eq u x
    obtain ⟨q', e'⟩ := ih (u.enqueue x)
    exact ⟨q', by rw [List.foldl_cons, e', e]⟩
theorem State.fillQueue_eq (u : State) :
    ∃ q, u.fillQueue = { u with store := { u.store with queue := q } } := State.enqueueAll_eq _ _
theorem State.mark_eq (u : State) (n) :
    ∃ q, u.mark n = { u with store := { u.store with dirty := insertSlot n u.store.dirty, queue := q } } := by
  obtain ⟨q, e⟩ := State.enqueue_eq { u with store := { u.store with dirty := insertSlot n u.store.dirty } } n
  exact ⟨q, e⟩
theorem State.markAll_eq (l : List Nat) :
    ∀ u : State, ∃ d q, u.markAll l = { u with store := { u.store with dirty := d, queue := q } } ∧
    (∀ x, x ∈ d ↔ x ∈ l ∨ x ∈ u.store.dirty) := by
  induction l with
  | nil => exact fun u => ⟨_, _, rfl, by simp⟩
  | cons n l ih =>
    intro u
    obtain ⟨q, e⟩ := State.mark_eq u n
    obtain ⟨d, q', e', hd⟩ := ih (u.mark n)
    refine ⟨d, q', ?_, ?_⟩
    · show (u.mark n).markAll l = _
      rw [e', e]
    · intro x; rw [hd, e]; simp only [mem_insertSlot, List.mem_cons]; tauto
theorem State.checkpointOccasion_eq (u : State) :
    ∃ c q, u.checkpointOccasion = { u with store := { u.store with called := c, queue := q } } := by
  obtain ⟨q, e⟩ := State.fillQueue_eq { u with store := { u.store with
    called := u.store.dirty.foldl (fun l n => if deferred n then insertSlot n l else l) u.store.called } }
  exact ⟨_, q, e⟩
theorem State.sendAnswer_eq (u : State) (m) :
    ∃ q a, u.sendAnswer m = { u with fport := { u.fport with own := q }, answer := a } := by
  unfold State.sendAnswer; split <;> exact ⟨_, _, rfl⟩
theorem State.finish_eq (u : State) :
    ∃ d c q w i, u.finish =
      { u with store := { u.store with dirty := d, called := c, queue := q, underWay := w }
               clock := { u.clock with idle := i } } := by
  unfold State.finish State.beginProgram
  have hi : ∀ v : State, ∃ i, v.idleService = { v with clock := { v.clock with idle := i } } := by
    intro v; unfold State.idleService; repeat' split
    all_goals exact ⟨_, rfl⟩
  split
  next n rest h1 h2 =>
    obtain ⟨q, e⟩ := State.fillQueue_eq { u with store := { u.store with
      queue := rest, underWay := some (n, u.image n)
      dirty := u.store.dirty.filter (· ≠ n), called := u.store.called.filter (· ≠ n) } }
    obtain ⟨i, e'⟩ := hi (State.fillQueue { u with store := { u.store with
      queue := rest, underWay := some (n, u.image n)
      dirty := u.store.dirty.filter (· ≠ n), called := u.store.called.filter (· ≠ n) } })
    rw [e', e]
    exact ⟨_, _, _, _, _, rfl⟩
  · obtain ⟨i, e'⟩ := hi u
    exact ⟨_, _, _, _, _, e'⟩

theorem State.mode_of_awake (h : s.asleep = false) : s.clock.mode ≠ .standby ∧ s.clock.mode ≠ .waking := by
  unfold State.asleep at h; revert h; cases s.clock.mode <;> decide

/-- R121: a frame from a Present printer. -/
theorem State.frameFrom_present {p} (h : Present s p) (ha : s.asleep = false) :
    ∃ q, s.frameFrom p = { s with printers := q } ∧
    (∀ i, (s.frameFrom p).printer i = if i = p then (s.printer p).heard else s.printer i) := by
  have hb : s.becomePresent p = s := by
    unfold State.becomePresent; rw [show (s.printer p).standing.unreachable = false from h]; rfl
  unfold State.frameFrom
  rw [hb]
  dsimp only
  split
  next hm =>
    refine ⟨s.printers, rfl, fun i => ?_⟩
    split
    · subst i; unfold PrinterOf.heard; rw [if_pos hm]
    · rfl
  next hm =>
    refine ⟨_, rfl, fun i => ?_⟩
    rw [State.printer_updPrinter]
    split
    · unfold PrinterOf.heard; rw [if_neg hm]; unfold State.startTimer; rw [ha]; rfl
    · rfl

theorem State.panelAnswered_answerPanel {v : State} {h : Hdr} {r tg es} (hs : v.settings = s.settings) {x}
    (hg : v.fport.own = s.fport.own ++ x) :
    PanelAnswered s (v.answerPanel h 0 r tg es).finish h r tg es := by
  unfold PanelAnswered
  simp only [State.finish_fport, State.finish_answer]
  unfold State.answerPanel State.sendAnswer
  split
  · exact .inl ⟨x, by simp [PortState.place, State.form, hg, hs]⟩
  next h =>
    refine .inr ⟨?_, by simp [State.form, hs]⟩
    have : ¬ v.fport.own.length < 32 := fun hlt => h (decide_eq_true hlt)
    exact Nat.le_of_not_lt this

/-- R27, R62: a panel request that reaches its authentication -/
theorem panelRequest_next {h : Hdr} {ask : AskBody} {p : Nat} {f : Nat → Nat → State → PanelAnswer} (hr : PrinterReady h p s)
    (hs : Present s p) (hn : s.answer = none) :
    ∃ q, s.frameFrom p = { s with printers := q } ∧
    (∀ i, (s.frameFrom p).printer i = if i = p then (s.printer p).heard else s.printer i) ∧
    panelRequest h (some ask) (some f) s = .next (
      match (s.frameFrom p).authenticate ask with
          | (t, .inl r) => t.answerPanel h 0 r none []
          | (t, .inr k) =>
            let r := f p k t
            r.state.answerPanel h 0 r.result r.target r.entries : State).finish := by
  obtain ⟨q, e, hp⟩ := State.frameFrom_present hs hr.awake
  refine ⟨q, e, hp, ?_⟩
  unfold panelRequest
  rw [printerMessage_ready hr]
  have h1 : (s.frameFrom p).asleep = false := by rw [e]; exact hr.awake
  have h2 : (s.frameFrom p).answer.isSome = false := by rw [e]; simp [hn]
  simp only [h1, h2]
  rfl

theorem State.accountOfBadge_congr (h : t.accounts = s.accounts) (b) :
    t.accountOfBadge b = s.accountOfBadge b := by simp [State.accountOfBadge, h]

/-- R27: the holder of an account that is ready. -/
theorem State.authenticate_ready {ask p k h} (hr : PanelReady h ask p k s) (hacc : t.accounts = s.accounts) :
    t.authenticate ask = (if (s.account k).cfg.pin.isSome && (s.account k).failures != 0
      then t.setBalance k { s.account k with failures := 0 } else t, .inr k) := by
  unfold State.authenticate
  rw [State.accountOfBadge_congr hacc, hr.badge]
  dsimp only
  rw [State.account_congr hacc, if_neg (by rw [hr.valid]; decide), if_neg (by rw [hr.isOpen]; decide)]
  rcases hr.pin with h | h
  · rw [h]; rfl
  · cases h' : (s.account k).cfg.pin with
    | none => rfl
    | some d =>
      dsimp only
      rw [h'] at h
      rw [if_pos h.symm]
      by_cases hz : (s.account k).failures = 0
      · simp [hz]
      · simp [hz]
theorem State.printer_of_setPrinter {w v : State} {p : Nat} {e : Printer} (hw : w.printers = (v.setPrinter p e).printers) (i) :
    w.printer i = if i = p then e else v.printer i := by
  unfold State.printer; rw [hw]; unfold State.setPrinter; dsimp only; rw [Tbl.get_put]
theorem State.printer_of_setPrinter_self {w v : State} {p : Nat} {e : Printer} (hw : w.printers = (v.setPrinter p e).printers) :
    w.printer p = e :=
  (State.printer_of_setPrinter hw p).trans (if_pos rfl)
theorem State.account_of_setAccount {w v : State} {k : Nat} {a : Account} (hw : w.accounts = (v.setAccount k a).accounts) (i) :
    w.account i = if i = k then a else v.account i := by
  unfold State.account; rw [hw]; unfold State.setAccount; dsimp only; rw [Tbl.get_put]

/-! ### The idle timer starts over at a management request (R158) -/

@[simp] theorem State.restartIdle_printer (p) :
    s.restartIdle.printer p = s.printer p := by obtain ⟨c, e⟩ := State.restartIdle_eq s; rw [e]; rfl
@[simp] theorem State.restartIdle_callout (p) :
    s.restartIdle.callout p = s.callout p := by obtain ⟨c, e⟩ := State.restartIdle_eq s; rw [e]; rfl
@[simp] theorem State.restartIdle_reorder (p) :
    s.restartIdle.reorder p = s.reorder p := by obtain ⟨c, e⟩ := State.restartIdle_eq s; rw [e]; rfl
@[simp] theorem State.restartIdle_calloutOf (p) :
    s.restartIdle.calloutOf p = s.calloutOf p := by obtain ⟨c, e⟩ := State.restartIdle_eq s; rw [e]; rfl
@[simp] theorem State.restartIdle_orderOf (p c) :
    s.restartIdle.orderOf p c = s.orderOf p c := by obtain ⟨c, e⟩ := State.restartIdle_eq s; rw [e]; rfl
@[simp] theorem State.restartIdle_account (p) :
    s.restartIdle.account p = s.account p := by obtain ⟨c, e⟩ := State.restartIdle_eq s; rw [e]; rfl
@[simp] theorem State.restartIdle_settings :
    s.restartIdle.settings = s.settings := by obtain ⟨c, e⟩ := State.restartIdle_eq s; rw [e]
@[simp] theorem State.restartIdle_store : s.restartIdle.store = s.store := by obtain ⟨c, e⟩ := State.restartIdle_eq s; rw [e]
theorem State.restartIdle_changes (s : State) :
    ChangesOnly [Piece.idleTimer] s s.restartIdle := (State.restartIdle_moves s).changesOnly

theorem carriedOut_of {α : Type} {c : Instr} {x : α} {act : α → State → Reply} {h : Hdr}
    (hr : ConsoleReady h s) (hc : exec c s = mgmtRequest h (some x) act s)
    {r : Result} {b : ReplyBody} (ha : act x s.restartIdle = { state := u, result := r, body := b })
    {l : List Piece} (hm : Moves l s.restartIdle u)
    (hl : Piece.reply ∉ l ∧ Piece.officeOther ∉ l := by decide) : CarriedOut c h s u r b := by
  obtain ⟨t, e1, e2, e3, -, -⟩ := mgmtRequest_next (act := act) (x := x) hr (l := l) (by rw [ha]; exact hm) hl
  rw [ha] at e2 e3
  refine ⟨t, hc.trans e1, e3, ?_⟩
  rw [e2]
  exact Moves.changes (((State.reply_moves u h 0 r b).mono (l := replyTraffic)).next (State.finish_moves _))

theorem carriedOut_unchanged {α : Type} {c : Instr} {x : α} {act : α → State → Reply} {h : Hdr}
    (hr : ConsoleReady h s) (hc : exec c s = mgmtRequest h (some x) act s)
    {r : Result} {b : ReplyBody} (ha : act x s.restartIdle = { state := s.restartIdle, result := r, body := b }) :
    CarriedOut c h s s r b := by
  obtain ⟨t, e1, e2, e3⟩ := carriedOut_of hr hc ha (Moves.refl _) (l := [])
  exact ⟨t, e1, e2, ((State.restartIdle_changes s).mono (by decide)).trans e3⟩

theorem EntryBecomes.of_restartIdle {l p e} (hl : Piece.idleTimer ∈ l) (h : EntryBecomes l s.restartIdle t p e) :
    EntryBecomes l s t p e :=
  ⟨h.printer, fun i hi => (h.printers i hi).trans (State.restartIdle_printer i),
      ((State.restartIdle_changes s).mono (by intro x hx; simp at hx; subst hx; simp [hl])).trans h.rest⟩

theorem EntryBecomes.later {l p e} (h : EntryBecomes l s t p e) (hp : u.printers = t.printers)
    (h2 : ChangesOnly ([Piece.printers] ++ l) t u) : EntryBecomes l s u p e :=
  ⟨(State.printer_congr hp p).trans h.printer, fun i hi => (State.printer_congr hp i).trans (h.printers i hi),
      h.rest.trans h2⟩
theorem EntryBecomes.wider {l m p e} (h : EntryBecomes m s t p e) (hm : ∀ x ∈ m, x ∈ l) : EntryBecomes l s t p e :=
  ⟨h.printer, h.printers, h.rest.mono (by
    intro x hx
    simp at hx ⊢
    rcases hx with hx | hx
    · exact .inl hx
    · exact .inr (hm x hx))⟩

end Sys2Proof.Machine
end

