-- ==== Sys2Proof/WellFormed.lean ====
section
/-! DEFINITION. Well-formed commands: the operands that a frame can carry in the field widths of R186, and the indexes that a
timer, a context or a record of the part can have. A meaning is defined on every operand; these are the checks that a
command from outside passes. -/

namespace Sys2Proof

/-- A number that `n` bytes carry. -/
def fits (n v : Nat) : Bool := decide (v < 256 ^ n)

/-- An optional value that passes a check when it is present. -/
def optFits {α : Type} (p : α → Bool) (o : Option α) : Bool := o.all p

/-- R186: the header's fields. -/
def Hdr.wf (h : Hdr) : Bool := fits 3 h.src && fits 3 h.dst && fits 2 h.jobTag && fits 2 h.reqTag

/-- R186: JOB_OPEN. -/
def JobOpenBody.wf (b : JobOpenBody) : Bool :=
  fits 3 b.account && fits 2 b.faces && fits 2 b.colourFaces && fits 1 b.copies && fits 3 b.target && fits 4 b.bytes
    && decide (b.name.length ≤ 40)

/-- R186: JOB_DATA. -/
def JobDataBody.wf (b : JobDataBody) : Bool :=
  fits 4 b.offset && decide (1 ≤ b.data.length ∧ b.data.length ≤ 1400)

/-- R183: a PIN of RELEASE_ASK is 4 to 8 decimal digits. -/
def AskBody.wf (b : AskBody) : Bool :=
  fits 4 b.badge && optFits (fun d => decide (4 ≤ d.length ∧ d.length ≤ 8) && d.all (fun x => decide (x ≤ 9))) b.pin

/-- R186: PAGE_REPORT. -/
def PageReportBody.wf (b : PageReportBody) : Bool := fits 3 b.mono && fits 3 b.colour && fits 3 b.sheets

/-- R186: a colorant report. -/
def ColorantReport.wf (r : ColorantReport) : Bool :=
  fits 2 r.level && optFits (fun t => decide (1 ≤ t.length ∧ t.length ≤ 16)) r.serial

/-- R183: a STATUS has at most four reports, no two of one colorant. -/
def StatusBody.wf (b : StatusBody) : Bool :=
  b.reports.all ColorantReport.wf && decide ((b.reports.map ColorantReport.colorant).Nodup)

/-- R177, R186: the Settings block. -/
def Settings.wf (x : Settings) : Bool :=
  fits 2 x.frameType && fits 3 x.ownStation && fits 3 x.noticeStation && fits 1 x.periodLength && fits 3 x.nextRollDay
    && fits 1 x.renotify && fits 1 x.idleTime && fits 1 x.checkpoint

/-- R5, R186: the Classifier block. -/
def ClassEntry.wf (e : ClassEntry) : Bool := fits 3 e.value && fits 3 e.mask && optFits (fits 2) e.guest && fits 1 e.hold

/-- R47, R186: the Tariff block. -/
def Row.wf (r : Row) : Bool := fits 2 r.rm && fits 2 r.rc && fits 2 r.ps && fits 1 r.l && fits 1 r.jmin

/-- R186: a budget below the word that means Unlimited. -/
def Budget.wf : Budget → Bool
  | .finite n => decide (n < 0xFFFFFFFF)
  | .unlimited => true

/-- R25, R186: the Account block. Its tests are those of R42. -/
def AccountConfig.wf (c : AccountConfig) : Bool :=
  fits 3 c.number && optFits (fits 4) c.badge && optFits (fun d => decide (1 ≤ d.length ∧ d.length ≤ 255)) c.pin
    && fits 1 c.cls && Budget.wf c.budget && fits 1 c.heldCap

/-- R134, R186: the writable fields of a colorant. -/
def SupplyFields.wf (f : SupplyFields) : Bool := fits 3 f.yield && fits 1 f.lead && fits 2 f.floor

/-- R83, R110, R186: the Printer block. Its tests are those of R84. -/
def PrinterFields.wf (f : PrinterFields) : Bool :=
  optFits (fits 3) f.cfg.station && optFits (fun t => decide (t.length ≤ 255)) f.cfg.name && fits 1 f.cfg.group
    && fits 1 f.cfg.band && fits 2 f.cfg.stallTimeout && fits 1 f.cfg.presenceInterval && fits 1 f.cfg.standingLimit
    && f.k.wf && f.c.wf && f.m.wf && f.y.wf

/-- A printer index of the Printer Table. -/
def printerIndex (p : Nat) : Bool := decide (p < Config.printers)

/-- A colorant command's operands. -/
def colorantOperand (b : Nat × Colorant) : Bool := fits 1 b.1

/-- Whether a command is well formed. -/
def WellFormed (i : Instr) : Bool :=
  match i with
  | .jobOpen h b => h.wf && optFits JobOpenBody.wf b
  | .jobData h b => h.wf && optFits JobDataBody.wf b
  | .jobClose h total => h.wf && optFits (fits 4) total
  | .jobCancel h _ => h.wf
  | .receiveIdleExpiry context => decide (context < Config.contexts)
  | .list h b => h.wf && optFits AskBody.wf b
  | .releaseAll h b => h.wf && optFits AskBody.wf b
  | .releaseOne h b => h.wf && optFits AskBody.wf b
  | .deleteOne h b => h.wf && optFits AskBody.wf b
  | .grant h chunks => h.wf && optFits (fits 4) chunks
  | .pageReport h b => h.wf && optFits PageReportBody.wf b
  | .status h b => h.wf && optFits StatusBody.wf b
  | .fault h kind => h.wf && optFits (fits 1) kind
  | .stallTimerExpiry printer => printerIndex printer
  | .finishTimerExpiry tag => decide (1 ≤ tag ∧ tag ≤ 65535)
  | .presenceTimerExpiry printer => printerIndex printer
  | .standingLimitExpiry printer => printerIndex printer
  | .renotifyTimerExpiry record => decide (record < Config.callouts)
  | .minuteEvent => true
  | .hourEvent => true
  | .calendarMidnight => true
  | .idleTimerExpiry => true
  | .storeDrainComplete => true
  | .wakeCompletion => true
  | .checkpointTimerExpiry => true
  | .programOperationComplete => true
  | .restartComplete => true
  | .powerLoss => true
  | .coldStart _ => true
  | .startUpComplete => true
  | .passThroughFrame _ f => fits 2 f.etherType
  | .fptDiscard _ _ => true
  | .frameTransmit _ => true
  | .jobOutgoingPlace => true
  | .mgmtReplyPlace => true
  | .noticeSend => true
  | .releaseAnswerPlace => true
  | .streamControlPlace printer => printerIndex printer
  | .streamData printer => printerIndex printer
  | .streamEnd printer => printerIndex printer
  | .tableRead h b => h.wf && optFits (fun x => fits 2 x.2) b
  | .settingsWrite h b => h.wf && optFits (fun x => fits 2 x.1 && x.2.wf) b
  | .classifierWrite h b => h.wf && optFits (fun x => fits 2 x.1 && x.2.wf) b
  | .tariffWrite h b => h.wf && optFits (fun x => fits 2 x.1 && x.2.wf) b
  | .accountWrite h b => h.wf && optFits (fun x => fits 2 x.1 && x.2.wf) b
  | .printerWrite h b => h.wf && optFits (fun x => fits 2 x.1 && x.2.wf) b
  | .tableWrite h b => h.wf && optFits (fun x => fits 2 x.2) b
  | .query h _ => h.wf
  | .rollPeriod h _ => h.wf
  | .forceRoll h _ => h.wf
  | .setClock h b => h.wf && optFits (fun x => fits 2 x.1 && fits 2 x.2) b
  | .standby h _ => h.wf
  | .restart h _ => h.wf
  | .checkpoint h _ => h.wf
  | .park h printer => h.wf && optFits (fits 1) printer
  | .unpark h printer => h.wf && optFits (fits 1) printer
  | .parkNow h printer => h.wf && optFits (fits 1) printer
  | .withdraw h printer => h.wf && optFits (fits 1) printer
  | .reinstate h printer => h.wf && optFits (fits 1) printer
  | .ackCallout h printer => h.wf && optFits (fits 1) printer
  | .closeCallout h printer => h.wf && optFits (fits 1) printer
  | .confirmOrder h b => h.wf && optFits colorantOperand b
  | .cancelOrder h b => h.wf && optFits colorantOperand b
  | .cartridgeReplaced h b => h.wf && optFits colorantOperand b
  | .adjustAccount h b => h.wf && optFits (fun x => fits 2 x.1 && decide (-2147483648 ≤ x.2 ∧ x.2 ≤ 2147483647)) b
  | .unlockAccount h account => h.wf && optFits (fits 2) account
  | .suspend h account => h.wf && optFits (fits 2) account
  | .resume h account => h.wf && optFits (fits 2) account
  | .purgeJob h tag => h.wf && optFits (fits 2) tag
  | .unknownReleaseRequest h b => h.wf && optFits AskBody.wf b
  | .unknownMgmtRequest h _ => h.wf

end Sys2Proof
end

