-- ==== Sys2Proof/Tests/Slice0.lean ====
section
/-! SUPPORT. Tests on small states: ill-formed commands that `WellFormed` refuses, frames read to commands, one step of each
command with values worked out from the book, and for each statement with premises a state and operands that meet them. -/

namespace Sys2Proof.Tests

open Sys2Proof Sys2Proof.Machine

/-! ### Small states -/

/-- The state that a command leaves, when it leaves one. -/
def ran (c : Instr) (s : State) : Option State :=
  match exec c s with
  | .next t => some t
  | _ => none

/-- What a command leaves, seen through `f`. -/
def seen {α : Type} (c : Instr) (s : State) (f : State → α) : Option α := (ran c s).map f

/-- A header of a message on the O-port, and one on the F-port. -/
def office (src tag : Nat) : Hdr := { port := .office, src := src, dst := 0, jobTag := tag, reqTag := 7 }
def fleet (src tag : Nat) : Hdr := { port := .fleet, src := src, dst := 0, jobTag := tag, reqTag := 7 }

/-- The console of the tests. -/
def console : Hdr := office 5 0

/-- A valid account with a badge, a PIN and a budget of 1,000 points. -/
def acct : Account :=
  { Account.factory with
    cfg := { AccountConfig.factory with valid := true, badge := some 77, pin := some [1, 2, 3, 4], budget := .finite 1000 } }

/-- A colour printer in service, at station 30H. -/
def prn : Printer :=
  { printerFactory with
    cfg := { printerConfigFactory with station := some 0x30, colourCapable := true }
    service := .inService, presence := .running 5
    k := some (Supply.create SupplyFields.factory), c := some (Supply.create SupplyFields.factory)
    m := some (Supply.create SupplyFields.factory), y := some (Supply.create SupplyFields.factory) }

/-- A part with one account and one printer, whose Classifier lets every station hold jobs. -/
def base : State :=
  { State.reset with
    dflt := { ClassEntry.factoryDefault with policy := .hold, guest := some 0 }
    accounts := [(0, acct)], printers := [(3, prn)]
    oport := { State.reset.oport with own := [] } }

/-- A job of account 0 and station 9: 10 mono faces of 5,000 bytes. -/
def jobAs (st : JobState) : Job :=
  { tag := 1, origin := 9, account := 0, hit := 24, declaredCounts := { tm := 10, tc := 0, ts := 10 }, media := .standard
    target := none, name := none, declared := 5000, received := 5000, chain := [0, 1], promise := 0, stamp := some (0, 0)
    expiry := some 1440, state := st, rates := none, reservation := none, charged := none, reported := none, sent := 0
    allowed := 0, interrupted := false, finish := .stopped }

/-- The same job while 4,096 of its bytes have been received. -/
def receivingJob : Job :=
  { jobAs .receiving with received := 4096, chain := [0], promise := 1, stamp := none, expiry := none }

/-- The part while the job is received. -/
def receiving : State :=
  { base with
    jobs := { base.jobs with recs := [receivingJob], lastTag := 1
                             contexts := some { tag := 1, idle := .running 120 } :: List.replicate 31 none }
    spool := { base.spool with free := [⟨1, 65535⟩], promises := 1 } }

/-- The part while the job is held. -/
def holding : State :=
  { base with
    jobs := { base.jobs with recs := [jobAs .held], lastTag := 1, holdSeq := 1 }
    spool := { base.spool with free := [⟨2, 65534⟩] }
    accounts := [(0, { acct with held := [1] })] }

/-- The job in delivery, with 4 points reserved at a row of 400 milli-points a mono face. -/
def delivered (st : JobState) : Job :=
  { jobAs st with rates := some { row := { Row.factory with rm := 400 }, band := 0, cls := 0 }, reservation := some 4 }

/-- The part while the job is in delivery at printer 3. -/
def delivering (st : JobState) : State :=
  { base with
    jobs := { base.jobs with recs := [delivered st], lastTag := 1, holdSeq := 1 }
    spool := { base.spool with free := [⟨2, 65534⟩] }
    accounts := [(0, { acct with reserved := 4 })]
    printers := [(3, { prn with queue := [1] })] }

/-- The part while the job's stream is under way. -/
def printing : State :=
  { delivering .printing with printers := [(3, { prn with queue := [1], stall := .running 60 })] }

/-- A callout and an order of printer 3. -/
def openCallout : Callout :=
  { printer := 3, kind := .attention, acknowledged := false, opened := 0, count := 0
    cause := .standingLimit { Standing.none with jam := true }, timer := .running 30 }
def openOrder : Reorder :=
  { printer := 3, colorant := .k, confirmed := false, openedDay := none, level := 90, days := none }

/-- The part with a callout open for printer 3, and with an order open for its colorant K. -/
def called : State := { base with callouts := [(0, some openCallout)] }
def ordered : State := { base with reorders := [(0, some openOrder)] }

/-- What a workstation says of a job, and a panel of its holder. -/
def openBody : JobOpenBody :=
  { account := 1, faces := 10, colourFaces := 0, copies := 0, duplex := false, media := .standard, target := 0, bytes := 5000
    name := [] }
def ask : AskBody := { badge := 77, pin := some [1, 2, 3, 4] }

/-- The fields of a write that keeps printer 3 as it is. -/
def prnFields : PrinterFields :=
  { cfg := prn.cfg, modeKnown := true, k := SupplyFields.factory, c := SupplyFields.factory, m := SupplyFields.factory
    y := SupplyFields.factory }

/-- The result of the last message in a queue of the part's own. -/
def lastResult (q : PortState) : Option Result :=
  match q.own.getLast? with
  | some m => match m.body with
    | .jobReply r _ => some r
    | .mgmtReply r _ => some r
    | .releaseAnswer r _ _ => some r
    | _ => none
  | none => none

/-! ### Ill-formed commands -/

theorem test_wf_station : WellFormed (.jobCancel { office 9 1 with src := 16777216 } true) = false := by decide
theorem test_wf_tag : WellFormed (.jobCancel (office 9 65536) true) = false := by decide
theorem test_wf_jobOpen : WellFormed (.jobOpen (office 9 0) (some { openBody with copies := 256 })) = false := by decide
theorem test_wf_jobData : WellFormed (.jobData (office 9 1) (some { offset := 0, data := [] })) = false := by decide
theorem test_wf_jobClose : WellFormed (.jobClose (office 9 1) (some 4294967296)) = false := by decide
theorem test_wf_context : WellFormed (.receiveIdleExpiry 32) = false := by decide
theorem test_wf_pin : WellFormed (.list (fleet 0x30 0) (some { ask with pin := some [1, 2, 10, 4] })) = false := by decide
theorem test_wf_grant : WellFormed (.grant (fleet 0x30 1) (some 4294967296)) = false := by decide
theorem test_wf_pageReport :
    WellFormed (.pageReport (fleet 0x30 1) (some ⟨16777216, 0, 0, false, false⟩)) = false := by decide
theorem test_wf_status :
    WellFormed (.status (fleet 0x30 0) (some ⟨false, false, false, [⟨.k, 1, none⟩, ⟨.k, 2, none⟩]⟩)) = false := by decide
theorem test_wf_fault : WellFormed (.fault (fleet 0x30 0) (some 256)) = false := by decide
theorem test_wf_printer : WellFormed (.streamData 64) = false := by decide
theorem test_wf_finish : WellFormed (.finishTimerExpiry 0) = false := by decide
theorem test_wf_record : WellFormed (.renotifyTimerExpiry 32) = false := by decide
theorem test_wf_frame : WellFormed (.passThroughFrame .office ⟨65536, []⟩) = false := by decide
theorem test_wf_index : WellFormed (.tableRead console (some (.account, 65536))) = false := by decide
theorem test_wf_settings :
    WellFormed (.settingsWrite console (some (0, { Settings.factory with idleTime := 256 }))) = false := by decide
theorem test_wf_classifier :
    WellFormed (.classifierWrite console (some (0, { ClassEntry.factory with hold := 256 }))) = false := by decide
theorem test_wf_row : WellFormed (.tariffWrite console (some (0, { Row.factory with rm := 65536 }))) = false := by decide
theorem test_wf_account :
    WellFormed (.accountWrite console (some (0, { acct.cfg with budget := .finite 4294967295 }))) = false := by decide
theorem test_wf_printerWrite :
    WellFormed (.printerWrite console (some (0, { prnFields with k := ⟨10000, 256, 100⟩ }))) = false := by decide
theorem test_wf_good : WellFormed (.jobOpen (office 9 0) (some openBody)) = true := by decide

/-! ### Frames (R181, R182, R186) -/

/-- A frame of the FPT type with a payload, after the 14 bytes of its Ethernet header. -/
def frameOf (payload : List Byte) : EthFrame := { etherType := 0xB7C4, bytes := List.replicate 14 0 ++ payload }

/-- JOB_CLOSE (12H) from station 9 for tag 1, with a total of 5,000 bytes, and one byte after its body. -/
theorem test_frame_jobClose : frameCommand 0xB7C4 .office (frameOf
    [0x01, 0x12, 0, 0, 9, 0, 0, 0, 0, 1, 0, 7, 0, 4, 0, 0, 0x13, 0x88, 0xEE]) = .jobClose (office 9 1) (some 5000) := by decide

/-- RELEASE_ONE (20H, request 2) from station 30H for tag 1, badge 77, PIN 1234. -/
theorem test_frame_releaseOne : frameCommand 0xB7C4 .fleet (frameOf
    [0x01, 0x20, 0, 0, 0x30, 0, 0, 0, 0, 1, 0, 7, 0, 14, 0, 0, 0, 77, 4, 0x31, 0x32, 0x33, 0x34, 0, 0, 0, 0, 2])
      = .releaseOne (fleet 0x30 1) (some ask) := by decide

/-- GRANT (38H) of 2 chunks. -/
theorem test_frame_grant : frameCommand 0xB7C4 .fleet (frameOf
    [0x01, 0x38, 0, 0, 0x30, 0, 0, 0, 0, 1, 0, 7, 0, 4, 0, 0, 0, 2]) = .grant (fleet 0x30 1) (some 2) := by decide

/-- MGMT_REQUEST (40H) with the command PARK (code 6) of printer 3. -/
theorem test_frame_park : frameCommand 0xB7C4 .office (frameOf
    [0x01, 0x40, 0, 0, 5, 0, 0, 0, 0, 0, 0, 7, 0, 6, 2, 0, 0, 0, 6, 3]) = .park console (some 3) := by decide

/-- ADJUST_ACCOUNT (code 16) of account 0 by −2. -/
theorem test_frame_adjust : frameCommand 0xB7C4 .office (frameOf
    [0x01, 0x40, 0, 0, 5, 0, 0, 0, 0, 0, 0, 7, 0, 11, 2, 0, 0, 0, 16, 0, 0, 0xFF, 0xFF, 0xFF, 0xFE])
      = .adjustAccount console (some (0, -2)) := by decide

/-- A version other than 1, and a job message on the F-port, are discarded. -/
theorem test_frame_version : frameCommand 0xB7C4 .office (frameOf [2, 0x13, 0, 0, 9, 0, 0, 0, 0, 1, 0, 7, 0, 0])
    = .fptDiscard .office [2, 0x13, 0, 0, 9, 0, 0, 0, 0, 1, 0, 7, 0, 0] := by decide
theorem test_frame_port : frameCommand 0xB7C4 .fleet (frameOf [1, 0x13, 0, 0, 9, 0, 0, 0, 0, 1, 0, 7, 0, 0])
    = .fptDiscard .fleet [1, 0x13, 0, 0, 9, 0, 0, 0, 0, 1, 0, 7, 0, 0] := by decide

/-- A frame of another type crosses the part. -/
theorem test_frame_other : frameCommand 0xB7C4 .office ⟨0x0800, []⟩ = .passThroughFrame .office ⟨0x0800, []⟩ := by decide

/-- No row of the opcode table has bits, so no word spells a command. -/
theorem test_word_spells_none : decodeTableWord 16 0 = none ∧ base.withFetchWord 16 0 = base := ⟨rfl, rfl⟩

/-! ### One step of each command -/

/-- R2, R9: the first tag is 1, and a job of 5,000 bytes promises two segments. -/
theorem test_jobOpen : seen (.jobOpen (office 9 0) (some openBody)) base
    (fun t => (t.jobs.recs.map Job.tag, t.spool.promises, lastResult t.oport)) = some ([1], 2, some .ok) := by decide
/-- R8: no face makes the job empty. -/
theorem test_jobOpen_empty : seen (.jobOpen (office 9 0) (some { openBody with faces := 0 })) base
    (fun t => (t.jobs.recs.map Job.tag, lastResult t.oport)) = some ([], some .emptyJob) := by decide
/-- R12, R13: data past the chain take segment 1, the head of the Free Segment List, and fulfil its promise. -/
theorem test_jobData : seen (.jobData (office 9 1) (some { offset := 4096, data := [0xAB] })) receiving
    (fun t => (t.job 1).map (fun j => (j.received, j.chain, j.promise, memRead t.spool.mem 4096)))
      = some (some (4097, [0, 1], 0, some 0xAB)) := by decide
/-- R12: an offset that is not the bytes received is answered with the bytes received. -/
theorem test_jobData_order : seen (.jobData (office 9 1) (some { offset := 0, data := [0xAB] })) receiving
    (fun t => lastResult t.oport) = some (some .outOfOrder) := by decide
/-- R14, R17: the job is held for 24 hours from minute 0. -/
theorem test_jobClose : seen (.jobClose (office 9 1) (some 4096)) receiving
    (fun t => ((t.account 0).held, (t.job 1).map (fun j => (j.state, j.expiry)), t.spool.promises))
      = some ([1], some (.held, some 1440), 0) := by decide
/-- R14: another total is out of order. -/
theorem test_jobClose_order : seen (.jobClose (office 9 1) (some 5000)) receiving
    (fun t => lastResult t.oport) = some (some .outOfOrder) := by decide
/-- R19: a Held job leaves its Held List, and its chain goes to the tail of the Free Segment List. -/
theorem test_jobCancel : seen (.jobCancel (office 9 1) true) holding
    (fun t => ((t.account 0).held, t.jobs.recs.length, t.spool.free)) = some ([], 0, [⟨2, 65534⟩, ⟨0, 2⟩]) := by decide
/-- R19: another station's cancel finds no job. -/
theorem test_jobCancel_other : seen (.jobCancel (office 8 1) true) holding
    (fun t => (t.jobs.recs.length, lastResult t.oport)) = some (1, some .noSuchJob) := by decide
/-- R11: the job of the context ends. -/
theorem test_receiveIdleExpiry : seen (.receiveIdleExpiry 0) receiving
    (fun t => (t.jobs.recs.length, t.jobs.contexts[0]?)) = some (0, some none) := by decide
/-- R70: the Held job is shown, priced 1 at an empty row, and would be released. -/
theorem test_list : seen (.list (fleet 0x30 0) (some ask)) holding (fun t => t.fport.own.map OwnMsg.body)
    = some [.releaseAnswer .ok none [⟨1, none, 10, false, 1, .released⟩]] := by decide +kernel
/-- R72: the Held job is released and streams at once. -/
theorem test_releaseAll : seen (.releaseAll (fleet 0x30 0) (some ask)) holding
    (fun t => ((t.printer 3).queue, (t.job 1).map Job.state, (t.account 0).reserved)) = some ([1], some .printing, 1) := by
  decide
/-- R74: a tag of no Held job of the account. -/
theorem test_releaseOne : seen (.releaseOne (fleet 0x30 2) (some ask)) holding
    (fun t => (lastResult t.fport, (t.job 1).map Job.state)) = some (some .noSuchJob, some .held) := by decide
/-- R75: the job ends. -/
theorem test_deleteOne : seen (.deleteOne (fleet 0x30 1) (some ask)) holding
    (fun t => (t.jobs.recs.length, lastResult t.fport)) = some (0, some .ok) := by decide
/-- R28: a wrong PIN counts one failure. -/
theorem test_pin : seen (.list (fleet 0x30 0) (some { ask with pin := some [9, 9, 9, 9] })) base
    (fun t => ((t.account 0).failures, lastResult t.fport)) = some (1, some .authFailed) := by decide
/-- R91: the chunks allowed rise to 2. -/
theorem test_grant : seen (.grant (fleet 0x30 1) (some 2)) printing (fun t => (t.job 1).map Job.allowed) = some (some 2) := by
  decide
/-- R95, R113: a GRANT for a job that is not there is a stream error, of weight 16. -/
theorem test_grant_stray : seen (.grant (fleet 0x30 2) (some 2)) printing (fun t => (t.printer 3).score) = some 16 := by decide
/-- R96, R137: 4 mono faces of a PAGES printer leave 9,996 in K. -/
theorem test_pageReport : seen (.pageReport (fleet 0x30 1) (some ⟨4, 0, 4, false, false⟩)) printing
    (fun t => ((t.printer 3).k.map (fun r => (r.remaining, r.today)), (t.printer 3).lifeMono)) = some (some (9996, 4), 4) := by
  decide
/-- R97, R100: a final report of 10 faces at 400 milli-points settles 4 points and ends the job. -/
theorem test_pageReport_final : seen (.pageReport (fleet 0x30 1) (some ⟨10, 0, 10, true, false⟩)) printing
    (fun t => ((t.account 0).spent, (t.account 0).reserved, t.jobs.recs.length)) = some (4, 0, 0) := by decide
/-- R93, R120: JAM begins a pause: the stall timer waits and the standing limit timer runs. -/
theorem test_status : seen (.status (fleet 0x30 0) (some ⟨true, false, false, []⟩)) printing
    (fun t => ((t.printer 3).stall, (t.printer 3).limit)) = some (.suspended 60, .running 30) := by decide
/-- R113: an engine fault weighs 96. -/
theorem test_fault : seen (.fault (fleet 0x30 0) (some 3)) base
    (fun t => ((t.printer 3).score, (t.printer 3).lastFault)) = some (96, some (0, .engine)) := by decide
/-- R94: the stalled job, with nothing reported, is charged nothing and returns to hold; the fault weighs 32. -/
theorem test_stallTimerExpiry : seen (.stallTimerExpiry 3) printing
    (fun t => ((t.job 1).map Job.state, (t.account 0).reserved, (t.account 0).spent, (t.printer 3).score))
      = some (some .held, 0, 0, 32) := by decide
/-- R98: a Finishing job is settled on its declared counts; 10 faces are handed on before the fault of weight 16. -/
theorem test_finishTimerExpiry : seen (.finishTimerExpiry 1)
    { delivering .finishing with jobs := { base.jobs with recs := [{ delivered .finishing with finish := .running 600 }] } }
    (fun t => ((t.account 0).spent, (t.printer 3).score, (t.printer 3).queue)) = some (4, 16, []) := by decide
/-- R121: the printer becomes Absent. -/
theorem test_presenceTimerExpiry : seen (.presenceTimerExpiry 3) base
    (fun t => ((t.printer 3).standing.unreachable, (t.printer 3).presence)) = some (true, .stopped) := by decide
/-- R123: an Attention callout is raised. -/
theorem test_standingLimitExpiry : seen (.standingLimitExpiry 3)
    { base with printers := [(3, { prn with standing := { Standing.none with jam := true }, limit := .running 30 })] }
    (fun t => (t.callout 0).map (fun c => (c.kind, c.printer))) = some (some (.attention, 3)) := by decide
/-- R126: the first renotify. -/
theorem test_renotifyTimerExpiry : seen (.renotifyTimerExpiry 0) called
    (fun t => (t.callout 0).map (fun c => (c.count, c.kind))) = some (some (1, .attention)) := by decide
/-- R127: the third escalates, and the count starts over. -/
theorem test_renotify_escalates : seen (.renotifyTimerExpiry 0) { called with callouts := [(0, some { openCallout with count := 2 })] }
    (fun t => (t.callout 0).map (fun c => (c.count, c.kind))) = some (some (0, .service)) := by decide
/-- R153: minute 60 raises the hour event. -/
theorem test_minuteEvent : seen .minuteEvent { base with clock := { base.clock with uptime := 59 } }
    (fun t => (t.clock.uptime, t.clock.hourRaised)) = some (60, true) := by decide
/-- R18: a job whose expiry is reached ends. -/
theorem test_minuteEvent_expiry : seen .minuteEvent { holding with clock := { base.clock with uptime := 1439 } }
    (fun t => t.jobs.recs.length) = some 0 := by decide
/-- R115: a quiet hour lowers the score by 8. -/
theorem test_hourEvent : seen .hourEvent
    { base with clock := { base.clock with hourRaised := true }, printers := [(3, { prn with score := 20 })] }
    (fun t => (t.printer 3).score) = some 12 := by decide
/-- R154: midnight begins the next day. -/
theorem test_calendarMidnight : seen .calendarMidnight
    { base with clock := { base.clock with midnightRaised := true, calendar := some ⟨4, 1439⟩ } }
    (fun t => t.clock.calendar) = some (some ⟨5, 0⟩) := by decide
/-- R155: the last day is followed by no day. -/
theorem test_calendarMidnight_last : seen .calendarMidnight
    { base with clock := { base.clock with midnightRaised := true, calendar := some ⟨65535, 1439⟩ } }
    (fun t => t.clock.calendar) = some none := by decide
/-- R158, R159: with nothing to write, Settling passes at once into Standby. -/
theorem test_idleTimerExpiry : seen .idleTimerExpiry base (fun t => t.clock.mode) = some .standby := by decide
/-- R159: the drain completes. -/
theorem test_storeDrainComplete : seen .storeDrainComplete { base with clock := { base.clock with mode := .settling } }
    (fun t => t.clock.mode) = some .standby := by decide
/-- R162: Waking ends, and the checkpoint timer starts. -/
theorem test_wakeCompletion : seen .wakeCompletion
    { base with clock := { base.clock with mode := .waking }, store := { base.store with checkpoint := .stopped } }
    (fun t => (t.clock.mode, t.store.checkpoint)) = some (.running, .running 15) := by decide
/-- R168: a dirty balance is called, queued and begun. -/
theorem test_checkpointTimerExpiry : seen .checkpointTimerExpiry { base with store := { base.store with dirty := [4282] } }
    (fun t => t.store.underWay.map Prod.fst) = some (some 4282) := by decide
/-- R167: the image captured is in its slot. -/
theorem test_programOperationComplete : seen .programOperationComplete
    { base with store := { base.store with underWay := some (4282, .balance 7 .isOpen 0) } }
    (fun t => (t.store.slot 4282, t.store.underWay)) = some (some (.balance 7 .isOpen 0), none) := by decide
/-- R173: the jobs are gone, and the last tag issued stays. -/
theorem test_restartComplete : seen .restartComplete { holding with restartPending := true }
    (fun t => (t.jobs.recs.length, t.jobs.lastTag, t.store.reset.cause, t.spool.free))
      = some (0, 1, .console, [⟨0, 65536⟩]) := by decide
/-- R167: the slot under program has failed. -/
theorem test_powerLoss : seen .powerLoss
    { base with store := { base.store with underWay := some (4282, .balance 7 .isOpen 0) } }
    (fun t => (t.phase, t.store.slot 4282)) = some (.off, none) := by decide
/-- R170: a failed balance of a valid account with a budget comes back spent to its budget. -/
theorem test_coldStart : seen (.coldStart .supplyDip)
    { State.reset with phase := .off
                       store := { State.reset.store with slots := [(186, some (.accountConfig acct.cfg)), (4282, none)] } }
    (fun t => (t.phase, (t.account 0).spent, t.store.reset.conservative)) = some (.starting, 1000, 1) := by decide
/-- R169: the part is up, with STARTED formed. -/
theorem test_startUpComplete : seen .startUpComplete { State.reset with phase := .starting, oport := PortState.start 3 }
    (fun t => (t.phase, t.oport.own.map OwnMsg.body)) = some (.up, [.notice (.started .power 0)]) := by decide
/-- R181: the frame goes to the opposite port. -/
theorem test_passThroughFrame : seen (.passThroughFrame .office ⟨0x0800, [1, 2]⟩) base (fun t => t.fport.pass)
    = some [⟨0x0800, [1, 2]⟩] := by decide
/-- R182: a STATUS that came on the O-port is stray. -/
theorem test_fptDiscard : seen (.fptDiscard .office [1, 0x3A, 0, 0, 0x30, 0, 0, 0, 0, 0, 0, 7, 0, 2, 0, 0]) base
    (fun t => t.console.strayStation) = some true := by decide
/-- R184: after one of its own messages, the port sends a frame that crosses. -/
theorem test_frameTransmit : seen (.frameTransmit .office)
    { State.reset with oport := { State.reset.oport with pass := [⟨0x0800, [1]⟩], lastOwn := true } }
    (fun t => (t.oport.wire, t.oport.lastOwn)) = some (some (.passed ⟨0x0800, [1]⟩), false) := by decide
/-- R186: the wire bytes of a JOB_REPLY OK for tag 1, from station 0 to station 9, expecting offset 4,097. -/
theorem test_wire : OwnMsg.bytes
    { etherType := 0xB7C4, src := 0, dst := 9, jobTag := 1, reqTag := 7, body := .jobReply .ok 4097 }
    = [0x01, 0x18, 0, 0, 0, 0, 0, 9, 0, 1, 0, 7, 0, 5, 0, 0, 0, 0x10, 0x01] := by decide

/-- A message that waits. -/
def waiting : OwnMsg := { etherType := 0xB7C4, src := 0, dst := 9, jobTag := 1, reqTag := 7, body := .jobReply .ok 0 }

/-- R185, R175, R180, R64: each producer places what waits. -/
theorem test_jobOutgoingPlace : seen .jobOutgoingPlace { base with jobs := { base.jobs with outgoing := [waiting] } }
    (fun t => (t.jobs.outgoing, t.oport.own)) = some ([], [waiting]) := by decide
theorem test_mgmtReplyPlace : seen .mgmtReplyPlace { base with console := { base.console with reply := some waiting } }
    (fun t => (t.console.reply, t.oport.own)) = some (none, [waiting]) := by decide
theorem test_noticeSend : seen .noticeSend
    { base with console := { base.console with notices := [{ etherType := 0xB7C4, src := 2, notice := .spoolLow true }] }
                settings := { base.settings with noticeStation := 6 } }
    (fun t => (t.console.notices.length, t.oport.own.map (fun m => (m.src, m.dst)))) = some (0, [(2, 6)]) := by decide
theorem test_releaseAnswerPlace : seen .releaseAnswerPlace { base with answer := some waiting }
    (fun t => (t.answer, t.fport.own)) = some (none, [waiting]) := by decide

/-- A part whose control list of printer 3 holds a STREAM_CANCEL. -/
def cancelling : State :=
  { base with printers := [(3, { prn with
      control := [{ etherType := 0xB7C4, src := 0, dst := 0x30, jobTag := 1, reqTag := 0, body := .streamCancel }] })] }

/-- R90: a control message is placed, and the turn is printer 3's. -/
theorem test_streamControlPlace : seen (.streamControlPlace 3) cancelling
    (fun t => ((t.printer 3).control.length, t.fport.own.length, t.lastPrinter)) = some (0, 1, 3) := by decide

/-- A Printing job of 2 bytes with chunk 0 allowed. -/
def shortJob : Job := { delivered .printing with declared := 2, received := 2, chain := [0], allowed := 1 }
def streaming : State :=
  { printing with jobs := { printing.jobs with recs := [shortJob] }
                  spool := { printing.spool with mem := [(0, 0x41), (1, 0x42)] } }

/-- R89, R90: chunk 0 holds the two bytes. -/
theorem test_streamData : seen (.streamData 3) streaming
    (fun t => (t.fport.own.map OwnMsg.body, (t.job 1).map Job.sent)) = some ([.streamData 0 [0x41, 0x42]], some 1) := by decide
/-- Log 5: a chunk with a byte that nothing has written stops the part. -/
theorem test_streamData_unwritten : exec (.streamData 3) { streaming with spool := { streaming.spool with mem := [(0, 0x41)] } }
    = .fault .spoolByteUnwritten := rfl
/-- R92, R98: the job becomes Finishing, and its finish timer runs. -/
theorem test_streamEnd : seen (.streamEnd 3)
    { streaming with jobs := { streaming.jobs with recs := [{ shortJob with sent := 1 }] } }
    (fun t => (t.fport.own.map OwnMsg.body, (t.job 1).map (fun j => (j.state, j.finish))))
      = some ([.streamEnd 1], some (.finishing, .running 600)) := by decide

/-- R176: the last index of the Account Table is 4,095. -/
theorem test_tableRead : seen (.tableRead console (some (.account, 4096))) base (fun t => lastResult t.oport)
    = some (some .badIndex) := by decide
/-- R39, R177: a period length of 0 is stored as 1, and an idle time of 9 as 10. -/
theorem test_settingsWrite : seen (.settingsWrite console (some (0, { Settings.factory with periodLength := 0, idleTime := 9 })))
    base (fun t => (t.settings.periodLength, t.settings.idleTime)) = some (1, 10) := by decide
/-- R5: the Default entry takes no valid flag. -/
theorem test_classifierWrite : seen (.classifierWrite console (some (24, { ClassEntry.factoryDefault with valid := true, hold := 200 })))
    base (fun t => ((t.classEntry 24).valid, (t.classEntry 24).hold)) = some (false, 168) := by decide
/-- R49: L is clamped, and the Active row waits for the bank swap. -/
theorem test_tariffWrite : seen (.tariffWrite console (some (2, { Row.factory with rm := 9, l := 65 }))) base
    (fun t => (Tbl.get Row.factory t.tariff.pending 2, t.tariff.active, t.tariff.written))
      = some ({ Row.factory with rm := 9, l := 64 }, [], true) := by decide
/-- R42: two valid accounts of one number. -/
theorem test_accountWrite : seen (.accountWrite console (some (1, { acct.cfg with badge := none }))) base
    (fun t => (lastResult t.oport, (t.account 1).cfg.valid)) = some (some .entryLocked, false) := by decide
/-- R42: a PIN of 3 digits. -/
theorem test_accountWrite_pin : seen (.accountWrite console (some (0, { acct.cfg with pin := some [1, 2, 3] }))) base
    (fun t => lastResult t.oport) = some (some .notAccepted) := by decide
/-- R84: a station that another entry holds. -/
theorem test_printerWrite : seen (.printerWrite console (some (4, prnFields))) base
    (fun t => (lastResult t.oport, (t.printer 4).service)) = some (some .entryLocked, .unused) := by decide
/-- R84, R111: an Unused entry that takes a station is Parked and Absent, with its colorants created. -/
theorem test_printerWrite_new : seen (.printerWrite console (some (4, { prnFields with cfg := { prn.cfg with station := some 0x31 } })))
    base (fun t => ((t.printer 4).service, (t.printer 4).standing.unreachable, (t.printer 4).y.map Supply.remaining))
      = some (.parked, true, some 10000) := by decide
/-- R176: the Job Table takes no write. -/
theorem test_tableWrite : seen (.tableWrite console (some (.job, 1))) base (fun t => lastResult t.oport)
    = some (some .notPermitted) := by decide
/-- R178: the calendar is Unset after a cold start. -/
theorem test_query : seen (.query console (some false)) base (fun t => t.oport.own.map OwnMsg.body)
    = some [.mgmtReply .ok (.attention [.clockUnset] (some .clockUnset))] := by decide
/-- R40: spent returns to 0. -/
theorem test_rollPeriod : seen (.rollPeriod console true) { base with accounts := [(0, { acct with spent := 5 })] }
    (fun t => ((t.account 0).spent, t.oport.own.length)) = some (0, 2) := by decide
/-- R41: no notice. -/
theorem test_forceRoll : seen (.forceRoll console true) { base with accounts := [(0, { acct with spent := 5 })] }
    (fun t => ((t.account 0).spent, t.oport.own.length)) = some (0, 1) := by decide
/-- R157. -/
theorem test_setClock : seen (.setClock console (some (3, 4))) base (fun t => t.clock.calendar) = some (some ⟨3, 4⟩) := by decide
/-- R157: minute 1,440 is no minute. -/
theorem test_setClock_minute : seen (.setClock console (some (3, 1440))) base (fun t => lastResult t.oport)
    = some (some .notAccepted) := by decide
/-- R159: a job being received. -/
theorem test_standby : seen (.standby console true) receiving (fun t => (lastResult t.oport, t.clock.mode))
    = some (some .busy, .running) := by decide
/-- R172. -/
theorem test_restart : seen (.restart console true) base (fun t => (t.restartPending, t.clock.idle)) = some (true, .stopped) := by
  decide
/-- R168: one deferred record is called. -/
theorem test_checkpoint : seen (.checkpoint console true) { base with store := { base.store with dirty := [4282] } }
    (fun t => t.oport.own.map OwnMsg.body) = some [.mgmtReply .ok (.called 1)] := by decide
/-- R85: a printer with an empty queue is Parked at once. -/
theorem test_park : seen (.park console (some 3)) base (fun t => (t.printer 3).service) = some .parked := by decide
theorem test_park_busy : seen (.park console (some 3)) printing (fun t => (t.printer 3).service) = some .parking := by decide
/-- R86. -/
theorem test_unpark : seen (.unpark console (some 3)) { base with printers := [(3, { prn with service := .parked })] }
    (fun t => (t.printer 3).service) = some .inService := by decide
/-- R87: the queue is empty after the evacuation. -/
theorem test_parkNow : seen (.parkNow console (some 3)) printing (fun t => ((t.printer 3).service, (t.printer 3).queue))
    = some (.parked, []) := by decide
/-- R118. -/
theorem test_withdraw : seen (.withdraw console (some 3)) base (fun t => ((t.printer 3).health, (t.printer 3).score))
    = some (.withdrawn, 0) := by decide
/-- R119. -/
theorem test_reinstate : seen (.reinstate console (some 3))
    { base with printers := [(3, { prn with health := .withdrawn, score := 700 })] }
    (fun t => ((t.printer 3).health, (t.printer 3).score)) = some (.active, 0) := by decide
/-- R126: an acknowledged callout is renotified no more. -/
theorem test_ackCallout : seen (.ackCallout console (some 3)) called
    (fun t => (t.callout 0).map (fun c => (c.acknowledged, c.timer))) = some (some (true, .stopped)) := by decide
/-- R129. -/
theorem test_closeCallout : seen (.closeCallout console (some 3)) called (fun t => t.callout 0) = some none := by decide
/-- R146. -/
theorem test_confirmOrder : seen (.confirmOrder console (some (3, .k))) ordered
    (fun t => (t.reorder 0).map Reorder.confirmed) = some (some true) := by decide
/-- R149: the colorant is disarmed. -/
theorem test_cancelOrder : seen (.cancelOrder console (some (3, .k))) ordered
    (fun t => (t.reorder 0, (t.printer 3).k.map Supply.armed)) = some (none, some false) := by decide
/-- R141: a new cartridge is full. -/
theorem test_cartridgeReplaced : seen (.cartridgeReplaced console (some (3, .k)))
    { ordered with printers := [(3, { prn with k := some { Supply.create SupplyFields.factory with remaining := 5, empty := true } })] }
    (fun t => ((t.printer 3).k.map (fun r => (r.remaining, r.empty)), t.reorder 0)) = some (some (10000, false), none) := by decide
/-- R36: spent does not fall below 0. -/
theorem test_adjustAccount : seen (.adjustAccount console (some (0, -2))) { base with accounts := [(0, { acct with spent := 1 })] }
    (fun t => ((t.account 0).spent, t.oport.own.map OwnMsg.body)) = some (0, [.mgmtReply .ok (.newSpent 0)]) := by decide
/-- R29. -/
theorem test_unlockAccount : seen (.unlockAccount console (some 0))
    { base with accounts := [(0, { acct with state := .locked, failures := 5 })] }
    (fun t => ((t.account 0).state, (t.account 0).failures)) = some (.isOpen, 0) := by decide
/-- R30. -/
theorem test_suspend : seen (.suspend console (some 0)) base (fun t => (t.account 0).state) = some .suspended := by decide
theorem test_resume : seen (.resume console (some 0)) { base with accounts := [(0, { acct with state := .locked })] }
    (fun t => (lastResult t.oport, (t.account 0).state)) = some (some .entryLocked, .locked) := by decide
/-- R20: a job in delivery is not purged. -/
theorem test_purgeJob : seen (.purgeJob console (some 1)) printing (fun t => (lastResult t.oport, t.jobs.recs.length))
    = some (some .tooLate, 1) := by decide
/-- R62, R174: requests that name nothing defined. -/
theorem test_unknownReleaseRequest : seen (.unknownReleaseRequest (fleet 0x30 0) (some ask)) base
    (fun t => lastResult t.fport) = some (some .unknownRequest) := by decide
theorem test_unknownMgmtRequest : seen (.unknownMgmtRequest console true) base (fun t => lastResult t.oport)
    = some (some .unknownRequest) := by decide
/-- R52 to R54, file 03 case of saturation: 396,000 colour faces and sheets, Large, at the greatest row. -/
theorem test_charge : charge { tm := 0, tc := 396000, ts := 396000 } .large ⟨0, 65535, 65535, 64, 0⟩ = 16777215 := by decide

/-- Log 1: on an empty queue the part idles. -/
theorem test_idle : step base = .next base := rfl


/-! ### Witnesses: for each statement with premises, a state and operands that meet them -/

/-- A test that holds decides; one that does not is passed over. -/
theorem firstOf_here {α : Type} {p : Prop} {a : α} {l : List (Prop × α)} (h : p) : FirstOf ((p, a) :: l) a := .inl ⟨h, rfl⟩
theorem firstOf_next {α : Type} {p : Prop} {a r : α} {l : List (Prop × α)} (h : ¬p) (hr : FirstOf l r) :
    FirstOf ((p, a) :: l) r := .inr ⟨h, hr⟩

/-- Conditions on the value that an expression has. -/
theorem some_meets {α : Type} {o : Option α} {k : α} {P : α → Prop} (h : o = some k) (hp : P k) : ∃ k, o = some k ∧ P k :=
  ⟨k, h, hp⟩
theorem some_fails {α : Type} {o : Option α} {k : α} {P : α → Prop} (h : o = some k) (hp : ¬P k) :
    ¬∃ k, o = some k ∧ P k := by
  rintro ⟨x, hx, h'⟩
  cases hx.symm.trans h
  exact hp h'
theorem all_meet {α : Type} {o : Option α} {k : α} {P : α → Prop} (h : o = some k) (hp : P k) : ∀ k, o = some k → P k := by
  intro x hx
  cases hx.symm.trans h
  exact hp
theorem none_meets {α : Type} {o : Option α} {P : α → Prop} (h : o = none) : ∀ k, o = some k → P k := by
  intro x hx
  cases hx.symm.trans h
theorem all_fail {α : Type} {o : Option α} {k : α} {P : α → Prop} (h : o = some k) (hp : ¬P k) : ¬∀ k, o = some k → P k :=
  fun hx => hp (hx k h)

/-- A small state's tables are canonical by evaluation. -/
theorem canonical {s : State} (h : (Tbl.wf ClassEntry.factory s.classifier && Tbl.wf Account.factory s.accounts
    && Tbl.wf Row.factory s.tariff.active && Tbl.wf Row.factory s.tariff.pending && Tbl.wf printerFactory s.printers
    && Tbl.wf none s.callouts && Tbl.wf none s.reorders) = true ∧ s.store.SlotsCanonical) : s.TablesCanonical := by
  simp only [Bool.and_eq_true] at h
  obtain ⟨⟨⟨⟨⟨⟨⟨a, b⟩, c⟩, d⟩, e⟩, f⟩, g⟩, i⟩ := h
  exact ⟨a, b, c, d, e, f, g, i⟩
theorem base_canonical : base.TablesCanonical := canonical (by decide)
theorem printing_canonical : printing.TablesCanonical :=
  canonical (by decide)
theorem called_canonical : called.TablesCanonical := canonical (by decide)
theorem ordered_canonical : ordered.TablesCanonical :=
  canonical (by decide)
theorem job_ready : JobReady (office 9 1) receiving := ⟨rfl, rfl, by decide⟩
theorem console_ready : ConsoleReady console base := ⟨rfl, rfl, rfl, by decide, by decide, rfl⟩
theorem printer_ready : PrinterReady (fleet 0x30 1) 3 printing := ⟨rfl, rfl, by decide, by decide⟩
theorem panel_ready : PanelReady (fleet 0x30 1) ask 3 0 holding :=
  ⟨⟨rfl, rfl, by decide, by decide⟩, rfl, by decide, by decide, by decide, .inr (by decide)⟩

/-- The part before it is up. -/
def starting : State := { State.reset with phase := .starting }

/-- The part with a command waiting. -/
def next (s : State) (c : Instr) : State := s.withPending [c]

theorem witness_commandsGoOn : starting.phase ≠ .up ∧ Instr.minuteEvent ≠ .powerLoss ∧ Instr.minuteEvent ≠ .startUpComplete ∧
    ∀ x, Instr.minuteEvent ≠ .coldStart x := ⟨by decide, by decide, by decide, fun _ => by nofun⟩
theorem witness_resetIsAColdStart :
    State.reset.phase ≠ .off ∧ State.reset.store.slots = [] ∧ State.reset.store.underWay = none := by decide

/-- A full Own-frame Queue, and a job waiting to be taken. -/
def crowded : State :=
  { next receiving (.jobClose (office 9 1) (some 4096)) with
    oport := { base.oport with own := List.replicate 32 waiting } }
theorem witness_queuesBounded : crowded.QueuesBounded ∧ crowded.PassBounded ∧ (∃ t, step crowded = .next t) ∧
    crowded.oport.own.length = 32 :=
  ⟨⟨by decide, by decide, by decide, by decide, by decide, by decide, by decide, by decide⟩, ⟨by decide, by decide⟩, ⟨_, rfl⟩, rfl⟩
/-- An outgoing list of as many messages as given. -/
def listing (n : Nat) : State := { base with jobs := { base.jobs with outgoing := List.replicate n waiting } }
theorem witness_outgoing : 4096 ≤ (listing 4096).jobs.outgoing.length ∧ (listing 4095).jobs.outgoing.length < 4096 :=
  ⟨Nat.le_of_eq List.length_replicate.symm, Nat.lt_of_le_of_lt (Nat.le_of_eq List.length_replicate) (by decide)⟩
theorem witness_canonical : (next streaming (.streamData 3)).SpoolCanonical ∧ (next streaming (.streamData 3)).TablesCanonical ∧
    ∃ t, step (next streaming (.streamData 3)) = .next t :=
  ⟨by unfold State.SpoolCanonical; decide, canonical (by decide), ⟨_, rfl⟩⟩
theorem witness_countersInRange : (next base .minuteEvent).CountersInRange ∧ ∃ t, step (next base .minuteEvent) = .next t :=
  ⟨⟨by decide, by decide, by decide, by decide, by decide⟩, ⟨_, rfl⟩⟩
theorem witness_accountsSound : (next printing (.pageReport (fleet 0x30 1) (some ⟨10, 0, 10, true, false⟩))).AccountsSound ∧
    ∃ t, step (next printing (.pageReport (fleet 0x30 1) (some ⟨10, 0, 10, true, false⟩))) = .next t :=
  ⟨by intro e h; cases List.mem_singleton.1 h; exact ⟨by decide, by decide⟩, ⟨_, rfl⟩⟩
theorem witness_healthFollowsScore : (next base (.fault (fleet 0x30 0) (some 3))).HealthFollowsScore ∧
    ∃ t, step (next base (.fault (fleet 0x30 0) (some 3))) = .next t :=
  ⟨by intro e h; cases List.mem_singleton.1 h; exact ⟨by decide, by decide⟩, ⟨_, rfl⟩⟩
theorem receiving_tags : receiving.TagsDistinct := ⟨by decide, by decide, by decide⟩
theorem receiving_segments : receiving.SegmentsAccounted := by
  refine ⟨by decide, ?_⟩
  show ((List.range' 1 65535 ++ []) ++ [0]).Perm (List.range 65536)
  rw [List.append_nil, List.range_eq_range', List.range'_succ]
  exact List.perm_append_singleton _ _
theorem receiving_promises : receiving.PromisesCovered := by
  refine ⟨?_, by decide, by decide⟩
  intro j h
  cases List.mem_singleton.1 h
  exact ⟨by decide, by decide, fun _ => by decide⟩
theorem witness_spoolStaysAccounted :
    (receiving.withPending [.minuteEvent]).TagsDistinct ∧ (receiving.withPending [.minuteEvent]).SegmentsAccounted ∧
    (receiving.withPending [.minuteEvent]).PromisesCovered ∧ ∃ t, step (receiving.withPending [.minuteEvent]) = .next t :=
  ⟨⟨receiving_tags.once, receiving_tags.range, receiving_tags.records⟩, ⟨receiving_segments.tags, receiving_segments.segments⟩,
    ⟨receiving_promises.jobs, receiving_promises.count, receiving_promises.covered⟩, ⟨_, rfl⟩⟩
/-- Job 1 prints and job 2 of the same account is held, while a report is taken. -/
def placed : State :=
  { printing with jobs := { printing.jobs with recs := [delivered .printing, { jobAs .held with tag := 2, chain := [2, 3] }] }
                  accounts := [(0, { acct with reserved := 4, held := [2] })]
                  pending := [.pageReport (fleet 0x30 1) (some ⟨10, 0, 10, true, false⟩)] }
theorem alone {α : Type} (d x : α) (n i : Nat) : (i = n ∧ Tbl.get d [(n, x)] i = x) ∨ (i ≠ n ∧ Tbl.get d [(n, x)] i = d) := by
  rcases Nat.decEq i n with h | h
  · exact .inr ⟨h, Tbl.get_of_not_listed fun e he => by cases List.mem_singleton.1 he; exact Ne.symm h⟩
  · exact .inl ⟨h, by subst h; simp [Tbl.get]⟩
theorem placed_job {g : Nat} {j : Job} (h : placed.job g = some j) : (g = 1 ∧ j = delivered .printing) ∨
    (g = 2 ∧ j = { jobAs .held with tag := 2, chain := [2, 3] }) := by
  have hg := List.find?_some h
  rcases List.mem_cons.1 (List.mem_of_find?_eq_some h) with rfl | h'
  · exact .inl ⟨(of_decide_eq_true hg).symm, rfl⟩
  · cases List.mem_singleton.1 h'
    exact .inr ⟨(of_decide_eq_true hg).symm, rfl⟩
theorem placed_account (k : Nat) : (k = 0 ∧ placed.account k = { acct with reserved := 4, held := [2] }) ∨
    (k ≠ 0 ∧ placed.account k = Account.factory) := alone _ _ _ _
theorem placed_printer (p : Nat) : (p = 3 ∧ placed.printer p = { prn with queue := [1], stall := .running 60 }) ∨
    (p ≠ 3 ∧ placed.printer p = printerFactory) := alone _ _ _ _
theorem placed_placed : placed.JobsPlaced where
  held k g := by
    constructor
    · intro h
      rcases placed_account k with ⟨rfl, e⟩ | ⟨_, e⟩ <;> rw [e] at h
      · cases List.mem_singleton.1 h
        exact ⟨{ jobAs .held with tag := 2, chain := [2, 3] }, by decide, rfl, rfl⟩
      · cases h
    · rintro ⟨j, hj, hs, rfl⟩
      rcases placed_job hj with ⟨rfl, rfl⟩ | ⟨rfl, rfl⟩
      · cases hs
      · decide
  heldOnce k := by rcases placed_account k with ⟨_, e⟩ | ⟨_, e⟩ <;> rw [e] <;> decide
  delivery g := by
    constructor
    · rintro ⟨p, h⟩
      rcases placed_printer p with ⟨_, e⟩ | ⟨_, e⟩ <;> rw [e] at h
      · cases List.mem_singleton.1 h
        exact ⟨delivered .printing, by decide, rfl⟩
      · cases h
    · rintro ⟨j, hj, hs⟩
      rcases placed_job hj with ⟨rfl, rfl⟩ | ⟨rfl, rfl⟩
      · exact ⟨3, by decide⟩
      · cases hs
  deliveryOnce := by
    refine ⟨fun p => ?_, fun p q hpq g hg => ?_⟩
    · rcases placed_printer p with ⟨_, e⟩ | ⟨_, e⟩ <;> rw [e] <;> decide
    · rcases placed_printer q with ⟨rfl, _⟩ | ⟨_, e⟩
      · rcases placed_printer p with ⟨rfl, _⟩ | ⟨_, e⟩
        · exact absurd rfl hpq
        · rw [e] at hg
          cases hg
      · rw [e]
        exact List.not_mem_nil
  printing p := by
    unfold State.jobsIn
    rcases placed_printer p with ⟨_, e⟩ | ⟨_, e⟩ <;> rw [e] <;> decide
  receiving g := by
    constructor
    · intro h
      exact absurd h (by
        rw [show placed.jobs.contexts.map (Option.map Context.tag) = List.replicate 32 none from rfl]
        exact fun h => by cases (List.mem_replicate.1 h).2)
    · rintro ⟨j, hj, hs⟩
      rcases placed_job hj with ⟨rfl, rfl⟩ | ⟨rfl, rfl⟩ <;> cases hs
  receivingOnce := by decide
  reserved k := by
    rcases placed_account k with ⟨rfl, e⟩ | ⟨h, e⟩
    · decide
    · rw [e]
      unfold State.jobsOf
      rw [List.filter_eq_nil_iff.2 fun j hj => ?_]
      · rfl
      · rcases List.mem_cons.1 hj with rfl | hj
        · simpa [delivered, jobAs] using Ne.symm h
        · cases List.mem_singleton.1 hj
          simpa [jobAs] using Ne.symm h
  reservation j hj h := by
    rcases List.mem_cons.1 hj with rfl | hj
    · rfl
    · cases List.mem_singleton.1 hj
      exact absurd rfl h
  control p := by rcases placed_printer p with ⟨_, e⟩ | ⟨_, e⟩ <;> rw [e] <;> exact .inl rfl
  powered h := absurd rfl h
theorem witness_jobsStay : placed.TagsDistinct ∧ placed.TablesCanonical ∧ placed.JobsPlaced ∧ ∃ t, step placed = .next t :=
  ⟨⟨by decide, by decide, by decide⟩, canonical (by decide), placed_placed, ⟨_, rfl⟩⟩
/-- R90: the greatest control list, before a Printing job. -/
theorem test_control_greatest : ControlSound [{ waiting with body := .streamCancel },
    { waiting with body := .streamBegin ⟨1, 0, 1⟩ .standard 1 }] (some (delivered .printing)) :=
  .inr ⟨[{ waiting with body := .streamCancel }], .inr ⟨_, rfl, rfl⟩, _, by decide, rfl⟩
theorem witness_serviceStaysSettled : (next base .minuteEvent).ServiceSettled ∧ ∃ t, step (next base .minuteEvent) = .next t :=
  ⟨⟨fun _ _ => rfl, fun _ => by decide⟩, ⟨_, rfl⟩⟩

/-! #### Jobs -/

/-- R7, R8: a JOB_OPEN at its bounds: 4,000 faces, 99 copies, 64 MiB. -/
def greatest : JobOpenBody := { openBody with faces := 4000, copies := 99, bytes := 67108864 }
theorem witness_jobOpenAccepted : JobReady (office 9 0) base ∧ base.asleep = false ∧
    (base.classEntry (base.hit 9)).policy ≠ .refuse ∧ none ∈ base.jobs.contexts ∧
    base.accountFor greatest.account (base.hit 9) = some 0 ∧ (base.account 0).state = .isOpen ∧
    (base.account 0).held.length + ((base.jobsOf 0).filter (fun j => j.state == .receiving)).length < (base.account 0).cfg.heldCap ∧
    (base.jobsOf 0).length < 64 ∧ 1 ≤ greatest.faces ∧ greatest.faces ≤ 4000 ∧ greatest.copies ≤ 99 ∧ 1 ≤ greatest.bytes ∧
    greatest.bytes ≤ 67108864 ∧ 1024 + ceilDiv greatest.bytes 4096 ≤ base.spool.headroom ∧ base.jobs.recs.length < 1024 :=
  ⟨⟨rfl, rfl, by decide⟩, by decide, by decide, by decide, by decide, by decide, by decide, by decide, by decide, by decide,
    by decide, by decide, by decide, by decide, by decide⟩

/-- Two matching entries, the last of the table among them, and none. -/
def sorted : State :=
  { base with classifier := [(5, { ClassEntry.factory with valid := true, value := 9, mask := 0xFFFFFF }),
                             (23, { ClassEntry.factory with valid := true, value := 8, mask := 0xFFFFFE, guest := some 0 })] }
theorem witness_hit : sorted.TablesCanonical ∧ sorted.hit 9 = 5 ∧ sorted.hit 8 = 23 ∧ sorted.hit 10 = 24 :=
  ⟨canonical (by decide), by decide, by decide, by decide⟩
theorem witness_accountFor : sorted.accountFor acct.cfg.number 5 = some 0 ∧ sorted.accountFor 1048575 23 = some 0 ∧
    sorted.accountFor 1048575 5 = none := by decide

/-- The tests of a JOB_OPEN in the order of R7. -/
def refusals (h : Hdr) (b : JobOpenBody) (s : State) : List (Prop × Result) :=
  [((s.classEntry (s.hit h.src)).policy = .refuse, .notAccepted),
   (none ∉ s.jobs.contexts, .busy),
   (s.accountFor b.account (s.hit h.src) = none, .unknownAccount),
   (∃ k, s.accountFor b.account (s.hit h.src) = some k ∧ (s.account k).state ≠ .isOpen, .accountBlocked),
   (∃ k, s.accountFor b.account (s.hit h.src) = some k ∧ ((s.account k).cfg.heldCap ≤
      (s.account k).held.length + ((s.jobsOf k).filter (fun j => j.state == .receiving)).length
      ∨ 64 ≤ (s.jobsOf k).length), .holdLimit),
   (b.faces = 0 ∨ b.bytes = 0, .emptyJob),
   (4000 < b.faces ∨ 99 < b.copies ∨ 67108864 < b.bytes, .tooLarge),
   (s.spool.headroom < 1024 + ceilDiv b.bytes 4096, .spoolLow),
   (1024 ≤ s.jobs.recs.length, .busy)]

/-- A JOB_OPEN that passes the first five tests. -/
theorem refusals_late {b : JobOpenBody} {r : Result} (s : State) (h1 : (s.classEntry (s.hit 9)).policy ≠ .refuse)
    (h2 : none ∈ s.jobs.contexts) (h3 : s.accountFor b.account (s.hit 9) = some 0) (h4 : (s.account 0).state = .isOpen)
    (h5 : ¬((s.account 0).cfg.heldCap ≤
      (s.account 0).held.length + ((s.jobsOf 0).filter (fun j => j.state == .receiving)).length ∨ 64 ≤ (s.jobsOf 0).length))
    (h : FirstOf ((refusals (office 9 0) b s).drop 5) r) : FirstOf (refusals (office 9 0) b s) r :=
  firstOf_next h1 <| firstOf_next (fun x => x h2) <| firstOf_next (fun x => by cases h3.symm.trans x) <|
    firstOf_next (some_fails h3 (fun x => x h4)) <| firstOf_next (some_fails h3 h5) h

theorem witness_jobOpenRefused_class : FirstOf (refusals (office 9 0) openBody
    { base with dflt := { base.dflt with policy := .refuse } }) .notAccepted := firstOf_here rfl
theorem witness_jobOpenRefused_contexts : FirstOf (refusals (office 9 0) openBody
    { base with jobs := { base.jobs with contexts := List.replicate 32 (some { tag := 1, idle := .running 120 }) } }) .busy :=
  firstOf_next (by decide) <| firstOf_here (by decide)
theorem witness_jobOpenRefused_unknown : FirstOf (refusals (office 9 0) openBody
    { base with accounts := [], dflt := { base.dflt with guest := none } }) .unknownAccount :=
  firstOf_next (by decide) <| firstOf_next (by decide) <| firstOf_here (by decide)
theorem witness_jobOpenRefused_blocked : FirstOf (refusals (office 9 0) openBody
    { base with accounts := [(0, { acct with state := .locked })] }) .accountBlocked :=
  firstOf_next (by decide) <| firstOf_next (by decide) <| firstOf_next (by decide) <|
    firstOf_here (some_meets (k := 0) (by decide) (by decide))
theorem witness_jobOpenRefused_hold : FirstOf (refusals (office 9 0) openBody
    { holding with accounts := [(0, { acct with held := [1], cfg := { acct.cfg with heldCap := 1 } })] }) .holdLimit :=
  firstOf_next (by decide) <| firstOf_next (by decide) <| firstOf_next (by decide) <|
    firstOf_next (some_fails (k := 0) (by decide) (by decide)) <|
    firstOf_here (some_meets (k := 0) (by decide) (by decide))
theorem base_passes {b : JobOpenBody} {r : Result} (hb : base.accountFor b.account (base.hit 9) = some 0)
    (h : FirstOf ((refusals (office 9 0) b base).drop 5) r) : FirstOf (refusals (office 9 0) b base) r :=
  refusals_late base (by decide) (by decide) hb (by decide) (by decide) h
theorem witness_jobOpenRefused_empty : FirstOf (refusals (office 9 0) { greatest with bytes := 0 } base) .emptyJob :=
  base_passes (by decide) <| firstOf_here (by decide)
theorem witness_jobOpenRefused_large : FirstOf (refusals (office 9 0) { greatest with copies := 100 } base) .tooLarge :=
  base_passes (by decide) <| firstOf_next (by decide) <| firstOf_here (by decide)
/-- The need of 64 MiB with 17,407 segments of headroom, one short. -/
theorem witness_jobOpenRefused_spool : FirstOf (refusals (office 9 0) greatest
    { base with spool := { base.spool with free := [⟨0, 17407⟩] } }) .spoolLow :=
  refusals_late _ (by decide) (by decide) (by decide) (by decide) (by decide) <|
    firstOf_next (by decide) <| firstOf_next (by decide) <| firstOf_here (by decide)
/-- 1,024 records, of other accounts. -/
def fullTable : State := { base with jobs := { base.jobs with recs := List.replicate 1024 { jobAs .held with account := 1 } } }
theorem fullTable_jobs : fullTable.jobsOf 0 = [] := by
  unfold State.jobsOf
  exact List.filter_eq_nil_iff.2 fun j h => by
    cases (List.mem_replicate.1 h).2
    decide
theorem witness_jobOpenRefused_records : FirstOf (refusals (office 9 0) greatest fullTable) .busy := by
  refine refusals_late _ (by decide) (by decide) (by decide) (by decide) (by rw [fullTable_jobs]; decide) <|
    firstOf_next (by decide) <| firstOf_next (by decide) <| firstOf_next (by decide) <| firstOf_here ?_
  show 1024 ≤ (List.replicate 1024 _).length
  rw [List.length_replicate]

/-- Bytes 4,096 to 4,999 complete the job: the most that its declared total admits. -/
theorem witness_jobDataAccepted : JobReady (office 9 1) receiving ∧ receiving.job 1 = some receivingJob ∧
    receivingJob.origin = 9 ∧ receivingJob.state = .receiving ∧ 4096 = receivingJob.received ∧
    4096 + (List.replicate 904 (0xAB : Byte)).length ≤ receivingJob.declared ∧ 1 ≤ (List.replicate 904 (0xAB : Byte)).length ∧
    (List.replicate 904 (0xAB : Byte)).length ≤ 1400 ∧ receiving.SegmentsAccounted ∧ receiving.PromisesCovered ∧
    receivingJob.chain.length * 4096 < 4096 + (List.replicate 904 (0xAB : Byte)).length := by
  rw [List.length_replicate]
  exact ⟨job_ready, by decide, rfl, rfl, rfl, by decide, by decide, by decide, receiving_segments, receiving_promises, by decide⟩
/-- A byte that the chain has room for. -/
def halfway : State :=
  { receiving with jobs := { receiving.jobs with recs := [{ receivingJob with received := 4097, chain := [0, 1], promise := 0 }] } }
theorem witness_jobDataAccepted_room : ¬2 * 4096 < 4097 + 1 ∧ (halfway.job 1).map (fun j => j.chain.length) = some 2 := by decide

/-- The tests of a JOB_DATA in the order of R12. -/
def dataTests (h : Hdr) (d : JobDataBody) (s : State) : List (Prop × (Result × Nat)) :=
  [(d.data.length = 0 ∨ 1400 < d.data.length, (.badLength, 0)),
   (∀ j, s.job h.jobTag = some j → j.origin ≠ h.src, (.noSuchJob, 0)),
   (∃ j, s.job h.jobTag = some j ∧ j.state ≠ .receiving, (.tooLate, 0)),
   (∃ j, s.job h.jobTag = some j ∧ d.offset ≠ j.received, (.outOfOrder, ((s.job h.jobTag).map Job.received).getD 0)),
   (∃ j, s.job h.jobTag = some j ∧ j.declared < d.offset + d.data.length, (.tooLarge, 0))]
theorem receiving_job : receiving.job 1 = some receivingJob := by decide
theorem holding_job : holding.job 1 = some (jobAs .held) := by decide
theorem witness_dataRefused_length : FirstOf (dataTests (office 9 1) ⟨4096, []⟩ receiving) (.badLength, 0) := firstOf_here (.inl rfl)
theorem witness_dataRefused_origin : FirstOf (dataTests (office 8 1) ⟨4096, [0]⟩ receiving) (.noSuchJob, 0) :=
  firstOf_next (by decide) <| firstOf_here (all_meet receiving_job (by decide))
theorem witness_dataRefused_state : FirstOf (dataTests (office 9 1) ⟨5000, [0]⟩ holding) (.tooLate, 0) :=
  firstOf_next (by decide) <| firstOf_next (all_fail holding_job (by decide)) <| firstOf_here (some_meets holding_job (by decide))
theorem witness_dataRefused_order : FirstOf (dataTests (office 9 1) ⟨4095, [0]⟩ receiving) (.outOfOrder, 4096) :=
  firstOf_next (by decide) <| firstOf_next (all_fail receiving_job (by decide)) <|
    firstOf_next (some_fails receiving_job (by decide)) <| firstOf_here (some_meets receiving_job (by decide))
theorem witness_dataRefused_large :
    FirstOf (dataTests (office 9 1) ⟨4096, List.replicate 905 0⟩ receiving) (.tooLarge, 0) :=
  firstOf_next (by rw [show (List.replicate 905 (0 : Byte)).length = 905 from List.length_replicate]; decide) <|
    firstOf_next (all_fail receiving_job (by decide)) <|
    firstOf_next (some_fails receiving_job (by decide)) <| firstOf_next (some_fails receiving_job (by decide)) <|
    firstOf_here (some_meets receiving_job (by rw [List.length_replicate]; decide))

/-- The tests of a JOB_CLOSE in the order of R14. -/
def closeTests (h : Hdr) (total : Nat) (s : State) : List (Prop × (Result × Nat)) :=
  [(∀ j, s.job h.jobTag = some j → j.origin ≠ h.src, (.noSuchJob, 0)),
   (∃ j, s.job h.jobTag = some j ∧ j.state ≠ .receiving ∧ total = j.received, (.ok, 0)),
   (∃ j, s.job h.jobTag = some j ∧ j.state ≠ .receiving, (.noSuchJob, 0)),
   (∃ j, s.job h.jobTag = some j ∧ total ≠ j.received, (.outOfOrder, ((s.job h.jobTag).map Job.received).getD 0))]
theorem witness_closeRefused_origin : FirstOf (closeTests (office 9 2) 0 receiving) (.noSuchJob, 0) :=
  firstOf_here (none_meets (by decide))
theorem witness_closeRefused_again : FirstOf (closeTests (office 9 1) 5000 holding) (.ok, 0) :=
  firstOf_next (all_fail holding_job (by decide)) <| firstOf_here (some_meets holding_job (by decide))
theorem witness_closeRefused_state : FirstOf (closeTests (office 9 1) 4999 holding) (.noSuchJob, 0) :=
  firstOf_next (all_fail holding_job (by decide)) <| firstOf_next (some_fails holding_job (by decide)) <|
    firstOf_here (some_meets holding_job (by decide))
theorem witness_closeRefused_order : FirstOf (closeTests (office 9 1) 4095 receiving) (.outOfOrder, 4096) :=
  firstOf_next (all_fail receiving_job (by decide)) <| firstOf_next (some_fails receiving_job (by decide)) <|
    firstOf_next (some_fails receiving_job (by decide)) <| firstOf_here (some_meets receiving_job (by decide))
/-- R19: a cancel of a Finishing job, and of none. -/
theorem finishing_job : (delivering .finishing).job 1 = some (delivered .finishing) := by decide
theorem witness_cancelRefused : JobReady (office 9 1) (delivering .finishing) ∧
    FirstOf [(∀ j, (delivering .finishing).job 1 = some j → j.origin ≠ 9, (Result.noSuchJob, 0)),
      (∃ j, (delivering .finishing).job 1 = some j ∧ j.state = .finishing, (.tooLate, 0))] (Result.tooLate, 0) :=
  ⟨⟨rfl, rfl, by decide⟩, firstOf_next (all_fail finishing_job (by decide)) <| firstOf_here (some_meets finishing_job (by decide))⟩

theorem witness_jobCloseHolds : JobReady (office 9 1) receiving ∧ receiving.job 1 = some receivingJob ∧ receivingJob.origin = 9 ∧
    receivingJob.state = .receiving ∧ receivingJob.received ≠ 0 ∧
    (receiving.classEntry receivingJob.hit).policy ≠ .direct := ⟨job_ready, by decide, rfl, rfl, by decide, by decide⟩
/-- The same with the direct path: its class sends jobs to the printer of station 30H, which is eligible for this one. -/
def directJob : Job := { receivingJob with target := some 0x30 }
def direct : State :=
  { receiving with dflt := { receiving.dflt with policy := .direct }, jobs := { receiving.jobs with recs := [directJob] } }
theorem witness_jobCloseHolds_direct : JobReady (office 9 1) direct ∧ direct.job 1 = some directJob ∧ directJob.origin = 9 ∧
    directJob.state = .receiving ∧ directJob.received ≠ 0 ∧ (direct.classEntry directJob.hit).policy = .direct ∧
    directJob.target = some 0x30 ∧ direct.printerOf 0x30 = some 3 ∧
    seen (.jobClose (office 9 1) (some 4096)) direct (fun t => ((t.job 1).map Job.state, (t.printer 3).queue))
      = some (some .printing, [1]) :=
  ⟨⟨rfl, rfl, by decide⟩, by decide, rfl, rfl, by decide, by decide, rfl, by decide, by decide⟩
theorem witness_jobCancel_receiving : JobReady (office 9 1) receiving ∧ receiving.job 1 = some receivingJob ∧
    receivingJob.origin = 9 ∧ (receivingJob.state = .receiving ∨ receivingJob.state = .held) := ⟨job_ready, by decide, rfl, .inl rfl⟩
theorem witness_jobCancel_held : JobReady (office 9 1) holding ∧ holding.job 1 = some (jobAs .held) ∧ (jobAs .held).origin = 9 ∧
    ((jobAs .held).state = .receiving ∨ (jobAs .held).state = .held) := ⟨⟨rfl, rfl, by decide⟩, by decide, rfl, .inr rfl⟩
/-- A job that has received nothing. -/
def bareJob : Job := { receivingJob with received := 0, chain := [], promise := 2 }
def bare : State :=
  { receiving with jobs := { receiving.jobs with recs := [bareJob] }
                   spool := { receiving.spool with free := [⟨0, 65536⟩], promises := 2 } }
theorem witness_jobClose_empty : JobReady (office 9 1) bare ∧ bare.job 1 = some bareJob ∧ bareJob.origin = 9 ∧
    bareJob.state = .receiving ∧ bareJob.received = 0 := ⟨⟨rfl, rfl, by decide⟩, by decide, rfl, rfl, rfl⟩
theorem witness_receiveIdle : receiving.job receivingJob.tag = some receivingJob ∧ receiving.jobs.outgoing.length < 4096 ∧
    receiving.phase = .up ∧ receiving.jobs.contexts[0]? = some (some { tag := 1, idle := .running 120 }) ∧
    receivingJob.tag = 1 ∧ (Timer.running 120).runs = true ∧ receivingJob.state = .receiving :=
  ⟨by decide, by decide, rfl, rfl, rfl, rfl, rfl⟩
theorem witness_receiveIdle_free : receiving.phase = .up ∧
    ∀ x, receiving.jobs.contexts[31]? = some (some x) → x.idle.runs = false := ⟨rfl, fun x h => by cases h⟩
theorem witness_purgeJob : ConsoleReady console holding ∧ holding.job (jobAs .held).tag = some (jobAs .held) ∧
    holding.jobs.outgoing.length < 4096 ∧ ((jobAs .held).state = .receiving ∨ (jobAs .held).state = .held) :=
  ⟨⟨rfl, rfl, rfl, by decide, by decide, rfl⟩, by decide, by decide, .inr rfl⟩
theorem witness_purgeJob_refused : ConsoleReady console printing ∧
    FirstOf [(printing.job 1 = none, Result.noSuchJob),
      (∃ j, printing.job 1 = some j ∧ j.state ≠ .receiving ∧ j.state ≠ .held, .tooLate)] .tooLate ∧
    FirstOf [(printing.job 2 = none, Result.noSuchJob),
      (∃ j, printing.job 2 = some j ∧ j.state ≠ .receiving ∧ j.state ≠ .held, .tooLate)] .noSuchJob :=
  ⟨⟨rfl, rfl, rfl, by decide, by decide, rfl⟩,
    firstOf_next (by decide) <| firstOf_here (some_meets (k := delivered .printing) (by decide) (by decide)),
    firstOf_here (by decide)⟩

/-! #### Accounts and the tariff -/

theorem base_printer : PrinterReady (fleet 0x30 0) 3 base := ⟨rfl, rfl, by decide, by decide⟩
theorem witness_panel_badge : PrinterReady (fleet 0x30 0) 3 base ∧ Present base 3 ∧ base.answer = none ∧
    FirstOf [(∀ k, base.accountOfBadge 78 = some k → (base.account k).cfg.valid = false, Result.authFailed),
      (∀ k, base.accountOfBadge 78 = some k → (base.account k).state ≠ .isOpen, .accountBlocked)] .authFailed :=
  ⟨base_printer, by unfold Present; decide, rfl, firstOf_here (none_meets (by decide))⟩
def suspended : State := { base with accounts := [(0, { acct with state := .suspended })] }
theorem witness_panel_blocked : PrinterReady (fleet 0x30 0) 3 suspended ∧ Present suspended 3 ∧ suspended.answer = none ∧
    FirstOf [(∀ k, suspended.accountOfBadge 77 = some k → (suspended.account k).cfg.valid = false, Result.authFailed),
      (∀ k, suspended.accountOfBadge 77 = some k → (suspended.account k).state ≠ .isOpen, .accountBlocked)] .accountBlocked :=
  ⟨⟨rfl, rfl, by decide, by decide⟩, by unfold Present; decide, rfl,
    firstOf_next (all_fail (k := 0) (by decide) (by decide)) <| firstOf_here (all_meet (k := 0) (by decide) (by decide))⟩
theorem witness_badge : base.TablesCanonical ∧ base.accountOfBadge 77 = some 0 ∧ base.accountOfBadge 78 = none :=
  ⟨base_canonical, by decide, by decide⟩
/-- The fifth mismatch, and the fourth. -/
def failed (n : Nat) : State := { base with accounts := [(0, { acct with failures := n })] }
theorem witness_panel_pin : PrinterReady (fleet 0x30 0) 3 (failed 4) ∧ Present (failed 4) 3 ∧ (failed 4).answer = none ∧
    (failed 4).accountOfBadge 77 = some 0 ∧ ((failed 4).account 0).cfg.valid = true ∧
    ((failed 4).account 0).state = .isOpen ∧ ((failed 4).account 0).cfg.pin = some [1, 2, 3, 4] ∧
    (none : Option (List Nat)) ≠ some [1, 2, 3, 4] ∧ 4 ≤ ((failed 4).account 0).failures ∧ ((failed 3).account 0).failures < 4 :=
  ⟨⟨rfl, rfl, by decide, by decide⟩, by unfold Present; decide, rfl, by decide, by decide, by decide, by decide, by decide,
    by decide, by decide⟩
theorem test_panel_locks : seen (.list (fleet 0x30 0) (some { ask with pin := none })) (failed 4)
    (fun t => ((t.account 0).state, (t.account 0).failures, t.oport.own.map OwnMsg.body))
      = some (.locked, 5, [.notice (.accountLocked 0)]) := by decide

/-- R31: of 1,000 points 4 are reserved: 996 are within the quota, 997 are not; an unlimited budget covers all. -/
theorem witness_availableQuota : { acct with reserved := 4 }.cfg.budget = .finite 1000 ∧
    { acct with reserved := 4 }.covers 996 = true ∧ { acct with reserved := 4 }.covers 997 = false ∧
    { acct with cfg := { acct.cfg with budget := .unlimited } }.cfg.budget = .unlimited ∧
    holding.target 3 (jobAs .held) = some 3 := by decide
theorem witness_quotaOperations : ((base.account 0).covers 1000 = true ∧ (base.account 0).reserved + 1000 ≤ 16777215) ∧
    (base.account 0).covers 1001 = false := by decide

theorem witness_accountCommands_index : ConsoleReady console base ∧
    FirstOf [(4095 < 4096, Result.badIndex), ((base.account 4096).cfg.valid = false, .unknownAccount)] .badIndex :=
  ⟨console_ready, firstOf_here (by decide)⟩
theorem witness_accountCommands_unknown : ConsoleReady console base ∧
    FirstOf [(4095 < 4095, Result.badIndex), ((base.account 4095).cfg.valid = false, .unknownAccount)] .unknownAccount :=
  ⟨console_ready, firstOf_next (by decide) <| firstOf_here (by decide)⟩
theorem witness_accountCommands : ConsoleReady console base ∧ 0 ≤ 4095 ∧ (base.account 0).cfg.valid = true :=
  ⟨console_ready, by decide, by decide⟩
/-- R36: from 0 and at 16,777,215. -/
theorem test_adjust_ends : seen (.adjustAccount console (some (0, 2147483647))) base (fun t => (t.account 0).spent) = some 16777215 ∧
    seen (.adjustAccount console (some (0, -1))) base (fun t => (t.account 0).spent) = some 0 := by decide

/-- The tests of an ACCOUNT_WRITE in the order of R42. -/
def accountTests (k : Nat) (c : AccountConfig) (s : State) : List (Prop × Result) :=
  [(4095 < k, .badIndex),
   (c.number = 0 ∨ 1048575 < c.number ∨ 3 < c.cls ∨
      (∃ d, c.pin = some d ∧ (d.length < 4 ∨ 8 < d.length ∨ ∃ x ∈ d, 9 < x)), .notAccepted),
   (c.badge ≠ Option.none ∧ (∃ i, i ≠ k ∧ (s.account i).cfg.badge = c.badge), .entryLocked),
   (c.valid = true ∧ (∃ i, i ≠ k ∧ (s.account i).cfg.valid = true ∧ (s.account i).cfg.number = c.number), .entryLocked),
   (0 < (s.account k).reserved ∧ (c.number ≠ (s.account k).cfg.number ∨ c.cls ≠ (s.account k).cfg.cls), .entryLocked)]
theorem fits {c : AccountConfig} (h : 1 ≤ c.number ∧ c.number ≤ 1048575 ∧ c.cls ≤ 3)
    (hp : c.pin = none ∨ c.pin = some [1, 2, 3, 4]) : ¬(c.number = 0 ∨ 1048575 < c.number ∨ 3 < c.cls ∨
      (∃ d, c.pin = some d ∧ (d.length < 4 ∨ 8 < d.length ∨ ∃ x ∈ d, 9 < x))) := by
  rintro (h' | h' | h' | ⟨d, hd, h'⟩)
  · omega
  · omega
  · omega
  · rcases hp with hp | hp
    · cases hp.symm.trans hd
    · cases hp.symm.trans hd
      revert h'
      decide
theorem witness_accountWrite_index : FirstOf (accountTests 4096 acct.cfg base) .badIndex := firstOf_here (by decide)
theorem witness_accountWrite_number : FirstOf (accountTests 4095 { acct.cfg with number := 1048576 } base) .notAccepted :=
  firstOf_next (by decide) <| firstOf_here (.inr (.inl (by decide)))
theorem witness_accountWrite_badge : FirstOf (accountTests 1 { acct.cfg with valid := false } base) .entryLocked :=
  firstOf_next (by decide) <| firstOf_next (fits (by decide) (by decide)) <|
    firstOf_here ⟨by decide, 0, by decide, by decide⟩
theorem witness_accountWrite_twice : FirstOf (accountTests 1 { acct.cfg with badge := none } base) .entryLocked :=
  firstOf_next (by decide) <| firstOf_next (fits (by decide) (by decide)) <| firstOf_next (fun h => h.1 rfl) <|
    firstOf_here ⟨rfl, 0, by decide, by decide, by decide⟩
theorem only_account {s : State} {a : Account} (h : s.accounts = [(0, a)]) {i : Nat} (hi : i ≠ 0) : s.account i = Account.factory := by
  unfold State.account
  rw [h]
  exact Tbl.get_of_not_listed fun e he => by cases List.mem_singleton.1 he; exact Ne.symm hi
theorem witness_accountWrite_reserved : FirstOf (accountTests 0 { acct.cfg with cls := 3 } printing) .entryLocked :=
  firstOf_next (by decide) <| firstOf_next (fits (by decide) (by decide)) <|
    firstOf_next (fun ⟨_, i, hi, h⟩ => by rw [only_account rfl hi] at h; cases h) <|
    firstOf_next (fun ⟨_, i, hi, h, _⟩ => by rw [only_account rfl hi] at h; cases h) <| firstOf_here (by decide)
theorem base_accepts (c : AccountConfig) (h : 1 ≤ c.number ∧ c.number ≤ 1048575 ∧ c.cls ≤ 3)
    (hp : c.pin = none ∨ c.pin = some [1, 2, 3, 4]) : ∀ r, ¬FirstOf (accountTests 0 c base) r := by
  intro r
  rintro (⟨h', _⟩ | ⟨_, ⟨h', _⟩ | ⟨_, ⟨h', _⟩ | ⟨_, ⟨h', _⟩ | ⟨_, ⟨h', _⟩ | ⟨_, h'⟩⟩⟩⟩⟩)
  · exact absurd h' (by decide)
  · exact fits h hp h'
  · obtain ⟨hb, i, hi, h'⟩ := h'
    rw [only_account rfl hi] at h'
    exact hb h'.symm
  · obtain ⟨_, i, hi, h', _⟩ := h'
    rw [only_account rfl hi] at h'
    cases h'
  · exact absurd h'.1 (by decide)
  · exact h'
/-- A write that keeps the account valid, and one that invalidates it. -/
theorem witness_accountWrite : ConsoleReady console base ∧ base.TablesCanonical ∧
    (∀ r, ¬FirstOf (accountTests 0 { acct.cfg with number := 1048575, cls := 3 } base) r) ∧
    (∀ r, ¬FirstOf (accountTests 0 { acct.cfg with valid := false } base) r) ∧ (base.account 0).cfg.valid = true :=
  ⟨console_ready, base_canonical, base_accepts _ (by decide) (by decide), base_accepts _ (by decide) (by decide), by decide⟩
theorem holding_tags : holding.TagsDistinct := ⟨by decide, by decide, by decide⟩
theorem witness_invalidate : holding.TagsDistinct ∧ (holding.account 0).held.Nodup ∧ (holding.account 0).held = [1] ∧
    ∀ g ∈ (holding.account 0).held, ∃ j, holding.job g = some j ∧ j.state = .held ∧ j.account = 0 :=
  ⟨holding_tags, by decide, by decide, fun g h => by
    cases List.mem_singleton.1 (show g ∈ [1] from h)
    exact ⟨jobAs .held, by decide, rfl, rfl⟩⟩
theorem witness_rollCommands : ConsoleReady console base ∧ base.TablesCanonical := ⟨console_ready, base_canonical⟩
/-- A bank swap is due, and the calendar stands on the last day before its end. -/
theorem witness_rollCommands_swap :
    let s : State := { base with tariff := { base.tariff with written := true }
                                 clock := { base.clock with calendar := some ⟨65535, 0⟩ } }
    ConsoleReady console s ∧ s.TablesCanonical ∧ s.tariff.written = true ∧ 1 ≤ s.settings.periodLength :=
  ⟨⟨rfl, rfl, rfl, by decide, by decide, rfl⟩,
    canonical (by decide), rfl, by decide⟩
/-- The two ends of the deferred slots stand dirty before a roll: R168 calls both. -/
theorem witness_rollCommands_called :
    let s : State := { base with store := { base.store with dirty := [4282, 8633] } }
    ConsoleReady console s ∧ s.TablesCanonical ∧ 4282 ∈ s.store.dirty ∧ 8633 ∈ s.store.dirty ∧ 8633 ≤ 8633 :=
  ⟨⟨rfl, rfl, rfl, by decide, by decide, rfl⟩, canonical (by decide), by decide, by decide, by decide⟩
/-- R54's example. -/
theorem witness_charge : let r : Row := ⟨0, 65535, 65535, 64, 255⟩
    r.rm ≤ 65535 ∧ r.rc ≤ 65535 ∧ r.ps ≤ 65535 ∧ 16 ≤ r.l ∧ r.l ≤ 64 ∧ r.jmin ≤ 255 ∧ (0 : Nat) < 0 + 396000 := by decide
theorem witness_charge_rates : (delivered .printing).rates = some ⟨{ Row.factory with rm := 400 }, 0, 0⟩ := rfl
/-- R52 to R54, R58: 10 faces at 400 milli-points. -/
theorem test_chargeOf : (delivered .printing).chargeOf { tm := 10, tc := 0, ts := 10 } = 4 := by decide
theorem witness_charge_rises : let n : Counts := ⟨1, 1, 1⟩; let r : Row := ⟨1, 1, 1, 16, 0⟩; let r' : Row := ⟨1, 2, 1, 17, 1⟩
    n.tm ≤ n.tm ∧ n.tc ≤ n.tc ∧ n.ts ≤ n.ts ∧ r.rm ≤ r'.rm ∧ r.rc ≤ r'.rc ∧ r.ps ≤ r'.ps ∧ r.l ≤ r'.l ∧ r.jmin ≤ r'.jmin := by
  decide
/-- The last index of each table, and the first past it. -/
theorem witness_tableWrites : ConsoleReady console base ∧ (0 < 1 ∧ 24 ≤ 24 ∧ 24 < 25 ∧ 15 ≤ 15 ∧ 15 < 16) :=
  ⟨console_ready, by decide⟩
theorem test_write_indexes :
    seen (.settingsWrite console (some (1, Settings.factory))) base (fun t => lastResult t.oport) = some (some .badIndex) ∧
    seen (.classifierWrite console (some (25, ClassEntry.factory))) base (fun t => lastResult t.oport) = some (some .badIndex) ∧
    seen (.tariffWrite console (some (16, Row.factory))) base (fun t => lastResult t.oport) = some (some .badIndex) ∧
    seen (.tariffWrite console (some (15, Row.factory))) base (fun t => lastResult t.oport) = some (some .ok) := by decide

/-! #### The Release Engine -/

/-- Two printers of one group, the first of them with a jam. -/
def pair : State :=
  { holding with printers := [(3, { prn with standing := { Standing.none with jam := true } }),
                              (63, { prn with cfg := { prn.cfg with station := some 0x31 } })] }
theorem witness_eligibility : base.TablesCanonical ∧ (base.printer 3).eligible (jobAs .held) = true ∧
    pair.TablesCanonical ∧ (pair.printer 3).eligible (jobAs .held) = false ∧ pair.target 3 (jobAs .held) = some 63 :=
  ⟨base_canonical, by decide, canonical (by decide), by decide, by decide⟩
/-- No printer of the group is eligible. -/
def jammed : State := { holding with printers := [(3, { prn with standing := { Standing.none with jam := true } })] }
/-- A capable printer that is not eligible, and a group whose only printer prints no colour. -/
theorem witness_skip : jammed.TablesCanonical ∧ 3 ∈ jammed.groupOf 3 ∧ (jammed.printer 3).cfg.colourCapable = true ∧
    jammed.skipReason 3 (jobAs .held) = .skippedQueue ∧
    ({ jammed with printers := [(3, { prn with cfg := { prn.cfg with colourCapable := false } })] } : State).skipReason 3
      { jobAs .held with declaredCounts := { tm := 9, tc := 1, ts := 10 } } = .skippedCapability :=
  ⟨canonical (by decide), by decide, by decide, by decide, by decide⟩
/-- A configured printer, and a mono job on standard media. -/
theorem witness_group : (base.printer 3).service ≠ .unused ∧ (jobAs .held).declaredCounts.tc = 0 ∧
    (jobAs .held).media = .standard := by decide
theorem witness_examine_none : jammed.job (jobAs .held).tag = some (jobAs .held) ∧ (jobAs .held).state = .held ∧
    jammed.target 3 (jobAs .held) = none := by decide
theorem witness_examine_quota :
    let s : State := { holding with accounts := [(0, { acct with held := [1], cfg := { acct.cfg with budget := .finite 0 } })] }
    s.job (jobAs .held).tag = some (jobAs .held) ∧ (jobAs .held).state = .held ∧ s.target 3 (jobAs .held) = some 3 ∧
    (s.account 0).covers (s.priceAt 3 (jobAs .held)) = false := by decide
theorem witness_examine_released : holding.job (jobAs .held).tag = some (jobAs .held) ∧ (jobAs .held).state = .held ∧
    holding.target 3 (jobAs .held) = some 3 ∧ (holding.account 0).covers (holding.priceAt 3 (jobAs .held)) = true ∧
    (holding.account 0).reserved + holding.priceAt 3 (jobAs .held) ≤ 16777215 ∧ (jobAs .held).tag ∉ (holding.printer 3).queue ∧
    holding.jobs.outgoing.length < 4095 ∧ ∀ g ∈ (holding.printer 3).queue, ∀ x, holding.job g = some x → x.state ≠ .released :=
  ⟨by decide, rfl, by decide, by decide, by decide, by decide, by decide, fun g h => by cases h⟩
/-- A second Held job, while job 1 prints. -/
def second : Job := { jobAs .held with tag := 2, chain := [2, 3] }
def busy : State := { printing with jobs := { printing.jobs with recs := [delivered .printing, second], lastTag := 2 } }
theorem witness_examine_busy : busy.job second.tag = some second ∧ second.state = .held ∧ busy.target 3 second = some 3 ∧
    (∃ g ∈ (busy.printer 3).queue, ∃ x, busy.job g = some x ∧ x.state = .printing) ∧
    (busy.account 0).covers (busy.priceAt 3 second) = true ∧ second.tag ∉ (busy.printer 3).queue :=
  ⟨by decide, rfl, by decide, ⟨1, by decide, delivered .printing, by decide, rfl⟩, by decide, by decide⟩
theorem witness_walk : [1].Nodup ∧ ∀ g ∈ [1], ∃ j, holding.job g = some j ∧ j.state = .held :=
  ⟨by decide, fun g h => by cases List.mem_singleton.1 h; exact ⟨jobAs .held, by decide, rfl⟩⟩
/-- The walk's last examination, and its end. -/
theorem witness_walk_step : (7 < 8 ∧ holding.job 1 = some (jobAs .held)) ∧ (([] : List Nat) = [] ∨ 8 ≤ 7) ∧
    ([1] = ([] : List Nat) ∨ 8 ≤ 8) := by decide
theorem test_walk : (State.walk 3 [1] 7 holding).2.1.map AnswerEntry.fate = [.released] ∧
    (State.walk 3 [1] 8 holding).2.1 = [] := by decide
theorem test_firstRedirect : firstRedirect 3 [some 3, none, some 63, some 0] = some 63 ∧
    firstRedirect 3 [some 3, none] = none := by decide
theorem witness_panelRequests : PanelReady (fleet 0x30 1) ask 3 0 holding ∧ Present holding 3 ∧
    holding.job 1 = some (jobAs .held) ∧ (jobAs .held).account = 0 ∧ (jobAs .held).state = .held ∧
    holding.jobs.outgoing.length < 4096 := ⟨panel_ready, by unfold Present; decide, by decide, rfl, rfl, by decide⟩
theorem witness_panelRequests_none : PanelReady (fleet 0x30 2) ask 3 0 holding ∧ Present holding 3 ∧
    ∀ j, holding.job 2 = some j → j.account ≠ 0 ∨ j.state ≠ .held :=
  ⟨⟨⟨rfl, rfl, by decide, by decide⟩, rfl, by decide, by decide, by decide, .inr (by decide)⟩, by unfold Present; decide,
    none_meets (by decide)⟩

/-! #### Gates -/

theorem witness_management_port : managementOf (.park { console with port := .fleet } (some 3)) =
    some ({ console with port := .fleet }, true) ∧ base.phase = .up := ⟨rfl, rfl⟩
theorem witness_management_misfit : managementOf (.park console none) = some (console, false) ∧ base.phase = .up ∧
    console.port = .office ∧ base.console.reply = none := ⟨rfl, rfl, rfl, rfl⟩
/-- The tests of R174 and R161. -/
def gates (s : State) : List (Prop × Result) :=
  [((s.classEntry (s.hit 5)).rights = false, .notPermitted), (s.asleep = true, .waking), (s.restartPending = true, .busy)]
theorem witness_management_rights : FirstOf (gates { base with dflt := { base.dflt with rights := false } }) .notPermitted :=
  firstOf_here (by decide)
theorem witness_management_waking : FirstOf (gates { base with clock := { base.clock with mode := .standby } }) .waking :=
  firstOf_next (by decide) <| firstOf_here (by decide)
theorem witness_management_busy : FirstOf (gates { base with restartPending := true }) .busy :=
  firstOf_next (by decide) <| firstOf_next (by decide) <| firstOf_here rfl
theorem witness_management_closed : ConsoleReady console base ∧ 31 ≤ 31 ∧ ¬32 ≤ 31 ∧ 63 ≤ 63 ∧ ¬64 ≤ 63 :=
  ⟨console_ready, by decide, by decide, by decide, by decide⟩
theorem witness_management_idle : managementOf (.park console (some 3)) = some (console, true) ∧ base.phase = .up ∧
    console.port = .office ∧ base.console.reply = none ∧ base.clock.mode = .running ∧ base.clock.idle.runs = true := by decide
/-- R158, log 15: the timer starts again from the idle time of before the write. -/
theorem test_management_idle :
    seen (.settingsWrite console (some (0, { Settings.factory with idleTime := 240 })))
      { base with settings := { base.settings with idleTime := 10 } } (fun t => (t.clock.idle, t.settings.idleTime))
      = some (.running 10, 240) := by decide
/-- R176: the first index past the Callout Table. -/
theorem test_tableWrite_index : seen (.tableWrite console (some (.callout, 32))) base (fun t => lastResult t.oport)
    = some (some .badIndex) := by decide

theorem witness_panel_gates : panelOf (.list (fleet 0x30 0) none) = some (fleet 0x30 0, none) ∧ base.phase = .up ∧
    base.printerOf 0x30 = some 3 ∧ Present base 3 ∧ base.answer = none := ⟨rfl, rfl, by decide, by unfold Present; decide, rfl⟩
/-- The part in Standby. -/
def asleep : State := { base with clock := { base.clock with mode := .standby } }
theorem witness_panel_asleep : panelOf (.list (fleet 0x30 0) (some ask)) = some (fleet 0x30 0, some ask) ∧ asleep.phase = .up ∧
    asleep.printerOf 0x30 = some 3 ∧ Present asleep 3 ∧ asleep.answer = none ∧ asleep.asleep = true :=
  ⟨rfl, rfl, by decide, by unfold Present; decide, rfl, by decide⟩
theorem witness_panel_unknown : PrinterReady (fleet 0x30 0) 3 base ∧ Present base 3 ∧ base.answer = none :=
  ⟨base_printer, by unfold Present; decide, rfl⟩
theorem witness_jobOpen_asleep : JobReady (office 9 0) asleep ∧ asleep.asleep = true := ⟨⟨rfl, rfl, by decide⟩, by decide⟩
/-- 32 messages wait in the outgoing list. -/
theorem witness_job_gate : jobMessageOf (.jobCancel (office 9 1) true) = some (office 9 1, true) ∧
    32 ≤ ({ base with jobs := { base.jobs with outgoing := List.replicate 32 waiting } } : State).jobs.outgoing.length ∧
    base.phase = .up := ⟨rfl, by decide, rfl⟩
theorem witness_job_misfit : jobMessageOf (.jobClose (office 9 1) none) = some (office 9 1, false) ∧ base.phase = .up ∧
    (office 9 1).port = .office ∧ base.jobs.outgoing.length < 32 := ⟨rfl, rfl, rfl, by decide⟩
theorem witness_printer_stray : printerMessageOf (.grant (fleet 0x31 1) (some 1)) = some (fleet 0x31 1) ∧ base.phase = .up ∧
    base.printerOf 0x31 = none ∧ base.TablesCanonical := ⟨rfl, rfl, by decide, base_canonical⟩
theorem witness_printer_asleep : asleep.phase = .up ∧ (fleet 0x30 1).port = .fleet ∧ asleep.printerOf 0x30 = some 3 ∧
    asleep.asleep = true := ⟨rfl, rfl, by decide, by decide⟩
theorem witness_printer_misfit : base.phase = .up ∧ base.printerOf 0x30 = some 3 ∧ base.asleep = false ∧ Present base 3 :=
  ⟨rfl, by decide, by decide, by unfold Present; decide⟩

/-! #### Delivery -/

theorem printing_present : Present printing 3 := by unfold Present; decide
theorem printing_job : printing.job 1 = some (delivered .printing) := by decide
theorem witness_grant : PrinterReady (fleet 0x30 1) 3 printing ∧ Present printing 3 ∧ 1 ∈ (printing.printer 3).queue ∧
    printing.job 1 = some (delivered .printing) ∧ (delivered .printing).state = .printing ∧ (delivered .printing).allowed < 1 ∧
    0 ≤ (delivered .printing).allowed := ⟨printer_ready, printing_present, by decide, printing_job, rfl, by decide, by decide⟩
theorem witness_grant_stray : PrinterReady (fleet 0x30 2) 3 printing ∧ Present printing 3 ∧ 2 ∉ (printing.printer 3).queue :=
  ⟨⟨rfl, rfl, by decide, by decide⟩, printing_present, by decide⟩
theorem witness_pageReport : PrinterReady (fleet 0x30 1) 3 printing ∧ Present printing 3 ∧
    (printing.printer 3).cfg.mode ≠ .silent ∧ 1 ∈ (printing.printer 3).queue ∧ printing.job 1 = some (delivered .printing) ∧
    ((delivered .printing).state = .printing ∨ (delivered .printing).state = .finishing) :=
  ⟨printer_ready, printing_present, by decide, by decide, printing_job, .inl rfl⟩
theorem witness_pageReport_released : PrinterReady (fleet 0x30 1) 3 (delivering .released) ∧ Present (delivering .released) 3 ∧
    1 ∈ ((delivering .released).printer 3).queue ∧ ∀ j, (delivering .released).job 1 = some j → j.state = .released :=
  ⟨⟨rfl, rfl, by decide, by decide⟩, by unfold Present; decide, by decide, all_meet (k := delivered .released) (by decide) rfl⟩
/-- A SILENT printer. -/
def silent (st : JobState) : State :=
  { delivering st with printers := [(3, { prn with queue := [1], cfg := { prn.cfg with mode := .silent } })] }
theorem witness_pageReport_silent : PrinterReady (fleet 0x30 1) 3 (silent .printing) ∧ Present (silent .printing) 3 ∧
    ((silent .printing).printer 3).cfg.mode = .silent := ⟨⟨rfl, rfl, by decide, by decide⟩, by unfold Present; decide, by decide⟩
theorem printing_healthy : printing.HealthFollowsScore := by
  intro e h
  cases List.mem_singleton.1 h
  exact ⟨by decide, by decide⟩
theorem delivering_healthy (st : JobState) : (delivering st).HealthFollowsScore := by
  intro e h
  cases List.mem_singleton.1 h
  exact ⟨by decide, by decide⟩
theorem delivering_canonical (st : JobState) : (delivering st).TablesCanonical :=
  canonical ⟨rfl, .nil, nofun⟩
theorem witness_finalReport : PrinterReady (fleet 0x30 1) 3 printing ∧ Present printing 3 ∧ printing.TablesCanonical ∧
    printing.HealthFollowsScore ∧ (printing.printer 3).cfg.mode ≠ .silent ∧ printing.queueOf 1 = some 3 ∧
    printing.job (delivered .printing).tag = some (delivered .printing) ∧
    ((delivered .printing).state = .printing ∨ (delivered .printing).state = .finishing) ∧
    (⟨10, 0, 10, true, false⟩ : PageReportBody).final = true :=
  ⟨printer_ready, printing_present, printing_canonical, printing_healthy, by decide, by decide, printing_job, .inl rfl, rfl⟩
theorem witness_stall : printing.phase = .up ∧ printing.TablesCanonical ∧ printing.HealthFollowsScore ∧
    printing.firstIn 3 .printing = some (delivered .printing) ∧ (printing.printer 3).stall.runs = true :=
  ⟨rfl, printing_canonical, printing_healthy, by decide, by decide⟩
def finishingJob : Job := { delivered .finishing with finish := .running 600 }
def finishing : State := { delivering .finishing with jobs := { base.jobs with recs := [finishingJob], lastTag := 1 } }
theorem witness_finish : finishing.phase = .up ∧ finishing.TablesCanonical ∧ finishing.HealthFollowsScore ∧
    finishing.queueOf finishingJob.tag = some 3 ∧ finishing.job finishingJob.tag = some finishingJob ∧
    finishingJob.state = .finishing ∧ finishingJob.finish.runs = true :=
  ⟨rfl, canonical (by decide), fun e h => delivering_healthy .finishing e h,
    by decide, by decide, rfl, rfl⟩
theorem witness_timers_stopped : base.phase = .up ∧ (base.printer 3).stall.runs = false ∧ base.queueOf 1 = none := by decide
theorem witness_cancel_printing : JobReady (office 9 1) printing ∧ printing.TablesCanonical ∧
    printing.job (delivered .printing).tag = some (delivered .printing) ∧ (delivered .printing).origin = 9 ∧
    printing.queueOf 1 = some 3 ∧ printing.firstIn 3 .printing = some (delivered .printing) :=
  ⟨⟨rfl, rfl, by decide⟩, printing_canonical, printing_job, rfl, by decide, by decide⟩
theorem witness_cancel_released : JobReady (office 9 1) (delivering .released) ∧ (delivering .released).TablesCanonical ∧
    (delivering .released).job 1 = some (delivered .released) ∧ (delivered .released).origin = 9 ∧
    (delivering .released).queueOf 1 = some 3 ∧ (delivered .released).state = .released :=
  ⟨⟨rfl, rfl, by decide⟩, delivering_canonical _, by decide, rfl, by decide, rfl⟩
/-- R89: a stream that starts, and three that do not: none Released, one Printing, a standing condition. -/
theorem witness_startStream : ((delivering .released).printer 3).standing = Standing.none ∧
    (delivering .released).firstIn 3 .printing = none ∧ (delivering .released).firstIn 3 .released = some (delivered .released) ∧
    (delivering .released).jobs.outgoing.length < 4096 ∧ (delivering .finishing).firstIn 3 .released = none ∧
    printing.firstIn 3 .printing ≠ none ∧ (jammed.printer 3).standing ≠ Standing.none := by decide
theorem witness_firstIn : (delivering .released).firstIn 3 .printing = none ∧
    printing.firstIn 3 .printing = some (delivered .printing) ∧ (printing.printer 3).queue = [] ++ 1 :: [] ∧
    printing.job 1 = some (delivered .printing) := by decide
theorem witness_streamControl : cancelling.phase = .up ∧ cancelling.streamTurn 3 = true ∧
    (cancelling.printer 3).control =
      [{ etherType := 0xB7C4, src := 0, dst := 0x30, jobTag := 1, reqTag := 0, body := .streamCancel }] := by decide
/-- The last chunk, of 2 bytes. -/
theorem witness_streamData : streaming.phase = .up ∧ streaming.streamTurn 3 = true ∧ (streaming.printer 3).control = [] ∧
    (streaming.printer 3).standing = Standing.none ∧ streaming.firstIn 3 .printing = some shortJob ∧
    shortJob.sent < shortJob.allowed ∧ shortJob.sent < ceilDiv shortJob.received 1024 ∧
    [0x41, 0x42].length = min 1024 (shortJob.received - shortJob.sent * 1024) ∧
    (∀ i < 2, ∃ a, spoolAddress shortJob.chain (shortJob.sent * 1024 + i) = some a ∧
      memRead streaming.spool.mem a = [(0x41 : Byte), 0x42][i]?) := by
  refine ⟨rfl, by decide, by decide, by decide, by decide, by decide, by decide, by decide, fun i h => ⟨i, ?_⟩⟩
  rcases (by omega : i = 0 ∨ i = 1) with rfl | rfl <;> decide
/-- Every chunk is sent: at a printer that reports, and at a SILENT one. -/
def ended (mode : ReportMode) : State :=
  { streaming with jobs := { streaming.jobs with recs := [{ shortJob with sent := 1 }] }
                   printers := [(3, { prn with queue := [1], cfg := { prn.cfg with mode := mode } })] }
theorem witness_streamEnd : (ended .pages).phase = .up ∧ (ended .pages).streamTurn 3 = true ∧ ((ended .pages).printer 3).control = [] ∧
    (ended .pages).firstIn 3 .printing = some { shortJob with sent := 1 } ∧ ceilDiv shortJob.received 1024 ≤ 1 ∧
    ((ended .pages).printer 3).cfg.mode ≠ .silent := by decide
theorem witness_streamEnd_silent : (ended .silent).streamTurn 3 = true ∧ ((ended .silent).printer 3).cfg.mode = .silent ∧
    (ended .silent).TablesCanonical ∧ (ended .silent).HealthFollowsScore ∧ (ended .silent).queueOf shortJob.tag = some 3 :=
  ⟨by decide, by decide, canonical (by decide), by
    intro e h
    cases List.mem_singleton.1 h
    exact ⟨by decide, by decide⟩, by decide⟩
theorem witness_evacuation_printing : printing.TablesCanonical ∧ printing.job 1 = some (delivered .printing) ∧
    printing.queueOf 1 = some 3 ∧ printing.firstIn 3 .printing = some (delivered .printing) :=
  ⟨printing_canonical, printing_job, by decide, by decide⟩
theorem witness_evacuation_finishing : (delivering .finishing).TablesCanonical ∧
    (delivering .finishing).job 1 = some (delivered .finishing) ∧ (delivering .finishing).queueOf 1 = some 3 ∧
    (delivered .finishing).state = .finishing := ⟨delivering_canonical _, finishing_job, by decide, rfl⟩
/-- A Parking printer whose only job is Released: the evacuation leaves it empty and Parked. -/
def parking : State :=
  { delivering .released with printers := [(3, { prn with queue := [1], service := .parking })] }
theorem witness_evacuate : parking.firstIn 3 .printing = none ∧ (parking.printer 3).service = .parking ∧
    (parking.printer 3).queue ≠ [] ∧ ((parking.evacuate 3 false).printer 3).queue = [] ∧
    ((parking.evacuate 3 false).printer 3).service = .parked ∧
    ((base.evacuate 3 true).printer 3).service = .inService := by decide
/-- R105: a standing evacuation leaves a Finishing job; a full one ends it. -/
theorem test_evacuate_finishing : (((delivering .finishing).evacuate 3 false).printer 3).queue = [1] ∧
    (((delivering .finishing).evacuate 3 true).printer 3).queue = [] := by decide
/-- A Released job with a partner printer, and one without. -/
def partnered : State :=
  { delivering .released with printers := [(3, { prn with queue := [1] }), (4, { prn with cfg := { prn.cfg with station := some 0x31 } })] }
theorem witness_evacuation_released : partnered.TablesCanonical ∧ partnered.job 1 = some (delivered .released) ∧
    partnered.queueOf 1 = some 3 ∧ partnered.partner 3 (delivered .released) = some 4 ∧
    (partnered.account 0).covers (partnered.priceAt 4 (delivered .released)) = true ∧
    (delivering .released).partner 3 (delivered .released) = none :=
  ⟨canonical (by decide), by decide, by decide, by decide, by decide,
    by decide⟩

/-! #### Health and callouts -/

theorem base_present : Present base 3 := by unfold Present; decide
/-- The last kind of fault, and the first code that names none. -/
theorem witness_faults : PrinterReady (fleet 0x30 0) 3 base ∧ Present base 3 ∧
    [FaultKind.jam, .mediaOut, .doorOpen, .engine, .supplyFault][4]? = some .supplyFault ∧ 5 ≤ 5 ∧
    (base.printer 3).health ≠ .withdrawn := ⟨base_printer, base_present, rfl, Nat.le_refl _, by decide⟩
/-- R112: the first code that names no kind. -/
theorem test_fault_unknown : seen (.fault (fleet 0x30 0) (some 5)) base (fun t => ((t.printer 3).score, (t.printer 3).lastFault))
    = some (0, none) := by decide
/-- The ends of the bands. -/
def scored (n : Nat) (x : Health) : State := { base with printers := [(3, { prn with score := n, health := x })] }
theorem witness_bands : ((scored 160 .active).printer 3).score = 160 ∧ ((scored 160 .active).printer 3).health = .active ∧
    ((scored 319 .degraded).printer 3).health = .degraded ∧ ((scored 640 .degraded).printer 3).score = 640 ∧
    ((scored 159 .watch).printer 3).health = .watch := by decide
theorem test_band_ends : ((scored 160 .active).moveBand 3).printer 3 = { prn with score := 160, health := .watch } ∧
    (((scored 159 .watch).moveBand 3).printer 3).health = .active ∧
    (((scored 639 .watch).moveBand 3).printer 3).health = .degraded ∧
    (((scored 640 .degraded).moveBand 3).printer 3).health = .withdrawn := by decide
theorem witness_status : PrinterReady (fleet 0x30 0) 3 base ∧ Present base 3 := ⟨base_printer, base_present⟩
theorem witness_presence : base.phase = .up ∧ base.asleep = false ∧ (base.printer 3).presence.runs = true ∧
    (base.printer 4).presence.runs = false := by decide
theorem witness_limit : let s : State := { base with printers := [(3, { prn with limit := .running 30 })] }
    s.phase = .up ∧ (s.printer 3).limit.runs = true ∧ (s.printer 4).limit.runs = false := by decide
/-- An Absent printer. -/
def absent : State :=
  { base with printers := [(3, { prn with standing := { Standing.none with unreachable := true }, presence := .stopped })] }
theorem witness_absent : printerMessageOf (.grant (fleet 0x30 1) (some 1)) = some (fleet 0x30 1) ∧ absent.phase = .up ∧
    (fleet 0x30 1).port = .fleet ∧ absent.TablesCanonical ∧ absent.printerOf 0x30 = some 3 ∧ ¬Present absent 3 ∧
    absent.asleep = false ∧ (absent.printer 3).standing.unreachable = true :=
  ⟨rfl, rfl, rfl, canonical (by decide), by decide,
    by unfold Present; decide, by decide, by decide⟩
theorem witness_callout_open : called.TablesCanonical ∧ called.calloutOf 3 = some 0 ∧ called.callout 0 = some openCallout ∧
    openCallout.kind.rank < CalloutKind.urgent.rank ∧ CalloutKind.attention.rank ≤ openCallout.kind.rank :=
  ⟨called_canonical, by decide, by decide, by decide, by decide⟩
theorem witness_callout_free : base.TablesCanonical ∧ base.calloutOf 3 = none ∧ base.callout 0 = none :=
  ⟨base_canonical, by decide, by decide⟩
/-- 32 callouts are open, for other printers. -/
def fullCallouts : State :=
  { base with callouts := (List.range 32).map (fun i => (i, some { openCallout with printer := i + 4 })) }
theorem witness_callout_full : fullCallouts.TablesCanonical ∧ fullCallouts.calloutOf 3 = none ∧
    (∀ i < 32, fullCallouts.callout i ≠ none) ∧ (fullCallouts.printer 3).owed = none :=
  ⟨canonical (by decide), by decide, by decide, by decide⟩
/-- A printer that owes a callout and does not pass the close test, and one that passes. -/
def owing : State :=
  { base with printers := [(3, { prn with owed := some (.service, .degraded) }),
                           (4, { prn with cfg := { prn.cfg with station := some 0x31 }, health := .degraded, score := 400
                                          owed := some (.service, .degraded) })] }
theorem witness_callout_owed : owing.configured.filter (fun q => (owing.printer q).owed.isSome) = [3, 4] ∧
    (owing.printer 3).standing = Standing.none ∧ (owing.printer 3).health = .active ∧ (owing.printer 4).health = .degraded ∧
    (owing.printer 4).owed = some (.service, .degraded) := by decide
theorem test_callout_offered : (owing.offerCallout 31).callout 31 = some (owing.newCallout 4 .service .degraded) ∧
    ((owing.offerCallout 31).printer 3).owed = none := by decide
theorem witness_renotify : called.phase = .up ∧ called.asleep = false ∧ called.callout 0 = some openCallout ∧
    openCallout.acknowledged = false ∧ openCallout.timer.runs = true ∧ called.callout 31 = none := by decide
theorem witness_calloutCommands : ConsoleReady console called ∧ 63 < 64 ∧ called.calloutOf 3 = some 0 ∧
    called.callout 0 = some openCallout ∧ called.calloutOf 63 = none ∧ (called.printer 63).owed = none :=
  ⟨⟨rfl, rfl, rfl, by decide, by decide, rfl⟩, by decide, by decide, by decide, by decide, by decide⟩
theorem witness_calloutCommands_owed : ConsoleReady console owing ∧ owing.calloutOf 3 = none ∧ (owing.printer 3).owed ≠ none :=
  ⟨⟨rfl, rfl, rfl, by decide, by decide, rfl⟩, by decide, by decide⟩
theorem witness_printerCommands_refused : ConsoleReady console base ∧
    FirstOf [(63 < 64, Result.badIndex), ((base.printer 64).service = .unused, .notAccepted)] .badIndex ∧
    FirstOf [(63 < 63, Result.badIndex), ((base.printer 63).service = .unused, .notAccepted)] .notAccepted :=
  ⟨console_ready, firstOf_here (by decide), firstOf_next (by decide) <| firstOf_here (by decide)⟩
theorem witness_printerCommands : ConsoleReady console base ∧ 3 ≤ 63 ∧ (base.printer 3).service = .inService ∧
    (base.printer 3).health ≠ .withdrawn := ⟨console_ready, by decide, by decide, by decide⟩
theorem witness_printerCommands_parked :
    let s : State := { base with printers := [(63, { prn with service := .parked, health := .withdrawn })] }
    ConsoleReady console s ∧ (s.printer 63).service = .parked ∧ (s.printer 63).health = .withdrawn :=
  ⟨⟨rfl, rfl, rfl, by decide, by decide, rfl⟩, by decide, by decide⟩

/-! #### Supplies -/

/-- A K at 10 per cent, its level at the floor, and at 9,999 and 16 a day, above floor and lead. -/
def low (remaining usage : Nat) : Supply := { Supply.create SupplyFields.factory with remaining := remaining, usage := usage }
def level (remaining usage : Nat) : State := { base with printers := [(3, { prn with k := some (low remaining usage) })] }
theorem witness_reorder : (level 1000 0).TablesCanonical ∧ ((level 1000 0).printer 3).supply .k = some (low 1000 0) ∧
    (low 1000 0).armed = true ∧ (level 1000 0).orderOf 3 .k = none ∧ (low 1000 0).remaining * 1000 / (low 1000 0).cfg.yield ≤ 100 ∧
    (level 1000 0).reorder 0 = none :=
  ⟨canonical (by decide), by decide, by decide, by decide, by decide,
    by decide⟩
/-- R143: at the floor of 100 per mille the test opens an order, one per mille above it does not. -/
theorem test_reorder_floor : (((level 1000 0).reorderTest 3 .k).reorder 0).isSome = true ∧
    (((level 1010 0).reorderTest 3 .k).reorder 0).isSome = false := by decide
/-- R143: 14 days at the lead of 14, and 15 days. -/
theorem test_reorder_lead : (((level 1400 1600).reorderTest 3 .k).reorder 0).map Reorder.days = some (some 14) ∧
    ((level 1500 1600).reorderTest 3 .k).reorder 0 = none := by decide
/-- 64 orders are open, of other printers. -/
def fullOrders : State :=
  { level 1000 0 with reorders := (List.range 64).map (fun i => (i, some { openOrder with printer := i + 4 })) }
theorem witness_reorder_full : fullOrders.orderOf 3 .k = none ∧ (∀ i < 64, fullOrders.reorder i ≠ none) := by decide +kernel
theorem witness_reorder_close : ordered.TablesCanonical ∧ ordered.reorder 0 = some openOrder ∧ ordered.orderOf 3 .k = some 0 :=
  ⟨ordered_canonical, by decide, by decide⟩
theorem witness_reorder_owed :
    let s : State := { base with printers := [(3, { prn with y := some { low 10 0 with owed := true } })] }
    (s.printer 3).service ≠ .unused ∧ (s.printer 3).supply .y = some { low 10 0 with owed := true } ∧
    (s.printer 3).supply .k = some (Supply.create SupplyFields.factory) := by decide
theorem witness_colorants : (base.printer 3).supply .k = some (Supply.create SupplyFields.factory) ∧
    (base.printer 4).supply .k = none ∧ ([⟨.k, 0, none⟩, ⟨.y, 1000, some []⟩] : List ColorantReport).map
      ColorantReport.colorant = [.k, .y] ∧ [Colorant.k, .y].Nodup := by decide
theorem witness_orderCommands_refused : ConsoleReady console base ∧
    FirstOf [(63 < 64, Result.badIndex), ((base.printer 64).service = .unused, .notAccepted),
      ((base.printer 64).supply .k = none, .notAccepted)] .badIndex ∧
    FirstOf [(63 < 63, Result.badIndex), ((base.printer 63).service = .unused, .notAccepted),
      ((base.printer 63).supply .k = none, .notAccepted)] .notAccepted :=
  ⟨console_ready, firstOf_here (by decide), firstOf_next (by decide) <| firstOf_here (by decide)⟩
/-- A mono printer has no C. -/
theorem witness_orderCommands_mono :
    let s : State := { base with printers := [(3, { prn with c := none, m := none, y := none })] }
    ConsoleReady console s ∧ FirstOf [(63 < 3, Result.badIndex), ((s.printer 3).service = .unused, .notAccepted),
      ((s.printer 3).supply .c = none, .notAccepted)] .notAccepted :=
  ⟨⟨rfl, rfl, rfl, by decide, by decide, rfl⟩, firstOf_next (by decide) <| firstOf_next (by decide) <| firstOf_here (by decide)⟩
theorem witness_orderCommands : ConsoleReady console ordered ∧ 3 ≤ 63 ∧ (ordered.printer 3).service ≠ .unused ∧
    (ordered.printer 3).supply .k = some (Supply.create SupplyFields.factory) ∧ ordered.orderOf 3 .k = some 0 ∧
    ordered.reorder 0 = some openOrder ∧ ordered.orderOf 3 .c = none ∧
    (ordered.printer 3).supply .c = some (Supply.create SupplyFields.factory) ∧
    (Supply.create SupplyFields.factory).owed = false :=
  ⟨⟨rfl, rfl, rfl, by decide, by decide, rfl⟩, by decide, by decide, by decide, by decide, by decide, by decide, by decide,
    by decide⟩
/-- R142: 16 faces on the first day raise the usage to 32; usage falls by floor, from 1 to 0. -/
theorem witness_dayRoll : base.TablesCanonical ∧ (base.printer 3).service ≠ .unused ∧ ((0 : Int) + (16 * 16 - 0) / 8 = 32) ∧
    ((1 : Int) + (0 * 16 - 1) / 8 = 0) := ⟨base_canonical, by decide, by decide, by decide⟩
theorem test_dayRoll : let s : State := { base with printers := [(3, { prn with k := some { low 9000 0 with today := 16 }
                                                                                c := some (low 9000 1) })] }
    ((s.dayRoll.printer 3).k.map (fun r => (r.today, r.usage)), (s.dayRoll.printer 3).c.map (fun r => (r.today, r.usage)))
      = (some (0, 32), some (0, 0)) := by decide

/-- The tests of a PRINTER_WRITE in the order of R84. -/
def printerTests (p : Nat) (f : PrinterFields) (s : State) : List (Prop × Result) :=
  [(63 < p, .badIndex),
   ((∃ n, f.cfg.name = some n ∧ 16 < n.length) ∨ 15 < f.cfg.group ∨ 3 < f.cfg.band ∨ f.modeKnown = false, .notAccepted),
   (f.cfg.station ≠ none ∧ (∃ q, q ≠ p ∧ (s.printer q).cfg.station = f.cfg.station), .entryLocked),
   (((s.printer p).service = .inService ∨ (s.printer p).service = .parking) ∧ ((s.printer p).cfg.station ≠ f.cfg.station ∨
      (s.printer p).cfg.group ≠ f.cfg.group ∨ (s.printer p).cfg.colourCapable ≠ f.cfg.colourCapable ∨
      (s.printer p).cfg.largeCapable ≠ f.cfg.largeCapable ∨ (s.printer p).cfg.band ≠ f.cfg.band ∨
      (s.printer p).cfg.mode ≠ f.cfg.mode), .entryLocked)]
theorem named {f : PrinterFields} (h : f.cfg.name = none) (h' : f.cfg.group ≤ 15 ∧ f.cfg.band ≤ 3 ∧ f.modeKnown = true) :
    ¬((∃ n, f.cfg.name = some n ∧ 16 < n.length) ∨ 15 < f.cfg.group ∨ 3 < f.cfg.band ∨ f.modeKnown = false) := by
  rintro (⟨n, hn, _⟩ | hg | hb | hm)
  · cases h.symm.trans hn
  · omega
  · omega
  · cases h'.2.2.symm.trans hm
theorem only_printer {s : State} {e : Printer} {p : Nat} (h : s.printers = [(p, e)]) {i : Nat} (hi : i ≠ p) :
    s.printer i = printerFactory := by
  unfold State.printer
  rw [h]
  exact Tbl.get_of_not_listed fun x he => by cases List.mem_singleton.1 he; exact Ne.symm hi
theorem witness_printerWrite_index : FirstOf (printerTests 64 prnFields base) .badIndex := firstOf_here (by decide)
theorem witness_printerWrite_fields :
    FirstOf (printerTests 63 { prnFields with cfg := { prn.cfg with group := 16 } } base) .notAccepted :=
  firstOf_next (by decide) <| firstOf_here (.inr (.inl (by decide)))
theorem witness_printerWrite_station : FirstOf (printerTests 63 prnFields base) .entryLocked :=
  firstOf_next (by decide) <| firstOf_next (named rfl (by decide)) <| firstOf_here ⟨by decide, 3, by decide, by decide⟩
theorem witness_printerWrite_service :
    FirstOf (printerTests 3 { prnFields with cfg := { prn.cfg with group := 15 } } base) .entryLocked :=
  firstOf_next (by decide) <| firstOf_next (named rfl (by decide)) <|
    firstOf_next (fun ⟨_, q, hq, h⟩ => by rw [only_printer rfl hq] at h; cases h) <| firstOf_here (by decide)
theorem write_accepted {s : State} {e : Printer} {f : PrinterFields} (hs : s.printers = [(3, e)]) (hn : f.cfg.name = none)
    (hf : f.cfg.group ≤ 15 ∧ f.cfg.band ≤ 3 ∧ f.modeKnown = true)
    (he : e.service = .parked ∨ e.service = .unused) : ∀ r, ¬FirstOf (printerTests 3 f s) r := by
  intro r
  have h3 : s.printer 3 = e := by
    unfold State.printer
    rw [hs]
    rfl
  rintro (⟨h', _⟩ | ⟨_, ⟨h', _⟩ | ⟨_, ⟨h', _⟩ | ⟨_, ⟨h', _⟩ | ⟨_, h'⟩⟩⟩⟩)
  · exact absurd h' (by decide)
  · exact named hn hf h'
  · obtain ⟨hb, q, hq, h'⟩ := h'
    rw [only_printer hs hq] at h'
    exact hb h'.symm
  · rw [h3] at h'
    rcases he with he | he <;> rw [he] at h' <;> exact absurd h'.1 (by decide)
  · exact h'
/-- An Unused entry that takes a station or stays without one; a Parked one that keeps its station or loses it. -/
theorem witness_printerWrite_unused : let s : State := { base with printers := [(3, { printerFactory with lifeMono := 1 })] }
    ConsoleReady console s ∧ s.TablesCanonical ∧ (∀ r, ¬FirstOf (printerTests 3 prnFields s) r) ∧
    (∀ r, ¬FirstOf (printerTests 3 { prnFields with cfg := { prn.cfg with station := none } } s) r) ∧
    (s.printer 3).service = .unused :=
  ⟨⟨rfl, rfl, rfl, by decide, by decide, rfl⟩, canonical (by decide),
    write_accepted rfl rfl (by decide) (.inr rfl), write_accepted rfl rfl (by decide) (.inr rfl), by decide⟩
theorem witness_printerWrite_parked : let s : State := { base with printers := [(3, { prn with service := .parked })] }
    ConsoleReady console s ∧ s.TablesCanonical ∧
    (∀ r, ¬FirstOf (printerTests 3 { prnFields with cfg := { prn.cfg with colourCapable := false, mode := .silent } } s) r) ∧
    (∀ r, ¬FirstOf (printerTests 3 { prnFields with cfg := { prn.cfg with station := none } } s) r) ∧
    (s.printer 3).service ≠ .unused :=
  ⟨⟨rfl, rfl, rfl, by decide, by decide, rfl⟩, canonical (by decide),
    write_accepted rfl rfl (by decide) (.inl rfl), write_accepted rfl rfl (by decide) (.inl rfl), by decide⟩
theorem witness_removeSupplies : 3 ≤ 63 ∧ [Colorant.k, .c].filterMap (fun col => ordered.orderOf 3 col) = [0] ∧
    ordered.reorder 0 = some openOrder := by decide

/-! #### Clock, store and ports -/

theorem base_tags : base.TagsDistinct := ⟨by decide, by decide, by decide⟩
/-- Uptime at the greatest value from which it still rises, and with the events of the hour and the day still waiting. -/
def late : State :=
  { base with clock := { base.clock with uptime := 4294967294, hourRaised := true, midnightRaised := true
                                         calendar := some ⟨65535, 1439⟩ } }
theorem witness_minuteEvent : late.phase = .up ∧ late.TagsDistinct ∧ late.takeHour.takeMidnight.clock.uptime < 4294967295 ∧
    late.takeHour.takeMidnight.asleep = false := ⟨rfl, ⟨by decide, by decide, by decide⟩, by decide, by decide⟩
theorem witness_clockEvents : base.phase = .up ∧ base.TablesCanonical ∧ late.clock.hourRaised = true ∧
    late.clock.midnightRaised = true ∧ late.clock.calendar = some ⟨65535, 1439⟩ ∧ (base.printer 3).faulted = false ∧
    base.clock.hourRaised = false := ⟨rfl, base_canonical, rfl, rfl, rfl, by decide, by decide⟩
theorem witness_setClock : ConsoleReady console base ∧ (65535 < 65536 ∨ 1439 < 0) ∧ 65535 ≤ 65535 ∧ 1439 ≤ 1439 :=
  ⟨console_ready, by decide, by decide, by decide⟩
theorem test_setClock_ends : seen (.setClock console (some (65535, 1439))) base (fun t => t.clock.calendar)
    = some (some ⟨65535, 1439⟩) ∧
    seen (.setClock console (some (65536, 0))) base (fun t => (lastResult t.oport, t.clock.calendar))
      = some (some .notAccepted, none) := by decide
theorem witness_wakeRolls : let s : State := { base with clock := { base.clock with calendar := some ⟨7, 0⟩, midnights := 1 } }
    s.clock.calendar = some ⟨7, 0⟩ ∧ 1 ≤ s.settings.periodLength ∧ 0 < s.clock.midnights ∧
    s.settings.nextRollDay ≤ 7 := by decide
theorem witness_standby : ConsoleReady console base ∧ base.clock.mode = .running ∧ base.idleCondition = true ∧
    base.TablesCanonical := ⟨console_ready, by decide, by decide, base_canonical⟩
theorem witness_standby_busy : ConsoleReady console receiving ∧ receiving.clock.mode = .running ∧
    receiving.idleCondition = false := ⟨⟨rfl, rfl, rfl, by decide, by decide, rfl⟩, by decide, by decide⟩
theorem witness_standby_settling : let s : State := { base with clock := { base.clock with mode := .settling } }
    ConsoleReady console s ∧ s.clock.mode = .settling ∧
    (s.store.queue = [] ∧ s.store.underWay = none ∧ s.store.dirty = []) :=
  ⟨⟨rfl, rfl, rfl, by decide, by decide, rfl⟩, rfl, by decide⟩
theorem witness_idleTimer : base.phase = .up ∧ base.clock.mode = .running ∧ base.clock.idle.runs = true ∧
    base.idleCondition = true := by decide
theorem witness_wake : let s : State := { base with clock := { base.clock with mode := .waking, kept := [(3, 0), (3, 4)] } }
    s.phase = .up ∧ s.clock.mode = .waking ∧ s.TablesCanonical ∧ s.TagsDistinct :=
  ⟨rfl, rfl, canonical (by decide), by decide, by decide, by decide⟩
/-- The two ends of the deferred slots. -/
theorem witness_store : let s : State := { base with store := { base.store with dirty := [4281, 4282, 8633, 8634] } }
    ConsoleReady console s ∧ s.store.checkpoint.runs = true ∧
    (s.store.dirty.filter (fun n => s.due n)) = [4281, 8634] :=
  ⟨⟨rfl, rfl, rfl, by decide, by decide, rfl⟩, by decide, by decide⟩
/-- An operation under way, with another record queued. -/
def writing : State :=
  { base with store := { base.store with underWay := some (4282, .balance 7 .isOpen 0), queue := [186], dirty := [186] } }
theorem witness_program : writing.phase = .up ∧ writing.store.underWay = some (4282, .balance 7 .isOpen 0) ∧
    writing.store.queue = [186] ∧ base.store.underWay = none := by decide
/-- The last records of each kind that has its image, and a colorant record. -/
theorem witness_image : (24 ≤ 24 ∧ 15 ≤ 15 ∧ 63 ≤ 63 ∧ 4095 ≤ 4095 ∧ 31 ≤ 31) ∧
    (base.printer 3).supply .y = some (Supply.create SupplyFields.factory) := by decide
theorem witness_dirty_rising : (next writing .programOperationComplete).store.dirty.Pairwise (· < ·) ∧
    ∃ t, step (next writing .programOperationComplete) = .next t := ⟨by decide, ⟨_, rfl⟩⟩
theorem witness_restart : ConsoleReady console base := console_ready
theorem witness_restartComplete : let s : State := { printing with restartPending := true }
    s.phase = .up ∧ (s.restartPending = true ∧ s.store.queue = [] ∧ s.store.underWay = none) ∧ s.TablesCanonical ∧
    base.restartPending = false :=
  ⟨rfl, ⟨rfl, by decide, by decide⟩, canonical (by decide), rfl⟩
/-- Two accounts of one number and one badge, and two entries of one station, in slots. -/
def twice : State :=
  { State.reset with phase := .off
                     store := { State.reset.store with
                       slots := [(Machine.printerSlot 0, some (.printerConfig prn.cfg)), (Machine.printerSlot 63, some (.printerConfig prn.cfg)),
                                 (186, some (.accountConfig acct.cfg)), (187, some (.accountConfig acct.cfg))] } }
/-- R22: a cold start leaves no job, whatever the fields held. -/
theorem test_coldStart_jobs : seen (.coldStart .power) { receiving with phase := .off } (fun t =>
    (t.jobs.recs.length, t.jobs.lastTag, t.spool.promises, t.clock.idle.runs)) = some (0, 65535, 0, false) := by decide
/-- R163: a part about to be up, whose idle timer does not run yet. -/
theorem witness_startUp_idle : let s : State := { State.reset.bare [] with phase := .starting }
    s.phase = .starting ∧ s.TablesCanonical ∧ s.clock.mode = .running ∧ s.clock.idle = .stopped ∧ s.restartPending = false ∧
    s.idleCondition = true := ⟨rfl, canonical (by decide), rfl, rfl, rfl, by decide⟩
theorem witness_power : writing.phase ≠ .off ∧ twice.phase = .off ∧ starting.phase = .starting ∧ starting.TablesCanonical :=
  ⟨by decide, rfl, rfl, canonical (by decide)⟩
/-- The last balance slot has failed, and the last colorant slot of an entry without colour. -/
def broken : State :=
  { State.reset with phase := .off
                     store := { State.reset.store with
                       slots := [(Machine.printerSlot 63, some (.printerConfig { prn.cfg with colourCapable := false })),
                                 (Machine.accountSlot 4095, some (.accountConfig acct.cfg)),
                                 (Machine.balanceSlot 4095, none), (Machine.colorantSlot 63 .k, none),
                                 (Machine.colorantSlot 63 .y, none)] } }
theorem witness_summary : twice.store.SlotsCanonical ∧ broken.store.SlotsCanonical := by decide
/-- R164, R169: one balance and two colorants failed; the balance is restored as spent, and is counted. -/
theorem test_summary : seen (.coldStart .power) broken (fun t => (t.store.reset.failed, t.store.reset.conservative,
    (t.account 4095).spent, t.store.dirty)) = some ([0, 0, 0, 0, 0, 0, 1, 2, 0, 0], 1, 1000,
      [Machine.balanceSlot 4095, Machine.colorantSlot 63 .k]) := by
  decide +kernel
/-- R42, R84, R170: the lower index keeps its keys. -/
theorem test_coldStart_twice : seen (.coldStart .power) twice (fun t => ((t.account 0).cfg.valid, (t.account 1).cfg.valid,
    (t.account 1).cfg.badge, (t.printer 0).service, (t.printer 63).service)) = some (true, false, none, .parked, .unused) := by
  decide +kernel
theorem witness_tableRead_index : ConsoleReady console base ∧
    FirstOf [((63 : Nat) < 64, Result.badIndex), (TableId.printer = .job ∧ base.job 64 = none, .noSuchJob)] .badIndex ∧
    FirstOf [((65535 : Nat) < 65535, Result.badIndex), (TableId.job = .job ∧ base.job 65535 = none, .noSuchJob)] .noSuchJob :=
  ⟨console_ready, firstOf_here (by decide), firstOf_next (by decide) <| firstOf_here (by decide)⟩
theorem witness_tableRead : ConsoleReady console holding ∧ 1 ≤ 65535 ∧ holding.job 1 ≠ none ∧ 63 ≤ 63 ∧ 4095 ≤ 4095 :=
  ⟨⟨rfl, rfl, rfl, by decide, by decide, rfl⟩, by decide, by decide, by decide, by decide⟩
theorem witness_query : ConsoleReady console base ∧ base.TablesCanonical := ⟨console_ready, base_canonical⟩
/-- Each producer with a message, its turn being next after the one served last; printer 63 before printer 0 after 62. -/
def ready : State :=
  { cancelling with
    jobs := { base.jobs with outgoing := [waiting] }, console := { base.console with reply := some waiting }
    answer := some waiting, oport := { base.oport with served := 2 }, fport := { base.fport with served := 1 }, lastPrinter := 63 }
theorem witness_producers : ready.phase = .up ∧ ready.oport.served ≤ 2 ∧ ready.fport.served ≤ 1 ∧ ready.lastPrinter ≤ 63 ∧
    ready.jobs.outgoing = [waiting] ∧ ready.console.reply = some waiting ∧ ready.answer = some waiting ∧
    ready.printerTurn = some 3 ∧ ready.streamTurn 3 = false := by decide
theorem test_producers_turn : seen .mgmtReplyPlace ready (fun t => t.console.reply) = some (some waiting) ∧
    seen .jobOutgoingPlace ready (fun t => t.jobs.outgoing) = some [] ∧
    seen .releaseAnswerPlace ready (fun t => t.answer) = some none := by decide
/-- A printer with a chunk, at its last; one with STREAM_END due; one with a control message; and one with none of them. -/
theorem witness_ready : streaming.streamReady 3 = true ∧ (ended .pages).streamReady 3 = true ∧
    cancelling.streamReady 3 = true ∧ printing.streamReady 3 = false ∧ printing.phase = .up ∧
    (printing.oport.served ≤ 2 ∧ printing.fport.served ≤ 1 ∧ printing.lastPrinter ≤ 63) := by decide
theorem witness_ready_none : printing.firstIn 3 .printing = some (delivered .printing) ∧
    ¬(delivered .printing).sent < (delivered .printing).allowed ∧
    ¬ceilDiv (delivered .printing).received 1024 ≤ (delivered .printing).sent := by decide
theorem witness_ports : base.phase = .up ∧ (⟨0x0800, [1]⟩ : EthFrame).etherType ≠ base.settings.frameType := by decide
/-- R181, log 23: a frame of another type at its arrival passes though the settings have come to name its type. -/
theorem test_passThrough_type : seen (.passThroughFrame .office ⟨0xB7C4, [1]⟩) base (fun t => t.fport.pass)
    = some [⟨0xB7C4, [1]⟩] := by decide
/-- R186: JOB_STATUS Ended at printer 3, PRINTED, 4 points: presence 7. -/
theorem test_jobStatus_bytes : ({ waiting with body := .jobStatus .ended (some 3) (some .printed) (some 4) } : OwnMsg).bytes.drop 14
    = [3, 7, 3, 0, 0, 0, 4] := by decide
/-- R186: RELEASE_ANSWER OK with no target and one entry: job 1, 10 faces, mono, 4 points, Released, named A. -/
theorem test_answer_bytes : ({ waiting with body := .releaseAnswer .ok none [⟨1, some [0x41], 10, false, 4, .released⟩] }
    : OwnMsg).bytes.drop 14 = [0, 0xFF, 1, 0, 1, 0, 0, 0, 10, 0, 0, 0, 4, 0, 1, 0x41] := by decide
theorem witness_answer_bytes : (List.replicate 16 (⟨1, none, 10, false, 4, .released⟩ : AnswerEntry)).length ≤ 16 := by decide
/-- R186: in the read of a printer with K alone, the record of K and 57 zeros for C, M and Y stand before the chunk numbers, the
open callout, and the level and days left of the colorants. -/
theorem test_printer_bytes :
    let v := ({ called with printers := [(3, { prn with c := none, m := none, y := none })] } : State).printerView 3
    v.bytes.drop (deliveryBytes v ++ healthBytes v).length =
      [0, 0x27, 0x10, 0, 0x27, 0x10, 0, 0, 0, 0, 0, 0, 0, 0, 14, 0, 100, 1, 0] ++ List.replicate 57 0
        ++ [0, 0, 0, 0, 0, 0, 0, 0, 0, 1, 0] ++ [3, 0xE8, 0, 0, 0, 0, 0, 0] ++ List.replicate 24 0 := by decide
end Sys2Proof.Tests
end

/-! PROOFS. The charge of the Tariff Unit (R48, R52 to R55, R58): what rounding up, the base price, the scaled price and the
charge do, each said once, and O22 from them. -/

namespace Sys2Proof.Machine

/-! ### Division rounded up -/

theorem ceilDiv_le_iff {a b c : Nat} (hb : 0 < b) : ceilDiv a b ≤ c ↔ a ≤ b * c := ceilDiv_le_iff_le_mul hb

theorem le_mul_ceilDiv {b : Nat} (a : Nat) (hb : 0 < b) : a ≤ b * ceilDiv a b := (ceilDiv_le_iff hb).1 le_rfl

theorem mul_ceilDiv_lt {b : Nat} (a : Nat) (hb : 0 < b) : b * ceilDiv a b < a + b := by
  have h : b * ceilDiv a b ≤ a + b - 1 := Nat.mul_div_le (a + b - 1) b
  omega

theorem ceilDiv_mono {a a' : Nat} (b : Nat) (h : a ≤ a') : ceilDiv a b ≤ ceilDiv a' b :=
  Nat.div_le_div_right (by omega)

theorem ceilDiv_mul_cancel_left {b : Nat} (a : Nat) (hb : 0 < b) : ceilDiv (b * a) b = a :=
  smul_ceilDiv hb a

/-- R54: rounding up twice is rounding up once, so the two roundings of a large job lose nothing. -/
theorem ceilDiv_ceilDiv {b c : Nat} (a : Nat) (hb : 0 < b) (hc : 0 < c) :
    ceilDiv (ceilDiv a b) c = ceilDiv a (b * c) :=
  eq_of_forall_ge_iff fun d => by
    rw [ceilDiv_le_iff hc, ceilDiv_le_iff hb, ceilDiv_le_iff (Nat.mul_pos hb hc), Nat.mul_assoc]

/-! ### The base price (R52) -/

section
variable {n n' : Counts} {r r' : Row} {m : Media}

theorem basePrice_eq_zero_iff :
    basePrice n r = 0 ↔ (n.tm = 0 ∨ r.rm = 0) ∧ (n.tc = 0 ∨ r.rc = 0) ∧ (n.ts = 0 ∨ r.ps = 0) := by
  simp only [basePrice, Nat.add_eq_zero_iff, Nat.mul_eq_zero, and_assoc]

theorem basePrice_mono (hm : n.tm ≤ n'.tm) (hc : n.tc ≤ n'.tc) (hs : n.ts ≤ n'.ts)
    (hrm : r.rm ≤ r'.rm) (hrc : r.rc ≤ r'.rc) (hps : r.ps ≤ r'.ps) : basePrice n r ≤ basePrice n' r' :=
  Nat.add_le_add (Nat.add_le_add (Nat.mul_le_mul hm hrm) (Nat.mul_le_mul hc hrc)) (Nat.mul_le_mul hs hps)

theorem basePrice_le {total rate : Nat} (hm : n.tm ≤ total) (hc : n.tc ≤ total) (hs : n.ts ≤ total)
    (hrm : r.rm ≤ rate) (hrc : r.rc ≤ rate) (hps : r.ps ≤ rate) : basePrice n r ≤ 3 * (total * rate) := by
  have h : basePrice n r ≤ total * rate + total * rate + total * rate :=
    basePrice_mono (n' := ⟨total, total, total⟩) (r' := ⟨rate, rate, rate, r.l, r.jmin⟩) hm hc hs hrm hrc hps
  omega

/-! ### The scaled price (R53) -/

@[simp] theorem scaledPrice_standard : scaledPrice n .standard r = basePrice n r := rfl

@[simp] theorem scaledPrice_large : scaledPrice n .large r = ceilDiv (basePrice n r * r.l) 16 := rfl

/-- R53: the multiplier `16 * k` in sixteenths is the whole factor `k`. -/
theorem scaledPrice_large_of_whole {k : Nat} (h : r.l = 16 * k) : scaledPrice n .large r = k * basePrice n r := by
  rw [scaledPrice_large, h, Nat.mul_left_comm, ceilDiv_mul_cancel_left _ (by decide), Nat.mul_comm]

theorem scaledPrice_mono (hb : basePrice n r ≤ basePrice n' r') (hl : r.l ≤ r'.l) :
    scaledPrice n m r ≤ scaledPrice n' m r' := by
  cases m with
  | standard => exact hb
  | large => exact ceilDiv_mono 16 (Nat.mul_le_mul hb hl)

theorem scaledPrice_le (hl : r.l ≤ 64) : scaledPrice n m r ≤ 4 * basePrice n r := by
  cases m with
  | standard => rw [scaledPrice_standard]; omega
  | large =>
    have h : basePrice n r * r.l ≤ basePrice n r * 64 := Nat.mul_le_mul_left _ hl
    rw [scaledPrice_large, ceilDiv_le_iff (by decide)]
    omega

/-! ### The charge (R54) -/

theorem charge_of_no_faces (h : n.tm + n.tc = 0) : charge n m r = 0 := if_pos h

theorem charge_of_faces (h : 0 < n.tm + n.tc) :
    charge n m r = min Config.maxPoints (max (max (ceilDiv (scaledPrice n m r) 1000) r.jmin) 1) :=
  if_neg h.ne'

theorem charge_le_maxPoints : charge n m r ≤ Config.maxPoints := by
  rcases Nat.eq_zero_or_pos (n.tm + n.tc) with h | h
  · rw [charge_of_no_faces h]; exact Nat.zero_le _
  · rw [charge_of_faces h]; exact min_le_left _ _

/-- R54: the minimum charge and the least point hold of every job with faces, since neither passes the greatest charge. -/
theorem minimum_le_charge (h : 0 < n.tm + n.tc) (hj : r.jmin ≤ Config.maxPoints) :
    r.jmin ≤ charge n m r ∧ 1 ≤ charge n m r := by
  rw [charge_of_faces h]
  exact ⟨le_min hj (le_max_of_le_left (le_max_right _ _)), le_min (by decide) (le_max_right _ _)⟩

theorem charge_large_points : ceilDiv (scaledPrice n .large r) 1000 = ceilDiv (basePrice n r * r.l) 16000 :=
  ceilDiv_ceilDiv _ (by decide) (by decide)

theorem charge_mono (hm : n.tm ≤ n'.tm) (hc : n.tc ≤ n'.tc) (hs : n.ts ≤ n'.ts)
    (hrm : r.rm ≤ r'.rm) (hrc : r.rc ≤ r'.rc) (hps : r.ps ≤ r'.ps) (hl : r.l ≤ r'.l) (hj : r.jmin ≤ r'.jmin) :
    charge n m r ≤ charge n' m r' := by
  rcases Nat.eq_zero_or_pos (n.tm + n.tc) with h | h
  · rw [charge_of_no_faces h]; exact Nat.zero_le _
  · have hscaled : scaledPrice n m r ≤ scaledPrice n' m r' :=
      scaledPrice_mono (basePrice_mono hm hc hs hrm hrc hps) hl
    rw [charge_of_faces h, charge_of_faces (h.trans_le (Nat.add_le_add hm hc))]
    exact min_le_min_left _ (max_le_max_right _ (max_le_max (ceilDiv_mono 1000 hscaled) hj))

/-! ### The bounds of a row in range (R47, R54) -/

/-- R54: with totals at the ends of their 24-bit fields, no stage passes its bound. -/
theorem prices_le_of_fields (hm : n.tm ≤ 16777215) (hc : n.tc ≤ 16777215) (hs : n.ts ≤ 16777215)
    (hrm : r.rm ≤ 65535) (hrc : r.rc ≤ 65535) (hps : r.ps ≤ 65535) (hl : r.l ≤ 64) :
    basePrice n r ≤ 3298484355075 ∧ scaledPrice n m r ≤ 13193937420300 ∧ basePrice n r * r.l ≤ 211102998724800 := by
  have hbase : basePrice n r ≤ 3 * (16777215 * 65535) := basePrice_le hm hc hs hrm hrc hps
  have hscaled : scaledPrice n m r ≤ 4 * basePrice n r := scaledPrice_le hl
  have hproduct : basePrice n r * r.l ≤ 3 * (16777215 * 65535) * 64 := Nat.mul_le_mul hbase hl
  omega

/-- R54: stages 3 to 5 of a job with faces, and that a large job is rounded up as if once. -/
theorem charge_stages (h : 0 < n.tm + n.tc) (hj : r.jmin ≤ 255) :
    ∃ points, scaledPrice n m r ≤ 1000 * points ∧ 1000 * points < scaledPrice n m r + 1000 ∧
      charge n m r = min 16777215 (max (max points r.jmin) 1) ∧ r.jmin ≤ charge n m r ∧ 1 ≤ charge n m r ∧
      (m = .large → ∃ one, basePrice n r * r.l ≤ 16000 * one ∧ 16000 * one < basePrice n r * r.l + 16000 ∧
        points = one) := by
  obtain ⟨hjmin, hone⟩ := minimum_le_charge (m := m) h (hj.trans (by decide))
  refine ⟨ceilDiv (scaledPrice n m r) 1000, le_mul_ceilDiv _ (by decide), mul_ceilDiv_lt _ (by decide),
    charge_of_faces h, hjmin, hone, ?_⟩
  rintro rfl
  exact ⟨_, le_mul_ceilDiv _ (by decide), mul_ceilDiv_lt _ (by decide), charge_large_points⟩

/-- R54's example: the charge stays at the greatest one. -/
theorem charge_of_example (hn : n = { tm := 0, tc := 396000, ts := 396000 }) (hrc : r.rc = 65535) (hps : r.ps = 65535)
    (hl : r.l = 64) (hj : r.jmin ≤ 255) :
    basePrice n r = 51903720000 ∧ scaledPrice n .large r = 207614880000 ∧ charge n .large r = 16777215 := by
  have hbase : basePrice n r = 51903720000 := by simp [basePrice, hn, hrc, hps]
  have hscaled : scaledPrice n .large r = 207614880000 := by rw [scaledPrice_large_of_whole (k := 4) hl, hbase]
  obtain ⟨points, hle, -, hcharge, -⟩ := charge_stages (n := n) (m := .large) (by simp [hn]) hj
  exact ⟨hbase, hscaled, by omega⟩

end

/-! ### The rates of a pricing (R48, R55, R58) -/

theorem State.ratesAt_eq (s : State) (p k : Nat) :
    let band := (s.printer p).cfg.band
    let cls := (s.account k).cfg.cls
    s.ratesAt p k = { row := Tbl.get Row.factory s.tariff.active (4 * band + cls), band := band, cls := cls } := by
  simp only [State.ratesAt, rowIndex, Nat.mul_comm]

theorem Job.chargeOf_of_rates {j : Job} {q : StoredRates} (n : Counts) (h : j.rates = some q) :
    j.chargeOf n = charge n j.media q.row := by
  rw [Job.chargeOf, h]

/-- Settles O22, stage by stage; monotonicity from that of each stage. -/
theorem chargeInFiveStages : Obligations.ChargeInFiveStages := by
  refine ⟨fun n m r hrm hrc hps _ hl hj =>
      ⟨rfl, fun hm hc hs => ?base, basePrice_eq_zero_iff, scaledPrice_standard, ?large, fun h16 => ?unit,
        fun h64 => scaledPrice_large_of_whole (k := 4) h64,
        fun hm hc hs => prices_le_of_fields hm hc hs hrm hrc hps hl,
        charge_of_no_faces, fun h => charge_stages h hj, charge_le_maxPoints,
        fun hn hrc hps h64 => charge_of_example hn hrc hps h64 hj⟩,
    fun n n' m r r' => charge_mono,
    fun s p j n => ⟨s.ratesAt_eq p j.account, ?price, fun _ => Job.chargeOf_of_rates n⟩⟩
  case base => exact (basePrice_le hm hc hs hrm hrc hps).trans (by decide)
  case large => exact ⟨_, rfl, le_mul_ceilDiv _ (by decide), mul_ceilDiv_lt _ (by decide)⟩
  case unit => rw [scaledPrice_large_of_whole (k := 1) h16, Nat.one_mul]
  case price => rw [State.priceAt, State.ratesAt_eq]

end Sys2Proof.Machine

/-! PROOFS. Release at the printer (R65 to R67): which printer is eligible for a job and which is capable of it, who is in
the group of a printer, what the choice of a target comes to, and O24 from them. -/

namespace Sys2Proof.Machine

/-! ### Indexes of the listed records -/

section
variable {α : Type} {d : α} {t : Tbl α} {f : α → Bool}

/-- A read of a listed index gives the record listed there. -/
theorem Tbl.get_of_mem {i : Nat} {v : α} (hs : (t.map Prod.fst).Nodup) (h : (i, v) ∈ t) : Tbl.get d t i = v := by
  induction t with
  | nil => exact nomatch h
  | cons e t ih =>
    obtain ⟨hnew, hs⟩ := List.nodup_cons.1 hs
    rcases List.mem_cons.1 h with rfl | h
    · exact if_pos rfl
    · have hne : e.1 ≠ i := fun hk => hnew (hk ▸ List.mem_map_of_mem h)
      exact (if_neg hne).trans (ih hs h)

/-- A test that the factory record fails is passed at the indexes of the listed records that pass it. -/
theorem Tbl.mem_indexesWhere_iff (hs : (t.map Prod.fst).Nodup) (hd : f d = false) (i : Nat) :
    i ∈ t.indexesWhere f ↔ f (Tbl.get d t i) = true := by
  simp only [Tbl.indexesWhere, List.mem_map, List.mem_filter]
  constructor
  · rintro ⟨⟨i, v⟩, ⟨hmem, hv⟩, rfl⟩
    rwa [Tbl.get_of_mem hs hmem]
  · intro hi
    by_cases hl : ∃ v, (i, v) ∈ t
    · obtain ⟨v, hmem⟩ := hl
      rw [Tbl.get_of_mem hs hmem] at hi
      exact ⟨(i, v), ⟨hmem, hi⟩, rfl⟩
    · have hfree : ∀ e ∈ t, e.1 ≠ i := fun e he hk => hl ⟨e.2, hk ▸ he⟩
      simp [Tbl.get_of_not_listed hfree, hd] at hi

theorem Tbl.indexesWhere_rising (h : (t.map Prod.fst).Pairwise (· < ·)) : (t.indexesWhere f).Pairwise (· < ·) :=
  h.sublist (List.filter_sublist.map _)

end

/-! ### The configured printers and the group of one (R66) -/

section
variable {s : State} {p q : Nat} {j : Job}

theorem State.mem_configured_iff (h : s.TablesCanonical) : q ∈ s.configured ↔ (s.printer q).service ≠ .unused := by
  have hs : (s.printers.map Prod.fst).Nodup := Tbl.nodup_of_wf h.printers
  rw [State.configured, Tbl.mem_indexesWhere_iff hs (d := printerFactory) (by decide), decide_eq_true_iff]
  rfl

theorem State.configured_rising (h : s.TablesCanonical) : s.configured.Pairwise (· < ·) :=
  Tbl.indexesWhere_rising (Tbl.wf_iff.1 h.printers).1

theorem State.mem_groupOf_iff (h : s.TablesCanonical) :
    q ∈ s.groupOf p ↔ (s.printer q).service ≠ .unused ∧ (s.printer q).cfg.group = (s.printer p).cfg.group := by
  rw [State.groupOf, List.mem_filter, State.mem_configured_iff h, beq_iff_eq]

theorem State.groupOf_rising (h : s.TablesCanonical) : (s.groupOf p).Pairwise (· < ·) :=
  (State.configured_rising h).filter _

/-! ### Eligibility and capability (R65, R66) -/

theorem Health.well_iff {x : Health} : x.well = true ↔ x = .active ∨ x = .watch := by
  cases x <;> decide

theorem Standing.isEmpty_iff {x : Standing} : x.isEmpty = true ↔ x = Standing.none := by
  obtain ⟨jam, mediaOut, doorOpen, unreachable⟩ := x
  simp [Standing.isEmpty, Standing.none, and_assoc]

/-- A test made only of the jobs that need it. -/
theorem not_or_eq_true_iff {need ok : Bool} : (!need || ok) = true ↔ (need = true → ok = true) := by
  cases need <;> simp

theorem Job.colour_iff : j.colour = true ↔ 0 < j.declaredCounts.tc := decide_eq_true_iff

theorem PrinterOf.largeCapable_test_iff {e : Printer} :
    (j.media != .large || e.cfg.largeCapable) = true ↔ (j.media = .large → e.cfg.largeCapable = true) := by
  rw [bne, not_or_eq_true_iff, beq_iff_eq]

theorem PrinterOf.eligible_iff {e : Printer} :
    e.eligible j = true ↔
      e.service = .inService ∧ (e.health = .active ∨ e.health = .watch) ∧ e.standing = Standing.none ∧
      reportedEmpty e.k = false ∧
      (0 < j.declaredCounts.tc → e.cfg.colourCapable = true ∧ reportedEmpty e.c = false ∧
        reportedEmpty e.m = false ∧ reportedEmpty e.y = false) ∧
      (j.media = .large → e.cfg.largeCapable = true) ∧ e.queue.length < Config.queueJobs := by
  simp only [PrinterOf.eligible, PrinterOf.largeCapable_test_iff, not_or_eq_true_iff, Job.colour_iff, Health.well_iff,
    Standing.isEmpty_iff, Bool.and_eq_true, Bool.not_eq_true', beq_iff_eq, decide_eq_true_eq, and_assoc]

theorem PrinterOf.capable_iff {e : Printer} :
    e.capable j = true ↔
      (0 < j.declaredCounts.tc → e.cfg.colourCapable = true) ∧ (j.media = .large → e.cfg.largeCapable = true) := by
  rw [PrinterOf.capable, Bool.and_eq_true, not_or_eq_true_iff, Job.colour_iff, PrinterOf.largeCapable_test_iff]

/-! ### The partner and the target (R67) -/

/-- R67 step 2: the members of the group of a printer that may stand in for it. -/
def State.candidates (s : State) (p : Nat) (j : Job) : List Nat :=
  (s.groupOf p).filter (fun q => q ≠ p && (s.printer q).eligible j)

theorem State.mem_candidates_iff :
    q ∈ s.candidates p j ↔ q ∈ s.groupOf p ∧ q ≠ p ∧ (s.printer q).eligible j = true := by
  simp [State.candidates]

theorem State.candidates_rising (h : s.TablesCanonical) : (s.candidates p j).Pairwise (· < ·) :=
  (State.groupOf_rising h).filter _

/-- The choice among the candidates is the library's choice of the first of the least. -/
theorem State.partner_eq_argmin :
    s.partner p j = (s.candidates p j).argmin (fun q => (s.printer q).queue.length) := by
  have hstep : s.shorter = List.argAux (fun q b => (s.printer q).queue.length < (s.printer b).queue.length) := by
    funext best q
    cases best <;> rfl
  rw [State.partner, hstep]
  rfl

/-- In a rising list, what stands first is smaller. -/
theorem le_of_idxOf_le {l : List Nat} {a b : Nat} (h : l.Pairwise (· < ·)) (ha : a ∈ l) (hb : b ∈ l)
    (hle : l.idxOf a ≤ l.idxOf b) : a ≤ b := by
  rcases hle.lt_or_eq with hlt | heq
  · have hrise := List.pairwise_iff_getElem.1 h _ _ (List.idxOf_lt_length_of_mem ha) (List.idxOf_lt_length_of_mem hb) hlt
    rw [List.getElem_idxOf, List.getElem_idxOf] at hrise
    exact hrise.le
  · exact ((List.idxOf_inj ha).1 heq).le

/-- R67 step 2: the partner holds the fewest jobs of all the candidates, and is the lowest of those that hold as few. -/
theorem State.partner_least {t : Nat} (h : s.TablesCanonical) (ht : s.partner p j = some t) (hq : q ∈ s.candidates p j) :
    (s.printer t).queue.length < (s.printer q).queue.length ∨
      ((s.printer t).queue.length = (s.printer q).queue.length ∧ t ≤ q) := by
  rw [State.partner_eq_argmin, List.argmin_eq_some_iff] at ht
  obtain ⟨hmem, hleast, hfirst⟩ := ht
  rcases (hleast q hq).lt_or_eq with hlt | heq
  · exact .inl hlt
  · exact .inr ⟨heq, le_of_idxOf_le (State.candidates_rising h) hmem hq (hfirst q hq heq.ge)⟩

theorem State.partner_mem_candidates {t : Nat} (ht : s.partner p j = some t) : t ∈ s.candidates p j :=
  List.argmin_mem (State.partner_eq_argmin ▸ ht)

theorem State.target_of_eligible (h : (s.printer p).eligible j = true) : s.target p j = some p := if_pos h

theorem State.target_of_not_eligible (h : (s.printer p).eligible j = false) : s.target p j = s.partner p j :=
  if_neg (by simp [h])

/-- Where the asking printer is not eligible itself, every eligible printer of its group is a candidate. -/
theorem State.mem_candidates_iff_of_not_eligible (h : (s.printer p).eligible j = false) :
    q ∈ s.candidates p j ↔ q ∈ s.groupOf p ∧ (s.printer q).eligible j = true := by
  have hne : (s.printer q).eligible j = true → q ≠ p := fun he hqp => by simp [hqp, h] at he
  rw [State.mem_candidates_iff, and_iff_right_of_imp hne]

theorem State.target_eq_none_iff (h : (s.printer p).eligible j = false) :
    s.target p j = none ↔ ∀ q ∈ s.groupOf p, (s.printer q).eligible j = false := by
  rw [State.target_of_not_eligible h, State.partner_eq_argmin, List.argmin_eq_none, List.eq_nil_iff_forall_not_mem]
  simp only [State.mem_candidates_iff_of_not_eligible h, not_and, Bool.not_eq_true]

theorem State.skipReason_of_capable (hq : q ∈ s.groupOf p) (hc : (s.printer q).capable j = true) :
    s.skipReason p j = .skippedQueue :=
  if_pos (List.any_eq_true.2 ⟨q, hq, hc⟩)

theorem State.skipReason_of_none_capable (h : ∀ q ∈ s.groupOf p, ¬(s.printer q).capable j = true) :
    s.skipReason p j = .skippedCapability :=
  if_neg fun hany => let ⟨q, hq, hc⟩ := List.any_eq_true.1 hany; h q hq hc

end

/-- Settles O24: the target is the first of the least of the candidates, in a rising list. -/
theorem eligibilityAndTarget : Obligations.EligibilityAndTarget := by
  intro s p j h
  refine ⟨fun q => PrinterOf.eligible_iff, fun q => State.mem_groupOf_iff h, State.target_of_eligible,
    fun hp => ⟨State.target_eq_none_iff hp, fun t ht => ?target⟩,
    fun hused => (State.mem_groupOf_iff h).2 ⟨hused, rfl⟩, fun q => PrinterOf.capable_iff, ?mono, ?queue, ?capability⟩
  case target =>
    rw [State.target_of_not_eligible hp] at ht
    obtain ⟨hgroup, hne, he⟩ := State.mem_candidates_iff.1 (State.partner_mem_candidates ht)
    refine ⟨hne, hgroup, he, fun q hq heq => State.partner_least h ht ?_⟩
    exact (State.mem_candidates_iff_of_not_eligible hp).2 ⟨hq, heq⟩
  case mono =>
    intro hmono hstandard q
    exact ⟨fun hcolour => absurd hmono hcolour.ne', fun hlarge => nomatch hstandard.symm.trans hlarge⟩
  case queue =>
    rintro ⟨q, hq, hc⟩
    exact State.skipReason_of_capable hq (PrinterOf.capable_iff.2 hc)
  case capability =>
    exact fun hnone => State.skipReason_of_none_capable fun q hq hc => hnone q hq (PrinterOf.capable_iff.1 hc)

end Sys2Proof.Machine

/-! PROOFS. What every step keeps. A condition that every move keeps, and that the four commands of restart and power leave, is
kept by every step (`StepKept`, `step_keeps`): each of the statements about the part as a whole is such a condition. -/

namespace Sys2Proof.Machine

set_option Elab.async false

/-! ### A condition of every record of a table -/

section Tables

variable {α : Type} [DecidableEq α] {P : α → Prop} {d : α} {t : Tbl α}

theorem Tbl.forall_put (i : Nat) {v : α} (h : ∀ e ∈ t, P e.2) (hv : P v) : ∀ e ∈ t.put d i v, P e.2 := by
  intro e he
  unfold Tbl.put at he
  split at he
  · exact h e (List.mem_of_mem_filter he)
  · rcases Tbl.mem_insert he with rfl | he
    · exact hv
    · exact h e (List.mem_of_mem_filter he)

theorem Tbl.forall_mapAll {f : α → α} (h : ∀ e ∈ t, P (f e.2)) : ∀ e ∈ t.mapAll d f, P e.2 := by
  intro e he
  obtain ⟨x, hx, rfl⟩ := List.mem_map.1 (List.mem_of_mem_filter he)
  exact h x hx

theorem Tbl.forall_mapIdx {f : Nat → α → α} (h : ∀ e ∈ t, P (f e.1 e.2)) : ∀ e ∈ Tbl.mapIdx d f t, P e.2 := by
  intro e he
  obtain ⟨x, hx, rfl⟩ := List.mem_map.1 (List.mem_of_mem_filter he)
  exact h x hx

theorem Tbl.forall_foldl_put {β : Type} (key : β → Nat) (val : β → α) (hv : ∀ x, P (val x)) (l : List β)
    (h : ∀ e ∈ t, P e.2) : ∀ e ∈ l.foldl (fun t x => Tbl.put d t (key x) (val x)) t, P e.2 := by
  induction l generalizing t with
  | nil => exact h
  | cons x l ih => exact ih (Tbl.forall_put _ h (hv x))

theorem Tbl.forall_build (f : Nat → α) (hf : ∀ i, P (f i)) (is : List Nat) : ∀ e ∈ Tbl.build d f is, P e.2 :=
  Tbl.forall_foldl_put id f hf is (by simp)

end Tables

/-! ### The commands of restart and power -/

/-- The part with power, before its timers run. -/
def State.powered (s : State) : State := { s with phase := .up }

/-- R132, R151: closing the orphans replaces records and marks their slots. -/
theorem State.closeOrphans_moves (s : State) : Moves [.reorders, .callouts, .storeWriting] s s.closeOrphans := by
  have reorders (l : List Nat) (u : State) : Moves [.reorders] u (l.foldl (fun u i => u.setReorder i none) u) :=
    Moves.foldl _ (fun v i => Moves.one (.reorder v i none)) l u
  have callouts (l : List Nat) (u : State) : Moves [.callouts] u (l.foldl (fun u i => u.setCallout i none) u) :=
    Moves.foldl _ (fun v i => Moves.one (.callout v i none)) l u
  have reordersEq (l : List Nat) (u : State) : l.foldl (fun u i => u.setReorder i none) u =
      { u with reorders := l.foldl (fun t i => t.put none i none) u.reorders } := by
    induction l generalizing u with
    | nil => rfl
    | cons i l ih => exact ih _
  have calloutsEq (l : List Nat) (u : State) : l.foldl (fun u i => u.setCallout i none) u =
      { u with callouts := l.foldl (fun t i => t.put none i none) u.callouts } := by
    induction l generalizing u with
    | nil => rfl
    | cons i l ih => exact ih _
  have rising (l d : List Nat) (h : d.Pairwise (· < ·)) : (l.foldl (fun d n => insertSlot n d) d).Pairwise (· < ·) := by
    induction l generalizing d with
    | nil => exact h
    | cons n l ih => exact ih _ (insertSlot_rising n h)
  have first := reorders s.orphans.1 s
  rw [reordersEq] at first
  have second := callouts s.orphans.2 { s with reorders := s.orphans.1.foldl (fun t i => t.put none i none) s.reorders }
  rw [calloutsEq] at second
  exact ((first.mono).next second).next (Moves.one (.dirty _ _ (rising _ _)))

/-- R132, R168, R169: the start of the blocks replaces timers. -/
theorem State.startBlocks_moves (s : State) :
    Moves [.printers, .callouts, .checkpointTimer, .sticky] s.powered s.startBlocks :=
  have started (e : Printer) : e.started.score = e.score ∧ e.started.health = e.health ∧ e.started.queue = e.queue := by
    unfold PrinterOf.started; split <;> exact ⟨rfl, rfl, rfl⟩
  (((Moves.one (.printersAll s.powered PrinterOf.started
      (fun e he => ⟨(started e).1 ▸ he.score, (started e).2.1 ▸ (started e).1 ▸ he.band⟩) (fun e => (started e).2.2))).mono.next
    (.one (.calloutsAll _ fun c => c.map (Callout.started s.settings.renotify)))).next
    (.one (.checkpointTimer _ (.running s.settings.checkpoint)))).next
    (.one (.sticky _ (decide (0 < s.store.reset.conservative)) s.console.noticeOverflow s.console.strayStation))

/-- R169 to R171: the start-up of a part with power is moves. -/
theorem State.startUp_moves (s : State) : Moves ordinaryPieces s.powered s.startUp :=
  have orphans : Moves [.reorders, .callouts, .storeWriting] s.powered s.closeOrphans.powered := s.powered.closeOrphans_moves
  (((orphans.ordinary.next s.closeOrphans.startBlocks_moves).next (State.fillQueue_moves _)).next (State.notify_moves _ _))

/-- R173: after the work is discarded, the completion of a warm restart is moves. -/
theorem State.completeRestart_moves (s : State) : Moves ordinaryPieces s.discardWork s.completeRestart :=
  ((State.notify_moves _ _).ordinary).next (State.markAll_moves _ _)

/-! ### What every step keeps -/

/-- What keeps a condition at every step: it does not depend on the commands that wait or on the phase, each move keeps it, and so
do the discarding of the work, the loss of power and the reading of the slots. -/
structure StepKept (P : State → Prop) : Prop where
  pending : ∀ s q, P s → P (s.withPending q)
  powered : ∀ s, P s → P s.powered
  move : ∀ l s t, Move l s t → P s → P t
  discard : ∀ s, P s → P s.discardWork
  unpowered : ∀ s, P s → P s.unpowered
  restored : ∀ s c, P s → P (s.restored c)

section

variable {P : State → Prop} (k : StepKept P)
include k

theorem Moves.kept {l : List Piece} {s t : State} (h : Moves l s t) (hs : P s) : P t := by
  induction h with
  | refl => exact hs
  | tail _ x _ ih => exact k.move _ _ _ x ih

theorem whenUp_kept {f : State → State} {s t : State} (hf : P s → P (f s)) (h : s.whenUp f = .next t) (hs : P s) : P t := by
  unfold State.whenUp at h
  split at h
  · cases h
    exact (State.finish_moves _).kept k (hf hs)
  · cases h; exact hs

theorem exec_keeps {c : Instr} {s t : State} (h : exec c s = .next t) (hs : P s) : P t := by
  by_cases hc : Instr.isVital c = false
  · exact (exec_moves hc h).kept k hs
  · have lost : P (if s.phase = .off then s else s.unpowered) := by
      split
      · exact hs
      · exact k.unpowered s hs
    cases c
    case restartComplete =>
      refine whenUp_kept k (fun hs => ?_) h hs
      split
      · exact (State.completeRestart_moves s).kept k (k.discard s hs)
      · exact hs
    case powerLoss => cases h; exact lost
    case coldStart => cases h; exact k.restored _ _ lost
    case startUpComplete =>
      cases h
      split
      · exact ((State.startUp_moves s).next (State.finish_moves _)).kept k (k.powered s hs)
      · exact hs
    all_goals exact absurd rfl hc

theorem step_keeps {s t : State} (h : step s = .next t) (hs : P s) : P t := by
  unfold step at h
  split at h
  · cases h; exact hs
  · exact exec_keeps k h (k.pending _ _ hs)

end

end Sys2Proof.Machine

/-! PROOFS. R35 and R116 at every step: each move keeps the overdrawn flags and the healths, and so do restart, loss of power and
cold start. -/

namespace Sys2Proof.Machine

set_option Elab.async false

/-! ### Accounts -/

theorem Account.factory_sound : Account.factory.Sound := ⟨rfl, by decide⟩

theorem State.account_sound {s : State} (h : s.AccountsSound) (k : Nat) : (s.account k).Sound :=
  Tbl.get_of_forall Account.factory_sound h k

theorem Move.keeps_accounts {l : List Piece} {s t : State} (x : Move l s t) (h : s.AccountsSound) : t.AccountsSound := by
  cases x
  case account k a ha => exact Tbl.forall_put k h (ha (s.account_sound h k))
  case accountsAll f hf => exact Tbl.forall_mapAll fun e he => hf _ (h e he)
  case extend j n _ _ _ _ =>
    obtain ⟨f, m, r, e⟩ := s.extendJob_eq j n
    rw [e]; exact h
  all_goals exact h

/-- R45: a restored account has the overdrawn flag of its spent and budget. -/
theorem Store.account_sound (st : Store) (k : Nat) : (st.account k).Sound := by
  unfold Store.account
  split
  · exact Account.factory_sound
  · dsimp only
    split <;> exact ⟨rfl, Nat.zero_le _⟩

theorem resolveAccount_sound {t : Tbl Account} {k : Nat} {a : Account} (h : a.Sound) : (resolveAccount t k a).Sound :=
  ⟨h.overdrawn, h.reserved⟩

theorem accounts_kept : StepKept State.AccountsSound where
  pending _ _ h := h
  powered _ h := h
  move _ _ _ x h := x.keeps_accounts h
  discard s h := Tbl.forall_mapAll fun e he => ⟨(h e he).overdrawn, Nat.zero_le _⟩
  unpowered s h := by simp [State.AccountsSound, State.unpowered, State.bare, State.reset]
  restored s c h := Tbl.forall_mapIdx fun e he =>
    resolveAccount_sound (Tbl.forall_build (P := Account.Sound) _ s.store.account_sound _ e he)

/-- Settles O5, since every move keeps the flags. -/
theorem overdrawnFollowsSpent : Obligations.OverdrawnFollowsSpent := fun _ _ hs h => step_keeps accounts_kept h hs

/-! ### Printers -/

theorem printerFactory_healthSound : PrinterOf.HealthSound printerFactory := ⟨by decide, fun _ => rfl⟩

theorem State.printer_healthSound {s : State} (h : s.HealthFollowsScore) (p : Nat) : (s.printer p).HealthSound :=
  Tbl.get_of_forall (P := PrinterOf.HealthSound) printerFactory_healthSound h p

theorem Move.keeps_health {l : List Piece} {s t : State} (x : Move l s t) (h : s.HealthFollowsScore) :
    t.HealthFollowsScore := by
  cases x
  case printer p e he _ => exact Tbl.forall_put p h (he (s.printer_healthSound h p))
  case printersAll f hf _ => exact Tbl.forall_mapAll fun e he => hf _ (h e he)
  case extend j n _ _ _ _ =>
    obtain ⟨f, m, r, e⟩ := s.extendJob_eq j n
    rw [e]; exact h
  all_goals exact h

/-- R132: a restored printer is Withdrawn with score 640, or Active with score 0. -/
theorem Store.printer_healthSound (st : Store) (p : Nat) : (st.printer p).HealthSound := by
  unfold Store.printer
  split
  · split
    · exact ⟨Nat.zero_le _, fun _ => rfl⟩
    · cases (st.health p).1
      · exact ⟨Nat.zero_le _, fun _ => rfl⟩
      · exact ⟨(by decide : 640 ≤ 1023), fun h => absurd rfl h⟩
  · exact printerFactory_healthSound

theorem resolvePrinter_healthSound {t : Tbl Printer} {p : Nat} {e : Printer} (h : e.HealthSound) :
    (resolvePrinter t p e).HealthSound := by
  unfold resolvePrinter
  split
  · exact printerFactory_healthSound
  · exact h

theorem health_kept : StepKept State.HealthFollowsScore where
  pending _ _ h := h
  powered _ h := h
  move _ _ _ x h := x.keeps_health h
  discard s h := Tbl.forall_mapAll fun e he => ⟨(h e he).score, (h e he).band⟩
  unpowered s h := by simp [State.HealthFollowsScore, State.unpowered, State.bare, State.reset]
  restored s c h := Tbl.forall_mapIdx fun e he =>
    resolvePrinter_healthSound (Tbl.forall_build (P := PrinterOf.HealthSound) _ s.store.printer_healthSound _ e he)

/-- Settles O6, since every move keeps the healths. -/
theorem healthFollowsScoreKept : Obligations.HealthFollowsScoreKept := fun _ _ hs h => step_keeps health_kept h hs

end Sys2Proof.Machine

/-! PROOFS. Bounds of queues and counters, and canonical forms, at every step; and what becomes of a JOB_STATUS (R185). -/

namespace Sys2Proof.Machine

set_option Elab.async false

/-! ### Queues -/

/-- R166, R180, R184, R185: every bounded queue, the Pass-through Queues among them. -/
def State.WithinBounds (s : State) : Prop := s.QueuesBounded ∧ s.PassBounded

theorem State.queue_le {s : State} (h : ∀ e ∈ s.printers, e.2.queue.length ≤ 8) (p : Nat) :
    (s.printer p).queue.length ≤ 8 :=
  Tbl.get_of_forall (P := fun e : Printer => e.queue.length ≤ 8) (Nat.zero_le _) h p

/-- R184: a message is placed only while there is room. -/
theorem PortState.place_le {q : PortState} (m : OwnMsg) (h : q.room = true) : (q.place m).own.length ≤ 32 := by
  have room : q.own.length < 32 := of_decide_eq_true h
  simpa [PortState.place] using room

theorem Move.keeps_bounds {l : List Piece} {s t : State} (x : Move l s t) (h : s.WithinBounds) : t.WithinBounds := by
  obtain ⟨⟨office, fleet, notices, writes, once, delivery, kept, outgoing⟩, ⟨passO, passF⟩⟩ := h
  cases x
  case printer p e _ hq =>
    exact ⟨⟨office, fleet, notices, writes, once,
      Tbl.forall_put (P := fun e : Printer => e.queue.length ≤ 8) p delivery (hq (State.queue_le delivery p)), kept,
      outgoing⟩, ⟨passO, passF⟩⟩
  case printersAll f _ hq =>
    exact ⟨⟨office, fleet, notices, writes, once,
      Tbl.forall_mapAll (P := fun e : Printer => e.queue.length ≤ 8) fun e he => (hq e.2).symm ▸ delivery e he, kept,
      outgoing⟩, ⟨passO, passF⟩⟩
  case extend j n _ _ _ _ =>
    obtain ⟨f, m, r, e⟩ := s.extendJob_eq j n
    rw [e]; exact ⟨⟨office, fleet, notices, writes, once, delivery, kept, outgoing⟩, ⟨passO, passF⟩⟩
  case outgoing l hl => exact ⟨⟨office, fleet, notices, writes, once, delivery, kept, hl outgoing⟩, ⟨passO, passF⟩⟩
  case clock c _ _ hk => exact ⟨⟨office, fleet, notices, writes, once, delivery, hk kept, outgoing⟩, ⟨passO, passF⟩⟩
  case queue q hl hn => exact ⟨⟨office, fleet, notices, hl writes, hn once, delivery, kept, outgoing⟩, ⟨passO, passF⟩⟩
  case notices l hl => exact ⟨⟨office, fleet, hl notices, writes, once, delivery, kept, outgoing⟩, ⟨passO, passF⟩⟩
  case officeOwn m hr =>
    exact ⟨⟨PortState.place_le m hr, fleet, notices, writes, once, delivery, kept, outgoing⟩, ⟨passO, passF⟩⟩
  case fleetOwn m hr =>
    exact ⟨⟨office, PortState.place_le m hr, notices, writes, once, delivery, kept, outgoing⟩, ⟨passO, passF⟩⟩
  case officePort q ho hp _ =>
    exact ⟨⟨ho office, fleet, notices, writes, once, delivery, kept, outgoing⟩, ⟨hp passO, passF⟩⟩
  case fleetPort q ho hp _ =>
    exact ⟨⟨office, ho fleet, notices, writes, once, delivery, kept, outgoing⟩, ⟨passO, hp passF⟩⟩
  all_goals exact ⟨⟨office, fleet, notices, writes, once, delivery, kept, outgoing⟩, ⟨passO, passF⟩⟩

/-- A printer restored from its slots has an empty Delivery Queue. -/
theorem Store.printer_queue (st : Store) (p : Nat) : (st.printer p).queue = [] := by
  unfold Store.printer
  split
  · split <;> rfl
  · rfl

theorem resolvePrinter_queue {t : Tbl Printer} {p : Nat} {e : Printer} (h : e.queue = []) :
    (resolvePrinter t p e).queue = [] := by
  unfold resolvePrinter
  split
  · rfl
  · exact h

theorem State.unpowered_bounds (s : State) : s.unpowered.WithinBounds :=
  ⟨⟨Nat.zero_le _, Nat.zero_le _, Nat.zero_le _, Nat.zero_le _, List.nodup_nil, fun _ h => absurd h List.not_mem_nil,
    Nat.zero_le _, Nat.zero_le _⟩, ⟨Nat.zero_le _, Nat.zero_le _⟩⟩

/-- R169: after the reading of the slots no Delivery Queue holds a job. -/
theorem State.restored_queues (s : State) (c : ResetCause) : ∀ e ∈ (s.restored c).printers, e.2.queue = [] :=
  Tbl.forall_mapIdx (P := fun e : Printer => e.queue = []) fun e he => resolvePrinter_queue
    (Tbl.forall_build (P := fun e : Printer => e.queue = []) _ s.store.printer_queue _ e he)

theorem bounds_kept : StepKept State.WithinBounds where
  pending _ _ h := ⟨⟨h.1.1, h.1.2, h.1.3, h.1.4, h.1.5, h.1.6, h.1.7, h.1.8⟩, ⟨h.2.1, h.2.2⟩⟩
  powered _ h := ⟨⟨h.1.1, h.1.2, h.1.3, h.1.4, h.1.5, h.1.6, h.1.7, h.1.8⟩, ⟨h.2.1, h.2.2⟩⟩
  move _ _ _ x h := x.keeps_bounds h
  discard _ h := ⟨⟨Nat.zero_le _, Nat.zero_le _, Nat.zero_le _, h.1.4, h.1.5,
    Tbl.forall_mapAll (P := fun e : Printer => e.queue.length ≤ 8) fun _ _ => Nat.zero_le _, Nat.zero_le _, Nat.zero_le _⟩,
    ⟨Nat.zero_le _, Nat.zero_le _⟩⟩
  unpowered s _ := s.unpowered_bounds
  restored s c _ := ⟨⟨Nat.zero_le _, Nat.zero_le _, Nat.zero_le _, Nat.zero_le _, List.nodup_nil,
    fun e he => (s.restored_queues c e he).symm ▸ Nat.zero_le _, Nat.zero_le _, Nat.zero_le _⟩,
    ⟨Nat.zero_le _, Nat.zero_le _⟩⟩

/-! ### Canonical forms -/

/-- Spool memory, the tables and the slots in their canonical forms. -/
def State.Canonical (s : State) : Prop := s.SpoolCanonical ∧ s.TablesCanonical

/-- No move takes a table or the slots out of their canonical forms. -/
theorem Move.keeps_tables {l : List Piece} {s t : State} (x : Move l s t) (h : s.TablesCanonical) : t.TablesCanonical := by
  obtain ⟨classifier, accounts, active, waiting, printers, callouts, reorders, slots⟩ := h
  cases x
  case account k a _ => exact ⟨classifier, Tbl.wf_put k a accounts, active, waiting, printers, callouts, reorders, slots⟩
  case accountsAll f _ => exact ⟨classifier, Tbl.wf_mapAll f accounts, active, waiting, printers, callouts, reorders, slots⟩
  case printer p e _ _ => exact ⟨classifier, accounts, active, waiting, Tbl.wf_put p e printers, callouts, reorders, slots⟩
  case printersAll f _ _ => exact ⟨classifier, accounts, active, waiting, Tbl.wf_mapAll f printers, callouts, reorders, slots⟩
  case callout i c => exact ⟨classifier, accounts, active, waiting, printers, Tbl.wf_put i c callouts, reorders, slots⟩
  case calloutsAll f => exact ⟨classifier, accounts, active, waiting, printers, Tbl.wf_mapAll f callouts, reorders, slots⟩
  case reorder i r => exact ⟨classifier, accounts, active, waiting, printers, callouts, Tbl.wf_put i r reorders, slots⟩
  case extend j n _ _ _ _ =>
    obtain ⟨f, m, r, e⟩ := s.extendJob_eq j n
    rw [e]; exact ⟨classifier, accounts, active, waiting, printers, callouts, reorders, slots⟩
  case classifier i e => exact ⟨Tbl.wf_put i e classifier, accounts, active, waiting, printers, callouts, reorders, slots⟩
  case tariff x hx => exact ⟨classifier, accounts, (hx active waiting).1, (hx active waiting).2, printers, callouts, reorders, slots⟩
  case slots x hx => exact ⟨classifier, accounts, active, waiting, printers, callouts, reorders, hx slots⟩
  all_goals exact ⟨classifier, accounts, active, waiting, printers, callouts, reorders, slots⟩

theorem Move.keeps_spool {l : List Piece} {s t : State} (x : Move l s t) (h : s.SpoolCanonical) : t.SpoolCanonical := by
  cases x
  case extend j n _ _ _ _ =>
    obtain ⟨f, m, r, e⟩ := s.extendJob_eq j n
    rw [e]; exact h
  case spoolBytes m hm => exact hm h
  all_goals exact h

theorem Move.keeps_canonical {l : List Piece} {s t : State} (x : Move l s t) (h : s.Canonical) : t.Canonical :=
  ⟨x.keeps_spool h.1, x.keeps_tables h.2⟩

/-- R167: the loss of power keeps the canonical form of the slots. -/
theorem Store.torn_canonical {st : Store} (h : st.SlotsCanonical) : st.torn.SlotsCanonical := by
  unfold Store.torn
  split
  · exact h
  · exact h.setSlot _ _

theorem canonical_kept : StepKept State.Canonical where
  pending _ _ h := ⟨h.1, ⟨h.2.1, h.2.2, h.2.3, h.2.4, h.2.5, h.2.6, h.2.7, h.2.8⟩⟩
  powered _ h := ⟨h.1, ⟨h.2.1, h.2.2, h.2.3, h.2.4, h.2.5, h.2.6, h.2.7, h.2.8⟩⟩
  move _ _ _ x h := x.keeps_canonical h
  discard _ h := ⟨h.1, ⟨h.2.1, Tbl.wf_mapAll _ h.2.2, h.2.3, h.2.4, Tbl.wf_mapAll _ h.2.5, h.2.6, h.2.7, h.2.8⟩⟩
  unpowered _ h := ⟨rfl, ⟨rfl, rfl, rfl, rfl, rfl, rfl, rfl, Store.torn_canonical h.2.slots⟩⟩
  restored _ _ h := ⟨rfl, ⟨Tbl.wf_build .., Tbl.wf_mapIdx _ (Tbl.wf_build ..), Tbl.wf_build .., Tbl.wf_build ..,
    Tbl.wf_mapIdx _ (Tbl.wf_build ..), Tbl.wf_build .., Tbl.wf_build .., h.2.slots⟩⟩

/-! ### Counters -/

theorem Move.keeps_counters {l : List Piece} {s t : State} (x : Move l s t) (h : s.CountersInRange) : t.CountersInRange := by
  obtain ⟨uptime, holdSeq, lastTag, contexts, ⟨office, fleet, printer⟩⟩ := h
  cases x
  case extend j n _ _ _ _ =>
    obtain ⟨f, m, r, e⟩ := s.extendJob_eq j n
    rw [e]; exact ⟨uptime, holdSeq, lastTag, contexts, ⟨office, fleet, printer⟩⟩
  case record j _ hr _ _ _ => exact ⟨uptime, holdSeq, hr, contexts, ⟨office, fleet, printer⟩⟩
  case holdSequence n hn => exact ⟨uptime, hn holdSeq, lastTag, contexts, ⟨office, fleet, printer⟩⟩
  case contexts c hc => exact ⟨uptime, holdSeq, lastTag, hc.trans contexts, ⟨office, fleet, printer⟩⟩
  case printerTurn p hp => exact ⟨uptime, holdSeq, lastTag, contexts, ⟨office, fleet, hp⟩⟩
  case clock c hu _ _ => exact ⟨hu uptime, holdSeq, lastTag, contexts, ⟨office, fleet, printer⟩⟩
  case officePort q _ _ ht => exact ⟨uptime, holdSeq, lastTag, contexts, ⟨ht office, fleet, printer⟩⟩
  case fleetPort q _ _ ht => exact ⟨uptime, holdSeq, lastTag, contexts, ⟨office, ht fleet, printer⟩⟩
  all_goals exact ⟨uptime, holdSeq, lastTag, contexts, ⟨office, fleet, printer⟩⟩

/-- R185: the turns begin at the first of the producers. -/
theorem turns_atReset : 2 ≤ 2 ∧ 1 ≤ 1 ∧ 63 ≤ 63 := by decide

/-- R22: the first tag issued is 1. -/
theorem lastTag_atReset : 1 ≤ 65535 ∧ 65535 ≤ 65535 := by decide

theorem counters_kept : StepKept State.CountersInRange where
  pending _ _ h := ⟨h.1, h.2, h.3, h.4, h.5⟩
  powered _ h := ⟨h.1, h.2, h.3, h.4, h.5⟩
  move _ _ _ x h := x.keeps_counters h
  discard _ h := ⟨h.1, Nat.zero_le _, h.3, List.length_replicate .., turns_atReset⟩
  unpowered _ _ := ⟨Nat.zero_le _, Nat.zero_le _, lastTag_atReset, List.length_replicate .., turns_atReset⟩
  restored _ _ _ := ⟨Nat.zero_le _, Nat.zero_le _, lastTag_atReset, List.length_replicate .., turns_atReset⟩

/-! ### The outgoing list -/

/-- R185: a JOB_STATUS formed while the outgoing list holds 4,096 is discarded. -/
theorem State.jobStatus_discarded {s : State} (h : 4096 ≤ s.jobs.outgoing.length) (j : Job) (e : JobEvent) (p : Option Nat)
    (why : Option EndReason) (charged : Option Nat) : s.jobStatus j e p why charged = s := by
  unfold State.jobStatus
  rw [if_neg (by simp only [Config.outgoingMax]; omega)]

/-- Settles O4: each move keeps the bounds, the canonical forms and the ranges. -/
theorem queuesTablesAndCountersKept : Obligations.QueuesTablesAndCountersKept :=
  ⟨fun _ _ hq hp h => step_keeps bounds_kept h ⟨hq, hp⟩,
    fun _ _ hs ht h => step_keeps canonical_kept h ⟨hs, ht⟩,
    fun _ _ hs h => step_keeps counters_kept h hs,
    fun s j e p why charged => ⟨fun h => State.jobStatus_discarded h j e p why charged, fun h =>
      ⟨s.jobMessages_jobStatus j e p why charged h, (s.outgoing_jobStatus_le j e p why charged).trans h,
        (s.jobStatus_moves j e p why charged).changesOnly⟩⟩⟩

end Sys2Proof.Machine

/-! PROOFS. The spool at every step (R2, R9, R12, R13, R15): tags stay distinct, every segment accounted for, and every promise
covered. -/

namespace Sys2Proof.Machine

set_option Elab.async false

/-! ### One record of the Job Table among the others -/

/-- The tags of the Job Table are distinct (R2). -/
abbrev State.TagsOnce (s : State) : Prop := (s.jobs.recs.map Job.tag).Nodup

/-- Of distinct tags, the record that a tag names stands between records of other tags. -/
theorem State.recs_split {s : State} (hn : s.TagsOnce) {g : Nat} {j : Job} (h : s.job g = some j) :
    ∃ a b, s.jobs.recs = a ++ j :: b ∧ ∀ x ∈ a ++ b, x.tag ≠ g := by
  obtain ⟨a, b, hab⟩ := List.append_of_mem (s.mem_of_job h)
  refine ⟨a, b, hab, fun x hx hxg => ?_⟩
  have distinct : ((j :: (a ++ b)).map Job.tag).Nodup := by
    refine List.Perm.nodup_iff (List.Perm.map _ ?_) |>.1 hn
    rw [hab]; exact List.perm_middle
  have hj := s.tag_of_job h
  exact (List.nodup_cons.1 distinct).1 (List.mem_map.2 ⟨x, hx, by rw [hxg, hj]⟩)

/-- Changing a record changes it alone. -/
theorem State.updJob_split {s : State} {g : Nat} {j : Job} {a b : List Job} (h : s.jobs.recs = a ++ j :: b)
    (hj : j.tag = g) (hab : ∀ x ∈ a ++ b, x.tag ≠ g) (f : Job → Job) : (s.updJob g f).jobs.recs = a ++ f j :: b := by
  have same (l : List Job) (hl : ∀ x ∈ l, x.tag ≠ g) : l.map (fun j => if j.tag = g then f j else j) = l :=
    (List.map_congr_left fun x hx => if_neg (hl x hx)).trans (List.map_id _)
  simp only [State.updJob, h, List.map_append, List.map_cons, if_pos hj]
  rw [same a fun x hx => hab x (by simp [hx]), same b fun x hx => hab x (by simp [hx])]

/-- A record that leaves the Job Table leaves the others. -/
theorem State.dropJob_split {s : State} {g : Nat} {j : Job} {a b : List Job} (h : s.jobs.recs = a ++ j :: b)
    (hj : j.tag = g) (hab : ∀ x ∈ a ++ b, x.tag ≠ g) : (s.dropJob g).jobs.recs = a ++ b := by
  have same (l : List Job) (hl : ∀ x ∈ l, x.tag ≠ g) : l.filter (fun j => decide (j.tag ≠ g)) = l :=
    List.filter_eq_self.2 fun x hx => decide_eq_true (hl x hx)
  simp only [State.dropJob, h, List.filter_append, List.filter_cons, hj, ne_eq, not_true_eq_false, decide_false,
    Bool.false_eq_true, if_false]
  rw [same a fun x hx => hab x (by simp [hx]), same b fun x hx => hab x (by simp [hx])]

/-- A change that keeps tags leaves the list of tags. -/
theorem State.tags_updJob (s : State) (g : Nat) {f : Job → Job} (hf : ∀ j, (f j).tag = j.tag) :
    (s.updJob g f).jobs.recs.map Job.tag = s.jobs.recs.map Job.tag := by
  simp only [State.updJob, List.map_map]
  refine List.map_congr_left fun j _ => ?_
  simp only [Function.comp]
  split
  · exact hf j
  · rfl

theorem State.tags_takeSegment (s : State) (g : Nat) :
    (s.takeSegment g).jobs.recs.map Job.tag = s.jobs.recs.map Job.tag := by
  unfold State.takeSegment
  split
  · rfl
  · exact State.tags_updJob _ g (f := fun j => { j with chain := j.chain ++ [_], promise := j.promise - 1 }) fun _ => rfl

theorem State.tags_extendJob (s : State) (j : Job) (n : Nat) :
    (s.extendJob j n).jobs.recs.map Job.tag = s.jobs.recs.map Job.tag := by
  unfold State.extendJob
  refine (State.tags_updJob _ _ (f := fun x => { x with received := x.received + n }) fun _ => rfl).trans ?_
  split
  · exact s.tags_takeSegment _
  · rfl

theorem State.tag_fresh {s : State} {g : Nat} (h : s.job g = none) : ∀ j ∈ s.jobs.recs, j.tag ≠ g := fun j hj => by
  simpa using List.find?_eq_none.1 h j hj

/-- A record of a fresh tag leaves the tags distinct. -/
theorem State.TagsOnce.append {s : State} (hn : s.TagsOnce) {j : Job} (h : s.job j.tag = none) :
    ((s.jobs.recs ++ [j]).map Job.tag).Nodup := by
  simpa [List.nodup_append, hn] using State.tag_fresh h

/-! ### Tags (R2) -/

theorem tags_range_iff {l : List Job} :
    (∀ j ∈ l, 1 ≤ j.tag ∧ j.tag ≤ 65535) ↔ ∀ g ∈ l.map Job.tag, 1 ≤ g ∧ g ≤ 65535 := by simp

/-- The condition on the Job Table is one on its list of tags. -/
theorem State.TagsDistinct.of_tags {s t : State} (h : s.TagsDistinct)
    (ht : t.jobs.recs.map Job.tag = s.jobs.recs.map Job.tag) : t.TagsDistinct :=
  ⟨ht ▸ h.once, tags_range_iff.2 (ht ▸ tags_range_iff.1 h.range), by
    have := congrArg List.length ht
    simp only [List.length_map] at this
    exact this ▸ h.records⟩

theorem State.TagsDistinct.of_sublist {s t : State} (h : s.TagsDistinct) (ht : t.jobs.recs.Sublist s.jobs.recs) :
    t.TagsDistinct :=
  ⟨h.once.sublist (ht.map _), fun j hj => h.range j (ht.subset hj), ht.length_le.trans h.records⟩

theorem Move.keeps_tags {l : List Piece} {s t : State} (x : Move l s t) (h : s.TagsDistinct) : t.TagsDistinct := by
  cases x
  case job g f hf => exact h.of_tags (s.tags_updJob g fun j => (hf j).1.tag)
  case extend j n _ _ _ _ => exact h.of_tags (s.tags_extendJob j n)
  case keep j f hf _ =>
    exact h.of_tags (State.tags_updJob _ _ fun x => (hf x).1.tag)
  case drop j _ => exact h.of_sublist List.filter_sublist
  case record j _ hr hf hn _ =>
    exact ⟨State.TagsOnce.append h.once hf,
      fun x hx => by
        rcases List.mem_append.1 hx with hx | hx
        · exact h.range x hx
        · exact (List.mem_singleton.1 hx) ▸ hr,
      by simpa using hn⟩
  all_goals exact ⟨h.once, h.range, h.records⟩

theorem State.tagsDistinct_empty {s : State} (h : s.jobs.recs = []) : s.TagsDistinct :=
  ⟨by simp [h], by simp [h], by simp [h]⟩

theorem tags_kept : StepKept State.TagsDistinct where
  pending _ _ h := ⟨h.once, h.range, h.records⟩
  powered _ h := ⟨h.once, h.range, h.records⟩
  move _ _ _ x h := x.keeps_tags h
  discard _ _ := State.tagsDistinct_empty rfl
  unpowered _ _ := State.tagsDistinct_empty rfl
  restored _ _ _ := State.tagsDistinct_empty rfl

/-! ### Segments (R13, R15) -/

theorem freeList_fresh : ([⟨0, Config.segments⟩] : List Run).flatMap (fun r => List.range' r.start r.len) = List.range 65536 := by
  rw [List.flatMap_singleton, List.range_eq_range']; rfl

theorem State.segmentsAccounted_fresh {s : State} (hr : s.jobs.recs = []) (hf : s.spool.free = [⟨0, Config.segments⟩]) :
    s.SegmentsAccounted :=
  ⟨by simp [hr], by rw [hr, Spool.freeList, hf, freeList_fresh, List.flatMap_nil, List.append_nil]⟩

/-- R13: what taking the head segment does: none, when the list is empty, and else the head goes to the tail of the job's
chain. -/
theorem State.takeSegment_cases (s : State) (g : Nat) :
    (s.spool.freeList = [] ∧ s.takeSegment g = s) ∨
    ∃ n, s.spool.freeList = n :: (s.takeSegment g).spool.freeList ∧
      (s.takeSegment g).spool.promises = s.spool.promises - 1 ∧
      (s.takeSegment g).jobs.recs =
        (s.updJob g fun j => { j with chain := j.chain ++ [n], promise := j.promise - 1 }).jobs.recs := by
  unfold State.takeSegment
  split
  next h => exact .inl ⟨takeHead_none h, rfl⟩
  next n rest h => exact .inr ⟨n, takeHead_some h, rfl, rfl⟩

/-- The segments of the records as one list, with those of one record apart. -/
theorem chains_split (a b : List Job) (j : Job) : ((a ++ j :: b).flatMap Job.chain).Perm (j.chain ++ (a ++ b).flatMap Job.chain) :=
  (List.perm_middle (a := j) (l₁ := a) (l₂ := b)).flatMap_right Job.chain

theorem State.SegmentsAccounted.of_chain {s t : State} (h : s.SegmentsAccounted)
    (ht : t.jobs.recs.map Job.tag = s.jobs.recs.map Job.tag) (hf : t.spool.freeList = s.spool.freeList)
    (hc : t.jobs.recs.flatMap Job.chain = s.jobs.recs.flatMap Job.chain) : t.SegmentsAccounted :=
  ⟨ht ▸ h.tags, by rw [hf, hc]; exact h.segments⟩

theorem State.chains_updJob (s : State) (g : Nat) {f : Job → Job} (hf : ∀ j, (f j).chain = j.chain) :
    (s.updJob g f).jobs.recs.flatMap Job.chain = s.jobs.recs.flatMap Job.chain := by
  simp only [State.updJob, List.flatMap_map]
  refine List.flatMap_congr fun j _ => ?_
  split
  · exact hf j
  · rfl

theorem State.SegmentsAccounted.takeSegment {s : State} (h : s.SegmentsAccounted) {g : Nat} {j : Job}
    (hj : s.job g = some j) : (s.takeSegment g).SegmentsAccounted := by
  refine ⟨(s.tags_takeSegment g).symm ▸ h.tags, ?_⟩
  rcases s.takeSegment_cases g with ⟨-, e⟩ | ⟨n, hn, -, hrecs⟩
  · rw [e]; exact h.segments
  · obtain ⟨a, b, hab, hne⟩ := State.recs_split h.tags hj
    rw [hrecs, State.updJob_split hab (s.tag_of_job hj) hne]
    refine List.Perm.trans ?_ h.segments
    rw [hn, hab]
    refine ((chains_split a b _).append_left _).trans (List.Perm.symm ?_)
    refine ((chains_split a b j).append_left _).trans ?_
    simp only [List.cons_append, List.append_assoc]
    refine List.Perm.symm ?_
    rw [← List.append_assoc, ← List.append_assoc]
    exact List.perm_middle.trans (by simp [List.append_assoc])

theorem Move.keeps_segments {l : List Piece} {s t : State} (x : Move l s t) (h : s.SegmentsAccounted) :
    t.SegmentsAccounted := by
  cases x
  case job g f hf => exact h.of_chain (s.tags_updJob g fun j => (hf j).1.tag) rfl (s.chains_updJob g fun j => (hf j).1.chain)
  case extend j n _ _ _ hj =>
    have taken : (if j.chain.length * Config.segmentBytes < j.received + n then s.takeSegment j.tag else s).SegmentsAccounted := by
      split
      · exact h.takeSegment hj
      · exact h
    exact taken.of_chain (State.tags_updJob _ _ (f := fun x => { x with received := x.received + n }) fun _ => rfl) rfl
      (State.chains_updJob _ _ (f := fun x => { x with received := x.received + n }) fun _ => rfl)
  case keep j f hf _ =>
    exact h.of_chain (State.tags_updJob _ _ fun x => (hf x).1.tag) rfl (State.chains_updJob _ _ fun x => (hf x).1.chain)
  case drop j hj =>
    obtain ⟨a, b, hab, hne⟩ := State.recs_split h.tags hj
    have recs := State.dropJob_split (s := s.freeSpool j) hab rfl hne
    refine ⟨h.tags.sublist (List.filter_sublist.map _), ?_⟩
    rw [recs, State.dropJob_spool, freeList_eq]
    simp only [State.freeSpool, runsList_pushChain, List.append_assoc]
    refine List.Perm.trans ?_ h.segments
    rw [hab]
    exact (chains_split a b j).symm.append_left _
  case record j hc _ hf _ _ =>
    exact ⟨State.TagsOnce.append h.tags hf,
      by simpa [Spool.freeList, List.flatMap_append, hc.1] using h.segments⟩
  all_goals exact ⟨h.tags, h.segments⟩

theorem segments_kept : StepKept State.SegmentsAccounted where
  pending _ _ h := ⟨h.tags, h.segments⟩
  powered _ h := ⟨h.tags, h.segments⟩
  move _ _ _ x h := x.keeps_segments h
  discard _ _ := State.segmentsAccounted_fresh rfl rfl
  unpowered _ _ := State.segmentsAccounted_fresh rfl rfl
  restored _ _ _ := State.segmentsAccounted_fresh rfl rfl

/-! ### Promises (R9, R12, R13) -/

/-- The spool accounted for, and every promise covered. -/
def State.Covered (s : State) : Prop := s.SegmentsAccounted ∧ s.PromisesCovered

/-- A job with the spool fields and the promise of another is as sound. -/
theorem Job.SpoolSound.of_spooled {j k : Job} (h : k.SpoolSound) (hs : j.Spooled k) (hp : j.promise = k.promise)
    (hr : j.state = .receiving → k.state = .receiving) : j.SpoolSound :=
  ⟨by rw [hs.chain, hs.received]; exact h.chain, by rw [hs.received, hs.declared]; exact h.received,
    fun e => by rw [hp, hs.declared, hs.chain]; exact h.promise (hr e)⟩

/-- R13: the chain of a job needs a segment more exactly when the data reach beyond it. -/
theorem ceilDiv_received {received n segments : Nat} (h : segments = ceilDiv received 4096) (hn : n ≤ 1400) :
    ceilDiv (received + n) 4096 = if segments * 4096 < received + n then segments + 1 else segments := by
  have low := mul_ceilDiv_lt (b := 4096) received (by decide)
  have high := le_mul_ceilDiv (b := 4096) received (by decide)
  have low' := mul_ceilDiv_lt (b := 4096) (received + n) (by decide)
  have high' := le_mul_ceilDiv (b := 4096) (received + n) (by decide)
  subst h
  split <;> omega

/-- The condition on the promises, with the records as a list of their own. -/
structure Promised (sp : Spool) (recs : List Job) : Prop where
  jobs : ∀ j ∈ recs, j.SpoolSound
  count : sp.promises = (recs.map Job.promise).sum
  covered : sp.promises ≤ sp.freeList.length

theorem State.promisesCovered_iff {s : State} : s.PromisesCovered ↔ Promised s.spool s.jobs.recs :=
  ⟨fun h => ⟨h.jobs, h.count, freeLength_eq _ ▸ h.covered⟩, fun h => ⟨h.jobs, h.count, (freeLength_eq _).symm ▸ h.covered⟩⟩

/-- One record is replaced, and the promise count and the free segments with it. -/
theorem Promised.replace {sp sp' : Spool} {a b : List Job} {j k : Job} (h : Promised sp (a ++ j :: b)) (hk : k.SpoolSound)
    (hp : sp'.promises + j.promise = sp.promises + k.promise)
    (hf : sp'.promises + sp.freeList.length ≤ sp.promises + sp'.freeList.length) : Promised sp' (a ++ k :: b) := by
  have count := h.count
  have covered := h.covered
  simp only [List.map_append, List.map_cons, List.sum_append, List.sum_cons] at count
  refine ⟨fun x hx => ?_, ?_, by omega⟩
  · rcases List.mem_append.1 hx with hx | hx
    · exact h.jobs x (by simp [hx])
    · rcases List.mem_cons.1 hx with rfl | hx
      · exact hk
      · exact h.jobs x (by simp [hx])
  · simp only [List.map_append, List.map_cons, List.sum_append, List.sum_cons]
    omega

/-- One record leaves, its promise with it. -/
theorem Promised.drop {sp sp' : Spool} {a b : List Job} {j : Job} (h : Promised sp (a ++ j :: b))
    (hp : sp'.promises = sp.promises - j.promise) (hf : sp.freeList.length ≤ sp'.freeList.length) :
    Promised sp' (a ++ b) := by
  have count := h.count
  have covered := h.covered
  simp only [List.map_append, List.map_cons, List.sum_append, List.sum_cons] at count
  refine ⟨fun x hx => h.jobs x ?_, ?_, by omega⟩
  · rcases List.mem_append.1 hx with hx | hx <;> simp [hx]
  · simp only [List.map_append, List.sum_append]
    omega

theorem Promised.congr {sp sp' : Spool} {l l' : List Job} (h : Promised sp l) (hp : sp'.promises = sp.promises)
    (hf : sp'.free = sp.free) (hl : l' = l) : Promised sp' l' :=
  ⟨hl ▸ h.jobs, hp.trans (hl ▸ h.count), by rw [hp, freeList_eq, hf]; exact h.covered⟩

/-- R12, R13: the data of a Receiving job extend its chain by a segment when they reach beyond it, against its promise. -/
theorem State.Covered.extendJob {s : State} (h : s.Covered) {j : Job} {n : Nat} (hj : s.job j.tag = some j)
    (hs : j.state = .receiving) (hd : j.received + n ≤ j.declared) (hn : n ≤ 1400) : (s.extendJob j n).PromisesCovered := by
  obtain ⟨a, b, hab, hne⟩ := State.recs_split h.1.tags hj
  have held := State.promisesCovered_iff.1 h.2
  rw [hab] at held
  have sound := held.jobs j (by simp)
  have need := ceilDiv_received sound.chain hn
  have most := ceilDiv_mono 4096 hd
  have promise := sound.promise hs
  refine State.promisesCovered_iff.2 ?_
  unfold State.extendJob Config.segmentBytes
  split
  next reach =>
    rw [if_pos reach] at need
    rcases s.takeSegment_cases j.tag with ⟨none, -⟩ | ⟨g, free, promises, recs⟩
    · have count := held.count
      have covered := held.covered
      rw [none] at covered
      simp only [List.map_append, List.map_cons, List.sum_append, List.sum_cons] at count
      simp only [List.length_nil] at covered
      omega
    · rw [State.updJob_split hab rfl hne] at recs
      rw [State.updJob_split recs rfl hne]
      have length := congrArg List.length free
      have count := held.count
      simp only [List.map_append, List.map_cons, List.sum_append, List.sum_cons] at count
      simp only [List.length_cons] at length
      refine held.replace ⟨?_, hd, fun _ => ?_⟩ ?_ ?_
      · simp only [List.length_append, List.length_singleton]; omega
      · simp only [List.length_append, List.length_singleton]; omega
      · simp only [State.updJob_spool]; omega
      · simp only [State.updJob_spool]; omega
  next reach =>
    rw [if_neg reach] at need
    rw [State.updJob_split hab rfl hne]
    exact held.replace ⟨need.symm, hd, sound.promise⟩ rfl (by rfl)

theorem Move.keeps_promises {l : List Piece} {s t : State} (x : Move l s t) (h : s.Covered) : t.PromisesCovered := by
  have held := State.promisesCovered_iff.1 h.2
  cases x
  case job g f hf =>
    refine State.promisesCovered_iff.2 ⟨fun j hj => ?_, ?_, held.covered⟩
    · obtain ⟨k, hk, rfl⟩ := List.mem_map.1 hj
      split
      · exact (held.jobs k hk).of_spooled (hf k).1 (hf k).2.1 (hf k).2.2
      · exact held.jobs k hk
    · refine held.count.trans (congrArg List.sum ?_)
      simp only [State.updJob, List.map_map]
      refine List.map_congr_left fun k _ => ?_
      simp only [Function.comp]
      split
      · exact (hf k).2.1.symm
      · rfl
  case extend j n hs hd hn hj => exact h.extendJob hj hs hd hn
  case keep j f hf hj =>
    obtain ⟨a, b, hab, hne⟩ := State.recs_split h.1.tags hj
    obtain ⟨spooled, promise, state⟩ := hf j
    refine State.promisesCovered_iff.2 ?_
    rw [State.updJob_split (s := { s with spool := { s.spool with promises := s.spool.promises - j.promise } }) hab rfl hne]
    rw [hab] at held
    have sound := held.jobs j (by simp)
    have count := held.count
    simp only [List.map_append, List.map_cons, List.sum_append, List.sum_cons] at count
    refine held.replace ⟨by rw [spooled.chain, spooled.received]; exact sound.chain,
      by rw [spooled.received, spooled.declared]; exact sound.received, fun e => absurd e state⟩ ?_ ?_
    · simp only [State.updJob_spool, promise]; omega
    · simp only [State.updJob_spool, freeList_eq]; omega
  case drop j hj =>
    obtain ⟨a, b, hab, hne⟩ := State.recs_split h.1.tags hj
    refine State.promisesCovered_iff.2 ?_
    rw [State.dropJob_split (s := s.freeSpool j) hab rfl hne]
    rw [hab] at held
    refine held.drop rfl ?_
    simp only [State.dropJob_spool, State.freeSpool, freeList_eq, runsList_pushChain, List.length_append]
    omega
  case record j hc _ _ _ hp =>
    obtain ⟨chain, received, -, promise⟩ := hc
    refine State.promisesCovered_iff.2 ⟨fun x hx => ?_, ?_, ?_⟩
    · rcases List.mem_append.1 hx with hx | hx
      · exact held.jobs x hx
      · rw [List.mem_singleton.1 hx]
        exact ⟨by rw [chain, received]; rfl, by omega, fun _ => by rw [promise, chain]; rfl⟩
    · simp [held.count]
    · have covered := held.covered
      have room := hp
      simp only [Spool.headroom, freeLength_eq] at room
      simp only [Spool.freeList] at room covered ⊢
      omega
  all_goals exact State.promisesCovered_iff.2 (held.congr rfl rfl rfl)

theorem State.promisesCovered_fresh {s : State} (hr : s.jobs.recs = []) (hp : s.spool.promises = 0) : s.PromisesCovered :=
  ⟨by simp [hr], by simp [hr, hp], by omega⟩

theorem promises_kept : StepKept State.Covered where
  pending _ _ h := ⟨segments_kept.pending _ _ h.1, ⟨h.2.jobs, h.2.count, h.2.covered⟩⟩
  powered _ h := ⟨segments_kept.powered _ h.1, ⟨h.2.jobs, h.2.count, h.2.covered⟩⟩
  move _ _ _ x h := ⟨x.keeps_segments h.1, x.keeps_promises h⟩
  discard _ h := ⟨segments_kept.discard _ h.1, State.promisesCovered_fresh rfl rfl⟩
  unpowered _ h := ⟨segments_kept.unpowered _ h.1, State.promisesCovered_fresh rfl rfl⟩
  restored _ c h := ⟨segments_kept.restored _ c h.1, State.promisesCovered_fresh rfl rfl⟩

/-- Settles O7, by what each move keeps of the tags, the segments and the promises. -/
theorem spoolStaysAccounted : Obligations.SpoolStaysAccounted :=
  ⟨fun _ _ hs h => step_keeps tags_kept h hs, fun _ _ hs h => step_keeps segments_kept h hs,
    fun _ _ hs hp h => (step_keeps promises_kept h ⟨hs, hp⟩).2⟩

end Sys2Proof.Machine

/-! PROOFS. How a command ends: with the end of a step while the part is up, and with nothing done else (R169), but for the three
commands of power and a STREAM_DATA that finds no byte (log 5). From it follow what every step leaves of the store and the idle
timer (R158, R167), and that every command goes on. The reset state is in order, and a cold start from factory slots leaves it. -/

namespace Sys2Proof.Machine

set_option Elab.async false

/-! ### How a command ends -/

/-- The outcome of a command of a part that needs power: its act and the end of the step, or nothing. -/
def WhenUp (s : State) (o : StepOutcome) : Prop := ∃ act, o = s.whenUp act

theorem whenUp_jobMessage {α : Type} (h : Hdr) (b : Option α) (act : α → State → State) (s : State) :
    WhenUp s (jobMessage h b act s) := by
  unfold jobMessage
  exact ⟨_, rfl⟩

theorem whenUp_printerMessage (h : Hdr) (act : Nat → State → State) (s : State) : WhenUp s (printerMessage h act s) := by
  unfold printerMessage
  exact ⟨_, rfl⟩

theorem whenUp_deliveryMessage {α : Type} (h : Hdr) (b : Option α) (act : α → Nat → State → State) (s : State) :
    WhenUp s (deliveryMessage h b act s) := whenUp_printerMessage _ _ _

theorem whenUp_panelRequest (h : Hdr) (b : Option AskBody) (act : Option (Nat → Nat → State → PanelAnswer)) (s : State) :
    WhenUp s (panelRequest h b act s) := whenUp_printerMessage _ _ _

theorem whenUp_mgmtRequest {α : Type} (h : Hdr) (b : Option α) (act : α → State → Reply) (s : State) :
    WhenUp s (mgmtRequest h b act s) := by
  unfold mgmtRequest
  exact ⟨_, rfl⟩

/-- A STREAM_DATA that stops the part (log 5). -/
def ByteMissing (c : Instr) (s : State) : Prop :=
  ∃ p j, c = .streamData p ∧ s.phase = .up ∧ s.chunkJob p = some j ∧ s.chunkData j j.sent = none ∧
    exec c s = .fault .spoolByteUnwritten

/-- The commands by which a part gets or loses its power. -/
def Instr.isPower : Instr → Bool
  | .powerLoss => true
  | .coldStart _ => true
  | .startUpComplete => true
  | _ => false

theorem execStreamData_whenUp (p : Nat) (s : State) : WhenUp s (exec (.streamData p) s) ∨ ByteMissing (.streamData p) s := by
  have e : exec (.streamData p) s = execStreamData p s := rfl
  by_cases hr : (s.phase = .up && s.streamTurn p) = true
  · have up : s.phase = .up := by simpa using ((Bool.and_eq_true _ _).mp hr).1
    cases hj : s.chunkJob p with
    | none => exact .inl ⟨_, by rw [e, execStreamData, if_pos hr, hj]⟩
    | some j =>
      cases hd : s.chunkData j j.sent with
      | none => exact .inr ⟨p, j, rfl, up, hj, hd, by rw [e, execStreamData, if_pos hr, hj]; simp only [hd]⟩
      | some d => exact .inl ⟨_, by rw [e, execStreamData, if_pos hr, hj]; simp only [hd]; rfl⟩
  · exact .inl ⟨_, by rw [e, execStreamData, if_neg hr]⟩

theorem exec_whenUp {c : Instr} (hc : Instr.isPower c = false) (s : State) : WhenUp s (exec c s) ∨ ByteMissing c s := by
  cases c
  case streamData p => exact execStreamData_whenUp p s
  case powerLoss => exact nomatch hc
  case coldStart => exact nomatch hc
  case startUpComplete => exact nomatch hc
  case jobOpen h b => exact .inl (whenUp_jobMessage h b (openJob h) s)
  case jobData h b => exact .inl (whenUp_jobMessage h b (takeData h) s)
  case jobClose h total => exact .inl (whenUp_jobMessage h total (closeJob h) s)
  case jobCancel h fit => exact .inl (whenUp_jobMessage h (noOperand fit) (fun _ => cancelJob h) s)
  case list h b => exact .inl (whenUp_panelRequest h b (some listRule) s)
  case releaseAll h b => exact .inl (whenUp_panelRequest h b (some releaseAllRule) s)
  case releaseOne h b => exact .inl (whenUp_panelRequest h b (some (releaseOneRule h.jobTag)) s)
  case deleteOne h b => exact .inl (whenUp_panelRequest h b (some (fun _ k t => deleteOneRule h.jobTag k t)) s)
  case unknownReleaseRequest h b => exact .inl (whenUp_panelRequest h b none s)
  case grant h chunks => exact .inl (whenUp_deliveryMessage h chunks (grantRule h) s)
  case pageReport h b => exact .inl (whenUp_deliveryMessage h b (pageReportRule h) s)
  case status h b => exact .inl (whenUp_deliveryMessage h b statusRule s)
  case fault h kind => exact .inl (show WhenUp s (execFault h kind s) from whenUp_printerMessage ..)
  case tableRead h b => exact .inl (whenUp_mgmtRequest h b readRule s)
  case settingsWrite h b => exact .inl (whenUp_mgmtRequest h b settingsRule s)
  case classifierWrite h b => exact .inl (whenUp_mgmtRequest h b classifierRule s)
  case tariffWrite h b => exact .inl (whenUp_mgmtRequest h b tariffRule s)
  case accountWrite h b => exact .inl (whenUp_mgmtRequest h b accountRule s)
  case printerWrite h b => exact .inl (whenUp_mgmtRequest h b printerRule s)
  case tableWrite h b => exact .inl (whenUp_mgmtRequest h b closedRule s)
  case query h clear => exact .inl (whenUp_mgmtRequest h clear queryRule s)
  case rollPeriod h fit => exact .inl (whenUp_mgmtRequest h (noOperand fit) (fun _ => rollRule true) s)
  case forceRoll h fit => exact .inl (whenUp_mgmtRequest h (noOperand fit) (fun _ => rollRule false) s)
  case setClock h b => exact .inl (whenUp_mgmtRequest h b setClockRule s)
  case standby h fit => exact .inl (whenUp_mgmtRequest h (noOperand fit) (fun _ => standbyRule) s)
  case restart h fit => exact .inl (whenUp_mgmtRequest h (noOperand fit) (fun _ => restartRule) s)
  case checkpoint h fit => exact .inl (whenUp_mgmtRequest h (noOperand fit) (fun _ => checkpointRule) s)
  case park h printer => exact .inl (whenUp_mgmtRequest h printer (onPrinter parkRule) s)
  case unpark h printer => exact .inl (whenUp_mgmtRequest h printer (onPrinter unparkRule) s)
  case parkNow h printer => exact .inl (whenUp_mgmtRequest h printer (onPrinter parkNowRule) s)
  case withdraw h printer => exact .inl (whenUp_mgmtRequest h printer (onPrinter withdrawRule) s)
  case reinstate h printer => exact .inl (whenUp_mgmtRequest h printer (onPrinter reinstateRule) s)
  case ackCallout h printer => exact .inl (whenUp_mgmtRequest h printer ackRule s)
  case closeCallout h printer => exact .inl (whenUp_mgmtRequest h printer closeCalloutRule s)
  case confirmOrder h b => exact .inl (whenUp_mgmtRequest h b (onColorant confirmRule) s)
  case cancelOrder h b => exact .inl (whenUp_mgmtRequest h b (onColorant cancelRule) s)
  case cartridgeReplaced h b => exact .inl (whenUp_mgmtRequest h b (onColorant cartridgeRule) s)
  case adjustAccount h b => exact .inl (whenUp_mgmtRequest h b adjustRule s)
  case unlockAccount h account => exact .inl (whenUp_mgmtRequest h account (onAccount unlockRule) s)
  case suspend h account => exact .inl (whenUp_mgmtRequest h account (onAccount suspendRule) s)
  case resume h account => exact .inl (whenUp_mgmtRequest h account (onAccount resumeRule) s)
  case purgeJob h tag => exact .inl (whenUp_mgmtRequest h tag purgeRule s)
  case unknownMgmtRequest h fit => exact .inl (whenUp_mgmtRequest h (noOperand fit) (fun _ s => Reply.refuse s .unknownRequest) s)
  case receiveIdleExpiry context => exact .inl (show WhenUp s (execReceiveIdleExpiry context s) from ⟨_, rfl⟩)
  case stallTimerExpiry p => exact .inl (show WhenUp s (execStallTimerExpiry p s) from ⟨_, rfl⟩)
  case finishTimerExpiry tag => exact .inl (show WhenUp s (execFinishTimerExpiry tag s) from ⟨_, rfl⟩)
  case presenceTimerExpiry p => exact .inl (show WhenUp s (execPresenceTimerExpiry p s) from ⟨_, rfl⟩)
  case standingLimitExpiry p => exact .inl (show WhenUp s (execStandingLimitExpiry p s) from ⟨_, rfl⟩)
  case renotifyTimerExpiry record => exact .inl (show WhenUp s (execRenotifyTimerExpiry record s) from ⟨_, rfl⟩)
  case minuteEvent => exact .inl (show WhenUp s (execMinuteEvent s) from ⟨_, rfl⟩)
  case hourEvent => exact .inl (show WhenUp s (execHourEvent s) from ⟨_, rfl⟩)
  case calendarMidnight => exact .inl (show WhenUp s (execCalendarMidnight s) from ⟨_, rfl⟩)
  case idleTimerExpiry => exact .inl (show WhenUp s (execIdleTimerExpiry s) from ⟨_, rfl⟩)
  case storeDrainComplete => exact .inl (show WhenUp s (execStoreDrainComplete s) from ⟨_, rfl⟩)
  case wakeCompletion => exact .inl (show WhenUp s (execWakeCompletion s) from ⟨_, rfl⟩)
  case checkpointTimerExpiry => exact .inl (show WhenUp s (execCheckpointTimerExpiry s) from ⟨_, rfl⟩)
  case programOperationComplete => exact .inl (show WhenUp s (execProgramOperationComplete s) from ⟨_, rfl⟩)
  case restartComplete => exact .inl (show WhenUp s (execRestartComplete s) from ⟨_, rfl⟩)
  case passThroughFrame port f => exact .inl (show WhenUp s (execPassThroughFrame port f s) from ⟨_, rfl⟩)
  case fptDiscard port payload => exact .inl (show WhenUp s (execFptDiscard port payload s) from ⟨_, rfl⟩)
  case frameTransmit port => exact .inl (show WhenUp s (execFrameTransmit port s) from ⟨_, rfl⟩)
  case jobOutgoingPlace => exact .inl (show WhenUp s (execJobOutgoingPlace s) from ⟨_, rfl⟩)
  case mgmtReplyPlace => exact .inl (show WhenUp s (execMgmtReplyPlace s) from ⟨_, rfl⟩)
  case noticeSend => exact .inl (show WhenUp s (execNoticeSend s) from ⟨_, rfl⟩)
  case releaseAnswerPlace => exact .inl (show WhenUp s (execReleaseAnswerPlace s) from ⟨_, rfl⟩)
  case streamControlPlace p => exact .inl (show WhenUp s (execStreamControlPlace p s) from ⟨_, rfl⟩)
  case streamEnd p => exact .inl (show WhenUp s (execStreamEnd p s) from ⟨_, rfl⟩)

theorem State.whenUp_down {s : State} (act : State → State) (h : s.phase ≠ .up) : s.whenUp act = .next s := if_neg h

/-- The commands that wait are none of a command's business. -/
theorem exec_pending {c : Instr} {s t : State} (h : exec c s = .next t) : t.pending = s.pending := by
  by_cases hc : Instr.isVital c = false
  · exact (exec_moves hc h).phase_pending.2
  · cases c
    case restartComplete =>
      have e : exec .restartComplete s = s.whenUp _ := rfl
      rw [e] at h
      unfold State.whenUp at h
      split at h
      · cases h
        rw [State.finish_pending]
        split
        · exact s.completeRestart_moves.phase_pending.2
        · rfl
      · cases h; rfl
    case powerLoss => cases h; split <;> rfl
    case coldStart => cases h; split <;> rfl
    case startUpComplete =>
      cases h
      split
      · exact (s.startUp_moves.next (State.finish_moves _)).phase_pending.2
      · rfl
    all_goals exact absurd rfl hc

/-- Settles O2, by how each command ends. -/
theorem commandsGoOn : Obligations.CommandsGoOn := by
  refine ⟨fun c s => ?_, fun c s hs hloss hstart hcold => ?_⟩
  · by_cases hc : Instr.isPower c = false
    · rcases exec_whenUp hc s with ⟨act, e⟩ | ⟨p, j, hp, -, hj, hd, e⟩
      · refine .inl ?_
        by_cases up : s.phase = .up
        · rw [State.whenUp_up act up] at e
          exact ⟨_, e, exec_pending e⟩
        · rw [State.whenUp_down act up] at e
          exact ⟨_, e, rfl⟩
      · exact .inr ⟨p, j, hp, hj, hd, e⟩
    · refine .inl ?_
      cases c
      case powerLoss => exact ⟨_, rfl, exec_pending (c := .powerLoss) rfl⟩
      case coldStart x => exact ⟨_, rfl, exec_pending (c := .coldStart x) rfl⟩
      case startUpComplete => exact ⟨_, rfl, exec_pending (c := .startUpComplete) rfl⟩
      all_goals exact absurd rfl hc
  · have hc : Instr.isPower c = false := by
      cases c
      case powerLoss => exact absurd rfl hloss
      case coldStart x => exact absurd rfl (hcold x)
      case startUpComplete => exact absurd rfl hstart
      all_goals rfl
    rcases exec_whenUp hc s with ⟨act, e⟩ | ⟨_, _, _, up, _⟩
    · rw [e, State.whenUp_down act hs]
    · exact absurd up hs

/-- Settles O1: it is the definition of a step. -/
theorem stepRunsFrontCommand : Obligations.StepRunsFrontCommand := ⟨fun _ _ _ => rfl, fun _ => rfl⟩

/-! ### The end of a step (R158, R167) -/

theorem State.beginProgram_writing (s : State) (h : s.beginProgram.store.underWay = none) :
    s.beginProgram.store.queue = [] := by
  unfold State.beginProgram at h ⊢
  split at h
  next n rest hu hq => exact absurd ((State.fillQueue_dirty).2.symm.trans h) (by simp)
  next hne =>
    cases hq : s.store.queue with
    | nil => rfl
    | cons n rest => exact absurd hq (hne n rest h)

theorem State.idleService_idle (s : State) : s.idleService.clock.idle.runs = true ↔
    s.clock.mode = .running ∧ s.restartPending = false ∧ s.settings.idleTime ≠ 0 ∧ s.idleCondition = true := by
  unfold State.idleService
  split
  next h =>
    have all : s.clock.mode = .running ∧ s.restartPending = false ∧ s.settings.idleTime ≠ 0 ∧ s.idleCondition = true := by
      simpa [and_assoc] using h
    refine ⟨fun _ => all, fun _ => ?_⟩
    split
    next hr => exact hr
    next => rfl
  next h =>
    refine Iff.intro (fun hr => nomatch hr) fun ⟨h1, h2, h3, h4⟩ => absurd ?_ h
    simp [h1, h2, h3, h4]

theorem State.finish_settled (u : State) : u.finish.ServiceSettled := by
  have idle := u.beginProgram.idleService_idle
  have core := (State.idleService_moves (s := u.beginProgram)).changesOnly
  have e : u.beginProgram.idleService = u.finish := rfl
  constructor
  · intro _ h
    obtain ⟨-, -, hq, hu⟩ := core .storeWriting (by decide)
    rw [← e] at h ⊢
    rw [hq]
    exact u.beginProgram_writing (hu.symm.trans h)
  · intro _
    have mode : u.beginProgram.idleService.clock.mode = u.beginProgram.clock.mode :=
      (Clock.eq_of_core (core .clock (by decide))).2.2.2.2.1
    have condition : u.beginProgram.idleService.idleCondition = u.beginProgram.idleCondition := by
      have jobs : _ = _ := core .jobRecords (by decide)
      have printers : _ = _ := core .printers (by decide)
      unfold State.idleCondition
      rw [jobs, printers]
    have settings : _ = _ := core .settings (by decide)
    have restart : _ = _ := core .restartPending (by decide)
    rw [← e, idle, mode, condition, settings, restart]

theorem State.settled_down {s : State} (h : s.phase ≠ .up) : s.ServiceSettled :=
  ⟨fun up => absurd up h, fun up => absurd up h⟩

/-- A step ends in order: it is the end of a step, or the part is not up, or nothing was done. -/
theorem exec_settled {c : Instr} {s t : State} (hs : s.ServiceSettled) (h : exec c s = .next t) : t.ServiceSettled := by
  by_cases hc : Instr.isPower c = false
  · rcases exec_whenUp hc s with ⟨act, e⟩ | ⟨_, _, _, _, _, _, e⟩
    · rw [e] at h
      unfold State.whenUp at h
      split at h
      · cases h; exact State.finish_settled _
      · cases h; exact hs
    · rw [e] at h; exact nomatch h
  · cases c
    case powerLoss =>
      cases h
      split
      · exact hs
      · exact State.settled_down (s := s.unpowered) nofun
    case coldStart => cases h; exact State.settled_down nofun
    case startUpComplete =>
      cases h
      split
      · exact State.finish_settled _
      · exact hs
    all_goals exact absurd rfl hc

/-- Settles O8, since every step ends with the end of a step. -/
theorem serviceStaysSettled : Obligations.ServiceStaysSettled := by
  refine ⟨⟨by decide, by decide⟩, fun s t hs h => ?_⟩
  unfold step at h
  split at h
  · cases h; exact hs
  next rest _ => exact exec_settled (s := s.withPending rest) ⟨hs.1, hs.2⟩ h

/-! ### Reset (R22, R169) -/

/-- R169: what a part without power and with good factory slots reads from them. -/
theorem State.restored_factory (s : State) : (s.bare []).restored .power =
    { State.reset with
      phase := .starting, clock := { State.reset.clock with idle := .stopped }
      store := { State.reset.store with checkpoint := .stopped }
      oport := PortState.start 3, freeCount := s.freeCount, pending := s.pending } := rfl

/-- R169 to R171: its start-up begins no operation and sends STARTED, and its timers run. -/
theorem State.startUp_factory (free : Nat) (waiting : List Instr) :
    State.finish (State.startUp { State.reset with
      phase := .starting, clock := { State.reset.clock with idle := .stopped }
      store := { State.reset.store with checkpoint := .stopped }
      oport := PortState.start 3, freeCount := free, pending := waiting }) =
    { State.reset with freeCount := free, pending := waiting } := by
  have enabled : State.reset.noticeEnabled .started = true := by decide
  unfold State.startUp State.notify
  rw [if_pos (by exact enabled)]
  rfl

/-- Settles O3: the slots are read as factory records. -/
theorem resetIsAColdStart : Obligations.ResetIsAColdStart := by
  intro s hs hslots hway
  have lost : s.unpowered = s.bare [] := by rw [State.unpowered, Store.torn, hway, ← hslots]
  refine ⟨(s.bare []).restored .power, ?_, ?_⟩
  · show execColdStart .power s = _
    rw [execColdStart, if_neg hs, lost]; rfl
  · show execStartUpComplete _ = _
    rw [State.restored_factory, execStartUpComplete, if_pos rfl, State.startUp_factory]

/-- A part whose collections are empty and that holds no job is in order. -/
theorem State.jobsPlaced_empty {s : State} (recs : s.jobs.recs = [])
    (accounts : ∀ k, (s.account k).held = [] ∧ (s.account k).reserved = 0)
    (printers : ∀ p, (s.printer p).queue = [] ∧ (s.printer p).control = [])
    (contexts : s.jobs.contexts = List.replicate 32 none) : s.JobsPlaced := by
  have job (g : Nat) : s.job g = none := by simp [State.job, recs]
  have printing (p : Nat) : s.jobsIn p .printing = [] ∧ s.firstIn p .printing = none := by
    simp [State.jobsIn, State.firstIn, (printers p).1]
  exact {
    held := fun k g => by simp [accounts, job]
    heldOnce := fun k => by simp [accounts]
    delivery := fun g => by simp [printers, job]
    deliveryOnce := ⟨fun p => by simp [printers], fun p q _ g => by simp [printers]⟩
    printing := fun p => by simp [printing]
    receiving := fun g => by simp [contexts, job]
    receivingOnce := by simp [contexts]
    reserved := fun k => by simp [accounts, State.jobsOf, recs]
    reservation := by simp [recs]
    control := fun p => .inl (printers p).2
    powered := fun _ => recs }

/-- Settles O9: each invariant at the reset state. -/
theorem invariantsAtReset : Obligations.InvariantsAtReset := by
  refine ⟨⟨rfl, rfl, rfl, rfl, freeList_fresh, rfl, rfl, by decide⟩, ⟨by decide, by decide, by decide, by decide, by decide,
    by decide, by decide, by decide⟩, ⟨by decide, by decide⟩, by rfl, ⟨rfl, rfl, rfl, rfl, rfl, rfl, rfl, by decide⟩,
    ⟨by decide, by decide, by decide, by decide, by decide⟩, by simp [State.AccountsSound, State.reset], by simp [State.HealthFollowsScore, State.reset],
    State.tagsDistinct_empty rfl, State.segmentsAccounted_fresh rfl rfl, State.promisesCovered_fresh rfl rfl,
    State.jobsPlaced_empty rfl (fun _ => ⟨rfl, rfl⟩) (fun _ => ⟨rfl, rfl⟩) rfl, by decide⟩

end Sys2Proof.Machine

/-! PROOFS. The first record of a table that passes a test, and the intake of jobs (R5 to R14): what an accepted JOB_OPEN and
JOB_DATA leave, and the answers that change no job. -/

namespace Sys2Proof.Machine

set_option Elab.async false

/-! ### The first record of a table that passes a test -/

section Tables

variable {α : Type} {d : α} {t : Tbl α} {f : Nat → α → Bool}

theorem Tbl.get_cons_self (e : Nat × α) : Tbl.get d (e :: t) e.1 = e.2 := if_pos rfl

theorem Tbl.get_cons_ne {e : Nat × α} {i : Nat} (h : i ≠ e.1) : Tbl.get d (e :: t) i = Tbl.get d t i := if_neg (Ne.symm h)

/-- An index below the first listed one gives the factory record. -/
theorem Tbl.get_below {e : Nat × α} {i : Nat} (hs : ((e :: t).map Prod.fst).Pairwise (· < ·)) (h : i < e.1) :
    Tbl.get d (e :: t) i = d := by
  refine Tbl.get_of_not_listed fun x hx hxi => ?_
  rcases List.mem_cons.1 hx with rfl | hx
  · omega
  · have := (List.pairwise_cons.1 hs).1 x.1 (List.mem_map_of_mem hx)
    omega

/-- The first listed record that passes a test is the record of lowest index that does, as the factory record does not. -/
theorem Tbl.find_iff (hs : (t.map Prod.fst).Pairwise (· < ·)) (hd : ∀ i, f i d = false) (k : Nat) :
    (t.find? (fun e => f e.1 e.2)).map Prod.fst = some k ↔
      f k (Tbl.get d t k) = true ∧ ∀ i < k, f i (Tbl.get d t i) = false := by
  induction t with
  | nil => simp [hd]
  | cons e t ih =>
    have below (i : Nat) (h : i < e.1) : f i (Tbl.get d (e :: t) i) = false := by rw [Tbl.get_below hs h, hd]
    have ih := ih (List.pairwise_cons.1 hs).2
    rw [List.find?_cons]
    split
    next he =>
      constructor
      · intro h
        obtain rfl : e.1 = k := by simpa using h
        exact ⟨by rw [Tbl.get_cons_self]; exact he, below⟩
      · rintro ⟨hk, first⟩
        rcases Nat.lt_trichotomy k e.1 with h | h | h
        · rw [below k h] at hk; exact nomatch hk
        · simp [h]
        · have := first e.1 h
          rw [Tbl.get_cons_self, he] at this; exact nomatch this
    next he =>
      have he : f e.1 e.2 = false := by simpa using he
      have same (i : Nat) : f i (Tbl.get d (e :: t) i) = f i (Tbl.get d t i) := by
        by_cases h : i = e.1
        · subst h
          have absent : Tbl.get d t e.1 = d := Tbl.get_of_not_listed fun x hx hxe => by
            have := (List.pairwise_cons.1 hs).1 x.1 (List.mem_map_of_mem hx)
            omega
          rw [Tbl.get_cons_self, he, absent, hd]
        · rw [Tbl.get_cons_ne h]
      simp only [same]
      exact ih

theorem Tbl.find_none_iff (hs : (t.map Prod.fst).Pairwise (· < ·)) (hd : ∀ i, f i d = false) :
    (t.find? (fun e => f e.1 e.2)).map Prod.fst = none ↔ ∀ i, f i (Tbl.get d t i) = false := by
  constructor
  · intro h i
    refine Bool.eq_false_iff.2 fun hi => ?_
    obtain ⟨k, hk, hmin⟩ : ∃ k, f k (Tbl.get d t k) = true ∧ ∀ i < k, f i (Tbl.get d t i) = false := by
      have ex : ∃ k, f k (Tbl.get d t k) = true := ⟨i, hi⟩
      exact ⟨Nat.find ex, Nat.find_spec ex, fun i hi => Bool.eq_false_iff.2 (Nat.find_min ex hi)⟩
    rw [(Tbl.find_iff hs hd k).2 ⟨hk, hmin⟩] at h
    exact nomatch h
  · intro h
    cases e : (t.find? (fun e => f e.1 e.2)).map Prod.fst with
    | none => rfl
    | some k => exact absurd ((Tbl.find_iff hs hd k).1 e).1 (by simp [h k])

end Tables

/-! ### The hit and the account of a JOB_OPEN (R5, R7) -/

section

variable {s t : State}

/-- R5: an entry matches a station code. -/
theorem ClassEntry.isMatch_iff (e : ClassEntry) (station : Nat) :
    ClassEntry.isMatch e station = true ↔ e.valid = true ∧ station &&& e.mask = e.value &&& e.mask := by
  simp [ClassEntry.isMatch]

/-- R5: the hit is the matching entry of lowest index, or else 24. -/
theorem State.hit_first (h : s.TablesCanonical) (station : Nat) :
    s.hit station ≤ 24 ∧ (s.hit station < 24 → ClassEntry.isMatch (s.classEntry (s.hit station)) station = true) ∧
      ∀ i < s.hit station, ClassEntry.isMatch (s.classEntry i) station = false := by
  have factory (i : Nat) : (decide (i < 24) && ClassEntry.isMatch ClassEntry.factory station) = false := by
    simp [ClassEntry.isMatch, ClassEntry.factory]
  have rising := (Tbl.wf_iff.1 h.classifier).1
  have entry (i : Nat) (hi : i < 24) : s.classEntry i = Tbl.get ClassEntry.factory s.classifier i := if_pos hi
  unfold State.hit
  cases e : (s.classifier.find? (fun e => decide (e.1 < 24) && ClassEntry.isMatch e.2 station)).map Prod.fst with
  | none =>
    have all := (Tbl.find_none_iff (f := fun i e => decide (i < 24) && ClassEntry.isMatch e station) rising factory).1 e
    refine ⟨le_rfl, fun h => absurd h (lt_irrefl _), fun i hi => ?_⟩
    have := all i
    rw [entry i hi]
    simpa [show i < 24 from hi] using this
  | some k =>
    obtain ⟨hk, first⟩ := (Tbl.find_iff (f := fun i e => decide (i < 24) && ClassEntry.isMatch e station) rising factory k).1 e
    simp only [Bool.and_eq_true, decide_eq_true_eq] at hk
    refine ⟨hk.1.le, fun _ => ?_, fun i hi => ?_⟩
    · exact (entry k hk.1).symm ▸ hk.2
    · have hi24 : i < 24 := Nat.lt_trans hi hk.1
      rw [entry i hi24]
      simpa [hi24] using first i hi

/-- R26: a valid record of an account number. -/
def State.holdsNumber (s : State) (number i : Nat) : Prop := (s.account i).cfg.valid = true ∧ (s.account i).cfg.number = number

/-- R7: the account found by its number is the valid one of lowest index that holds it. -/
theorem State.accountOfNumber_iff (h : s.TablesCanonical) (number : Nat) :
    (∀ k, s.accountOfNumber number = some k ↔ s.holdsNumber number k ∧ ∀ i < k, ¬s.holdsNumber number i) ∧
    (s.accountOfNumber number = none ↔ ∀ i, ¬s.holdsNumber number i) := by
  have rising := (Tbl.wf_iff.1 h.accounts).1
  have factory (_ : Nat) : (Account.factory.cfg.valid && Account.factory.cfg.number == number) = false := rfl
  have holds (i : Nat) : ((Tbl.get Account.factory s.accounts i).cfg.valid &&
      (Tbl.get Account.factory s.accounts i).cfg.number == number) = true ↔ s.holdsNumber number i := by
    simp [State.holdsNumber, State.account]
  refine ⟨fun k => ?_, ?_⟩
  · refine (Tbl.find_iff (f := fun _ a => a.cfg.valid && a.cfg.number == number) rising factory k).trans (and_congr (holds k) (forall₂_congr fun i _ => ?_))
    exact Bool.eq_false_iff.trans (not_congr (holds i))
  · refine (Tbl.find_none_iff (f := fun _ a => a.cfg.valid && a.cfg.number == number) rising factory).trans (forall_congr' fun i => ?_)
    exact Bool.eq_false_iff.trans (not_congr (holds i))

/-- R7 step 3: the account found, or else the guest account of the hit when it is valid. -/
theorem State.accountFor_iff (h : s.TablesCanonical) (number hit k : Nat) :
    s.accountFor number hit = some k ↔ (s.holdsNumber number k ∧ ∀ i < k, ¬s.holdsNumber number i) ∨
      ((∀ i, ¬s.holdsNumber number i) ∧ (s.classEntry hit).guest = some k ∧ (s.account k).cfg.valid = true) := by
  obtain ⟨found, none⟩ := State.accountOfNumber_iff h number
  unfold State.accountFor
  cases e : s.accountOfNumber number with
  | none =>
    have all := none.1 e
    simp only [Option.filter_eq_some_iff]
    exact ⟨fun hg => .inr ⟨all, hg⟩, fun hg => hg.elim (fun hf => absurd hf.1 (all k)) fun hg => hg.2⟩
  | some i =>
    obtain ⟨hi, first⟩ := (found i).1 e
    rw [← found k, e]
    exact ⟨.inl, fun hg => hg.elim id fun hg => absurd hi (hg.1 i)⟩

/-! ### Tests of a JOB_OPEN in order (R7 to R9) -/

theorem all_isSome_iff {α : Type} (l : List (Option α)) : l.all Option.isSome = true ↔ none ∉ l := by
  induction l with
  | nil => simp
  | cons x l ih => cases x <;> simp [ih]

/-- R7 step 4. -/
theorem State.noHoldRoom_iff (k : Nat) : s.noHoldRoom k = true ↔ ((s.account k).cfg.heldCap ≤
    (s.account k).held.length + ((s.jobsOf k).filter (fun j => j.state == .receiving)).length ∨ 64 ≤ (s.jobsOf k).length) := by
  rw [State.noHoldRoom, Bool.or_eq_true, decide_eq_true_iff, decide_eq_true_iff]
  rfl

/-- R8: the size tests in order. -/
theorem sizeRefusal_eq (b : JobOpenBody) : b.sizeRefusal =
    if b.faces = 0 ∨ b.bytes = 0 then some .emptyJob
    else if 4000 < b.faces ∨ 99 < b.copies ∨ 67108864 < b.bytes then some .tooLarge else none := by
  simp [JobOpenBody.sizeRefusal, or_assoc]

/-- R7 to R9: the refusals of a JOB_OPEN in the order of the steps. -/
def State.refusals (s : State) (h : Hdr) (b : JobOpenBody) : List (Prop × Result) :=
  [((s.classEntry (s.hit h.src)).policy = .refuse, .notAccepted),
    (none ∉ s.jobs.contexts, .busy),
    (s.accountFor b.account (s.hit h.src) = none, .unknownAccount),
    (∃ k, s.accountFor b.account (s.hit h.src) = some k ∧ (s.account k).state ≠ .isOpen, .accountBlocked),
    (∃ k, s.accountFor b.account (s.hit h.src) = some k ∧ ((s.account k).cfg.heldCap ≤
      (s.account k).held.length + ((s.jobsOf k).filter (fun j => j.state == .receiving)).length
      ∨ 64 ≤ (s.jobsOf k).length), .holdLimit),
    (b.faces = 0 ∨ b.bytes = 0, .emptyJob),
    (4000 < b.faces ∨ 99 < b.copies ∨ 67108864 < b.bytes, .tooLarge),
    (s.spool.headroom < 1024 + ceilDiv b.bytes 4096, .spoolLow),
    (1024 ≤ s.jobs.recs.length, .busy)]

/-- What precedes the first test that holds has been passed. -/
theorem FirstOf.cons_iff {α : Type} (p : Prop) (a : α) (rest : List (Prop × α)) (r : α) :
    FirstOf ((p, a) :: rest) r ↔ (p ∧ r = a) ∨ (¬p ∧ FirstOf rest r) := Iff.rfl

theorem FirstOf.nil_iff {α : Type} (r : α) : FirstOf [] r ↔ False := Iff.rfl

/-- A JOB_OPEN is refused by the first test that fails. -/
theorem State.admission_refused {h : Hdr} {b : JobOpenBody} {r : Result} (hr : FirstOf (s.refusals h b) r) :
    s.admission h b = .inl r := by
  have need : Config.intakeReserve + b.need = 1024 + ceilDiv b.bytes 4096 := rfl
  unfold State.refusals at hr
  simp only [FirstOf.cons_iff, FirstOf.nil_iff] at hr
  unfold State.admission
  simp only [all_isSome_iff, State.noHoldRoom_iff, sizeRefusal_eq, need]
  split
  next c => simp_all
  next policy =>
  split
  next c => simp_all
  next context =>
  split
  next c => simp_all
  next k account =>
  simp only [account, Option.some.injEq, exists_eq_left'] at hr
  split
  next c => simp_all
  next state =>
  split
  next c => simp_all
  next room =>
  simp only [policy, context, state, room] at hr
  split
  next r' size =>
    split at size
    next c => simp_all
    next full =>
      split at size
      next c => simp_all
      next => exact nomatch size
  next size =>
    have full : ¬(b.faces = 0 ∨ b.bytes = 0) := fun c => by simp [c] at size
    have small : ¬(4000 < b.faces ∨ 99 < b.copies ∨ 67108864 < b.bytes) := fun c => by simp [full, c] at size
    simp only [full, small] at hr
    split
    next c => simp_all
    next headroom =>
      split
      next c =>
        have c : 1024 ≤ s.jobs.recs.length := c
        simp_all
      next records =>
        have records : ¬1024 ≤ s.jobs.recs.length := records
        simp_all

end

end Sys2Proof.Machine

/-! PROOFS. The intake of jobs: JOB_OPEN accepted and refused (R7 to R10), JOB_DATA (R12, R13), and the answers of job messages that
change no job (R12, R14, R19, R183). -/

namespace Sys2Proof.Machine

set_option Elab.async false

variable {s t u : State}

/-! ### A job message that is only answered -/

/-- R185: the room of the outgoing list while job messages are examined. -/
theorem JobReady.outgoing {h : Hdr} (hr : JobReady h s) : s.jobs.outgoing.length < 4096 := hr.room.trans (by decide)

/-- R12, R14, R19: a job message whose rule only answers it. -/
theorem jobMessage_answered {α : Type} {c : Instr} {h : Hdr} {x : α} {act : α → State → State} {g n : Nat} {r : Result}
    (hr : JobReady h s) (hc : exec c s = jobMessage h (some x) act s) (ha : act x s = s.jobReply h g r n) :
    ∃ t, exec c s = .next t ∧ JobSent s t [jobReplyTo s h g r n] ∧ ChangesOnly (jobTraffic ++ endOfStep) s t := by
  refine ⟨_, hc.trans (jobMessage_ready hr), ?_, ?_⟩
  · rw [JobSent, State.finish_jobMessages, ha, State.jobMessages_jobReply]
  · rw [ha]
    exact ((s.jobReply_moves h g r n hr.outgoing).mono.next (State.finish_moves _)).changesOnly

/-- Settles O11: a JOB_OPEN that is refused is only answered. -/
theorem jobOpenRefused : Obligations.JobOpenRefused := fun h b s r hr awake hf => by
  refine jobMessage_answered (x := b) (act := openJob h) hr rfl ?_
  unfold openJob
  rw [if_neg (by simp [awake]), State.admission_refused hf]

/-! ### JOB_OPEN accepted (R2, R7 to R10) -/

/-- R2: the tag that the allocator comes to is the first after the last issued that it finds free. -/
theorem State.freeTag_first (s : State) (n last : Nat) : ∃ m, s.freeTag n last = nextTag^[m + 1] last ∧
    ∀ i < m, (s.job (nextTag^[i + 1] last)).isSome := by
  induction n generalizing last with
  | zero => exact ⟨0, rfl, nofun⟩
  | succ n ih =>
    unfold State.freeTag
    split
    next held =>
      obtain ⟨m, hm, all⟩ := ih (nextTag last)
      refine ⟨m + 1, hm, fun i hi => ?_⟩
      cases i with
      | zero => exact held
      | succ i => exact all i (by omega)
    next => exact ⟨0, rfl, nofun⟩

/-- R10: the free receiving context of lowest index is taken (log 8). -/
theorem takeContext_first (x : Context) {l : List (Option Context)} (h : none ∈ l) :
    ∃ i, l[i]? = some none ∧ (∀ m < i, l[m]? ≠ some none) ∧ takeContext x l = l.set i (some x) := by
  induction l with
  | nil => exact nomatch h
  | cons c l ih =>
    cases c with
    | none => exact ⟨0, rfl, nofun, rfl⟩
    | some y =>
      obtain ⟨i, hi, first, e⟩ := ih (by simpa using h)
      refine ⟨i + 1, hi, fun m hm => ?_, by rw [takeContext, e]; rfl⟩
      cases m with
      | zero => simp
      | succ m => exact first m (by omega)

/-- R158: work abandons Settling; nothing but the mode changes. -/
theorem State.abandonSettling_eq (s : State) : s.abandonSettling =
    { s with clock := { s.clock with mode := if s.clock.mode = .settling then .running else s.clock.mode } } := by
  unfold State.abandonSettling
  split <;> rfl

/-- R8, R9: the sizes that pass. -/
theorem sizeRefusal_none {b : JobOpenBody} (h1 : 1 ≤ b.faces) (h2 : b.faces ≤ 4000) (h3 : b.copies ≤ 99) (h4 : 1 ≤ b.bytes)
    (h5 : b.bytes ≤ 67108864) : b.sizeRefusal = none := by
  rw [sizeRefusal_eq, if_neg (by omega), if_neg (by omega)]

/-- R7 to R9: a JOB_OPEN that passes every test is admitted. -/
theorem State.admission_accepted {h : Hdr} {b : JobOpenBody} {k : Nat}
    (policy : (s.classEntry (s.hit h.src)).policy ≠ .refuse) (context : none ∈ s.jobs.contexts)
    (account : s.accountFor b.account (s.hit h.src) = some k) (state : (s.account k).state = .isOpen)
    (room : s.noHoldRoom k = false) (size : b.sizeRefusal = none) (headroom : 1024 + ceilDiv b.bytes 4096 ≤ s.spool.headroom)
    (records : s.jobs.recs.length < 1024) : s.admission h b = .inr (k, s.hit h.src) := by
  have full : ¬ s.jobs.contexts.all Option.isSome = true := by rw [all_isSome_iff]; exact not_not.2 context
  have low : ¬ s.spool.headroom < Config.intakeReserve + b.need := Nat.not_lt.2 headroom
  have many : ¬ Config.jobRecords ≤ s.jobs.recs.length := Nat.not_le.2 records
  unfold State.admission
  simp [policy, full, account, state, room, size, low, many]

/-- R10: what the acceptance of a JOB_OPEN leaves before its answer. -/
def State.admitted (s : State) (h : Hdr) (b : JobOpenBody) (k hit tag : Nat) : State :=
  { s with
    jobs := { s.jobs with
      recs := s.jobs.recs ++ [b.record tag h.src k hit], lastTag := tag
      contexts := takeContext { tag := tag, idle := .running 120 } s.jobs.contexts }
    spool := { s.spool with promises := s.spool.promises + ceilDiv b.bytes 4096 }
    clock := { s.clock with mode := if s.clock.mode = .settling then .running else s.clock.mode } }

theorem State.acceptJob_eq (s : State) (h : Hdr) (b : JobOpenBody) (k hit : Nat) : s.acceptJob h b k hit =
    ((s.admitted h b k hit (s.freeTag s.jobs.recs.length s.jobs.lastTag)).jobReply h
      (s.freeTag s.jobs.recs.length s.jobs.lastTag) .ok 0).spoolLowTest := by
  unfold State.acceptJob
  dsimp only
  rw [State.abandonSettling_eq]
  rfl

/-- R8: the bounds of the declared counts. -/
theorem declared_bounds {faces copies : Nat} (h : faces ≤ 4000) (hc : copies ≤ 99) : faces * copies ≤ 396000 :=
  (Nat.mul_le_mul h hc).trans (by decide)

/-- R1, R8: the record of an accepted job, field by field. -/
theorem record_eq (b : JobOpenBody) (tag origin k hit : Nat) (h1 : 1 ≤ b.faces) (h2 : b.faces ≤ 4000) (h3 : b.copies ≤ 99) :
    ∃ fc n sheets, fc = min b.colourFaces b.faces ∧ n = (if b.copies = 0 then 1 else b.copies) ∧
      sheets = (if b.duplex then (b.faces + 1) / 2 else b.faces) ∧
      b.record tag origin k hit =
        { tag := tag, origin := origin, account := k, hit := hit
          declaredCounts := { tm := (b.faces - fc) * n, tc := fc * n, ts := sheets * n }, media := b.media
          target := if b.target = 0 then none else some b.target, name := if b.name = [] then none else some b.name
          declared := b.bytes, received := 0, chain := [], promise := ceilDiv b.bytes 4096, stamp := none, expiry := none
          state := .receiving, rates := none, reservation := none, charged := none, reported := none, sent := 0, allowed := 0
          interrupted := false, finish := .stopped } ∧
      1 ≤ (b.faces - fc) * n + fc * n ∧ (b.faces - fc) * n ≤ 396000 ∧ fc * n ≤ 396000 ∧ sheets * n ≤ 396000 ∧
      ((b.record tag origin k hit).colour = true ↔ 0 < fc * n) := by
  obtain ⟨fc, hfc⟩ : ∃ fc, fc = min b.colourFaces b.faces := ⟨_, rfl⟩
  obtain ⟨n, hn⟩ : ∃ n, n = (if b.copies = 0 then 1 else b.copies) := ⟨_, rfl⟩
  obtain ⟨sheets, hsheets⟩ : ∃ m, m = (if b.duplex then (b.faces + 1) / 2 else b.faces) := ⟨_, rfl⟩
  have faces : fc ≤ b.faces := hfc ▸ Nat.min_le_right _ _
  have copies : 1 ≤ n ∧ n ≤ 99 := by rw [hn]; split <;> omega
  have most : sheets ≤ 4000 := by rw [hsheets]; split <;> omega
  refine ⟨fc, n, sheets, hfc, hn, hsheets, ?_, ?_, declared_bounds (by omega) copies.2, declared_bounds (by omega) copies.2,
    declared_bounds most copies.2, ?_⟩
  · subst hfc hn hsheets
    simp only [JobOpenBody.record, List.isEmpty_iff]
    rfl
  · rw [← Nat.add_mul, Nat.sub_add_cancel faces]
    exact Nat.mul_pos h1 copies.1
  · subst hfc hn
    simp [Job.colour, JobOpenBody.record, JobOpenBody.declaredCounts]

/-- Settles O10: the tests passed, the record is made and answered, and the spool-low test follows. -/
theorem jobOpenAccepted : Obligations.JobOpenAccepted := by
  refine ⟨fun h b s k hr awake policy context account state held many h1 h2 h3 h4 h5 headroom records => ?_, record_eq,
    fun s station hw => ?_, fun s number hit k hw => s.accountFor_iff hw number hit k⟩
  · have room : s.noHoldRoom k = false :=
      Bool.eq_false_iff.2 fun h => by rw [State.noHoldRoom_iff] at h; omega
    have accepted : exec (.jobOpen h (some b)) s = .next (s.acceptJob h b k (s.hit h.src)).finish := by
      refine (jobMessage_ready (act := openJob h) hr).trans ?_
      unfold openJob
      rw [if_neg (by simp [awake]),
        State.admission_accepted policy context account state room (sizeRefusal_none h1 h2 h3 h4 h5) headroom records]
    have free := (s.freeTag_free (by omega) s.jobs.lastTag).1
    obtain ⟨n, first, taken⟩ := s.freeTag_first s.jobs.recs.length s.jobs.lastTag
    have whole := s.acceptJob_moves h b k (s.hit h.src) records (by
      have : b.need = ceilDiv b.bytes 4096 := rfl
      omega) hr.outgoing
    rw [State.acceptJob_eq] at accepted whole
    generalize s.freeTag s.jobs.recs.length s.jobs.lastTag = tag at *
    obtain ⟨v, hv⟩ : ∃ v, v = s.admitted h b k (s.hit h.src) tag := ⟨_, rfl⟩
    rw [← hv] at accepted whole
    have outgoing : v.jobs.outgoing.length < 4096 := by rw [hv]; exact hr.outgoing
    have reply := v.jobReply_moves h tag .ok 0 outgoing
    have rest : ChangesOnly (jobTraffic ++ ([Piece.spoolLow] ++ noticeTraffic) ++ endOfStep) v
        ((v.jobReply h tag .ok 0).spoolLowTest).finish :=
      ((reply.mono.next (State.spoolLowTest_moves _)).next (State.finish_moves _)).changesOnly
    refine ⟨_, tag, n, accepted, first, taken, free, ?_, ?_, ?_, ?_, ?_, ?_, ?_, ?_⟩
    · rw [rest .tagAllocator (by decide), hv]; rfl
    · rw [rest .jobRecords (by decide), hv]; rfl
    · rw [rest .promises (by decide), hv]; rfl
    · rw [rest .contexts (by decide), hv]
      exact takeContext_first _ context
    · rw [JobSent, State.finish_jobMessages, State.jobMessages_spoolLowTest, State.jobMessages_jobReply, hv]; rfl
    · obtain ⟨x, hx⟩ := v.jobSend_own (v.form h.src tag h.reqTag (.jobReply .ok 0))
      have told : SpoolLowTold (v.jobReply h tag .ok 0) (v.jobReply h tag .ok 0).spoolLowTest := State.spoolLowTest_told
      refine SpoolLowTold.finish (SpoolLowTold.widen told ?_ (x := x) ?_ (y := []) ?_ ?_ rfl rfl rfl (x' := []) ?_ (y' := []) ?_
        id)
      · rw [reply.changesOnly .spoolLow (by decide), hv]; rfl
      · rw [State.jobReply, hx, hv]; rfl
      · rw [State.jobReply, State.jobSend_console, hv]; simp [State.admitted]
      · rw [State.jobReply, State.jobSend_settings, hv]; rfl
      · simp
      · simp
    · rw [rest .clock (by decide), hv]; rfl
    · exact (whole.mono.next (State.finish_moves _)).changesOnly
  · have := State.hit_first hw station
    simp only [ClassEntry.isMatch_iff, ← Bool.not_eq_true] at this
    exact this

/-! ### JOB_DATA accepted (R12, R13) -/

/-- R13: byte `i` of a job's data has an address while it lies within the chain. -/
theorem spoolAddress_some {chain : List Nat} {i : Nat} (h : i < chain.length * 4096) : ∃ a, spoolAddress chain i = some a := by
  have inside : i / Config.segmentBytes < chain.length := Nat.div_lt_of_lt_mul (by rw [Nat.mul_comm]; exact h)
  exact ⟨_, by rw [spoolAddress, List.getElem?_eq_getElem inside]; rfl⟩

/-- R15: no segment stands twice in a job's chain. -/
theorem State.SegmentsAccounted.chain_nodup (h : s.SegmentsAccounted) {g : Nat} {j : Job} (hj : s.job g = some j) :
    j.chain.Nodup := by
  have all : (s.spool.freeList ++ s.jobs.recs.flatMap Job.chain).Nodup := h.segments.nodup_iff.2 List.nodup_range
  refine all.of_append_right.sublist ?_
  obtain ⟨a, b, hab⟩ := List.append_of_mem (s.mem_of_job hj)
  rw [hab]
  simp only [List.flatMap_append, List.flatMap_cons]
  exact (List.sublist_append_left _ _).trans (List.sublist_append_right _ _)

/-- R13: the records and the spool after the data of a job have extended it: a segment is taken when they reach beyond the
chain. -/
structure Extended (s t : State) (j k : Job) (n : Nat) : Prop where
  job : t.job j.tag = some k
  others : OtherJobs j.tag s t
  more : j.chain.length * 4096 < j.received + n → ∃ g, s.spool.freeList = g :: t.spool.freeList ∧
    t.spool.promises + 1 = s.spool.promises ∧
    k = { j with received := j.received + n, chain := j.chain ++ [g], promise := j.promise - 1 }
  within : ¬j.chain.length * 4096 < j.received + n → t.spool = s.spool ∧ k = { j with received := j.received + n }

theorem State.Covered.extended (h : s.Covered) {j : Job} {n : Nat} (hj : s.job j.tag = some j)
    (hs : j.state = .receiving) (hd : j.received + n ≤ j.declared) : ∃ k, Extended s (s.extendJob j n) j k n := by
  have raise (v : State) (k : Job) (hk : v.job j.tag = some k) :
      (v.updJob j.tag fun x => { x with received := x.received + n }).job j.tag =
        some { k with received := k.received + n } := by
    rw [State.job_updJob, if_pos rfl, hk]
    · rfl
    · exact fun _ => rfl
  have lower (v : State) (x : Nat) (hx : x ≠ j.tag) :
      (v.updJob j.tag fun x => { x with received := x.received + n }).job x = v.job x := by
    rw [State.job_updJob, if_neg hx]
    exact fun _ => rfl
  unfold State.extendJob Config.segmentBytes
  split
  next reach =>
    obtain ⟨a, b, hab, hne⟩ := State.recs_split h.1.tags hj
    have held := State.promisesCovered_iff.1 h.2
    rw [hab] at held
    have count := held.count
    have covered := held.covered
    have sound := held.jobs j (by simp)
    have promise := sound.promise hs
    have most := ceilDiv_mono 4096 hd
    have need : j.chain.length < ceilDiv (j.received + n) 4096 := by
      have := le_mul_ceilDiv (b := 4096) (j.received + n) (by decide)
      omega
    simp only [List.map_append, List.map_cons, List.sum_append, List.sum_cons] at count
    unfold State.takeSegment
    cases e : takeHead s.spool.free with
    | none =>
      have none : s.spool.freeList = [] := takeHead_none e
      rw [none] at covered
      simp only [List.length_nil] at covered
      omega
    | some x =>
      obtain ⟨g, rest⟩ := x
      obtain ⟨v, hv⟩ : ∃ v : State, v = { s with spool := { s.spool with free := rest, promises := s.spool.promises - 1 } } :=
        ⟨_, rfl⟩
      have hvj (x : Nat) : v.job x = s.job x := by rw [hv]; rfl
      dsimp only
      rw [← hv]
      have chained := State.job_updJob v j.tag (fun j => { j with chain := j.chain ++ [g], promise := j.promise - 1 })
        (fun _ => rfl)
      refine ⟨_, raise _ _ (by rw [chained, if_pos rfl, hvj, hj]; rfl), fun x hx => ?_,
        fun _ => ⟨g, ?_, ?_, rfl⟩, fun hn => absurd reach hn⟩
      · exact (lower _ x hx).trans (by rw [chained, if_neg hx, hvj])
      · rw [State.updJob_spool, State.updJob_spool, hv]
        exact takeHead_some e
      · simp only [State.updJob_spool, hv]
        omega
  next reach =>
    exact ⟨_, raise _ _ hj, lower s,
      fun hr => absurd hr reach, fun _ => ⟨rfl, rfl⟩⟩

/-- R12: the receive idle timer of a job's context starts over. -/
theorem State.restartReceiveIdle_contexts (s : State) (g : Nat) : (s.restartReceiveIdle g).jobs.contexts =
    s.jobs.contexts.map (Option.map (fun x => if x.tag = g then { x with idle := .running 120 } else x)) := by
  refine List.map_congr_left fun c _ => ?_
  cases c with
  | none => rfl
  | some x =>
    dsimp only [Option.map]
    split <;> rfl

/-- R12: a JOB_DATA that passes every test. -/
theorem takeData_accepted {h : Hdr} {d : JobDataBody} {j : Job} (hj : s.jobFrom h = some j) (hs : j.state = .receiving)
    (offset : d.offset = j.received) (hd : d.offset + d.data.length ≤ j.declared) (h1 : 1 ≤ d.data.length)
    (h2 : d.data.length ≤ 1400) :
    takeData h d s = (s.acceptData j d).jobReply h h.jobTag .ok (j.received + d.data.length) := by
  have fits : dataFits d = true := decide_eq_true ⟨h1, h2⟩
  unfold takeData
  simp [fits, hj, hs, offset, Nat.not_lt.2 (offset ▸ hd)]

/-- R12: the job of a message, when its origin is the source station. -/
theorem State.jobFrom_eq {h : Hdr} {j : Job} (hj : s.job h.jobTag = some j) (ho : j.origin = h.src) :
    s.jobFrom h = some j := by
  simp [State.jobFrom, hj, ho]

/-- Settles O12: the data extend the job, and then its bytes are written. -/
theorem jobDataAccepted : Obligations.JobDataAccepted := by
  intro h d s j hr hjob origin receiving offset declared h1 h2 segments promises more
  have tag : j.tag = h.jobTag := s.tag_of_job hjob
  have hj : s.job j.tag = some j := tag ▸ hjob
  have whole := s.acceptData_moves j d hj receiving (offset ▸ declared) h2
  have accepted : exec (.jobData h (some d)) s =
      .next ((s.acceptData j d).jobReply h h.jobTag .ok (j.received + d.data.length)).finish := by
    rw [← takeData_accepted (State.jobFrom_eq hjob origin) receiving offset declared h1 h2]
    exact jobMessage_ready (act := takeData h) hr
  obtain ⟨k, ext⟩ := State.Covered.extended ⟨segments, promises⟩ hj receiving (offset ▸ declared)
  have chain : ((s.extendJob j d.data.length).job j.tag).map Job.chain = some k.chain := by rw [ext.job]; rfl
  have nodup : k.chain.Nodup := State.SegmentsAccounted.chain_nodup
    ((Move.extend s j d.data.length hj receiving (offset ▸ declared) h2).keeps_segments segments) ext.job
  have sound := promises.jobs j (s.mem_of_job hj)
  have length : k.chain.length = ceilDiv (j.received + d.data.length) 4096 := by
    rw [ceilDiv_received sound.chain h2]
    split
    next reach =>
      obtain ⟨g, -, -, e⟩ := ext.more reach
      rw [e]; simp
    next reach => rw [(ext.within reach).2]
  have inside (n : Nat) (hn : n < d.data.length) : ∃ a, spoolAddress k.chain (d.offset + n) = some a := by
    refine spoolAddress_some ?_
    have := le_mul_ceilDiv (b := 4096) (j.received + d.data.length) (by decide)
    omega
  obtain ⟨v, hv⟩ : ∃ v, v = s.acceptData j d := ⟨_, rfl⟩
  have spool : v.spool = { (s.extendJob j d.data.length).spool with
      mem := writeData k.chain d.data d.offset s.spool.mem } := by
    have mem : (s.extendJob j d.data.length).spool.mem = s.spool.mem := by
      obtain ⟨f, m, r, e⟩ := s.extendJob_eq j d.data.length
      rw [e]
    rw [hv, State.acceptData, chain, ← mem]; rfl
  have job (g : Nat) : v.job g = (s.extendJob j d.data.length).job g := by rw [hv]; rfl
  have reply := v.jobReply_moves h h.jobTag .ok (j.received + d.data.length) (by
    rw [hv]; exact whole.outgoing_room hr.outgoing)
  have rest := (reply.mono.next (State.finish_moves _) (l := jobTraffic ++ endOfStep)).changesOnly
  rw [← hv] at accepted whole
  obtain ⟨w, hw⟩ : ∃ w, w = (v.jobReply h h.jobTag .ok (j.received + d.data.length)).finish := ⟨_, rfl⟩
  rw [← hw] at accepted rest
  have free : w.spool.freeList = (s.extendJob j d.data.length).spool.freeList := by
    rw [freeList_eq, rest .freeSegments (by decide), spool, freeList_eq]
  have count : w.spool.promises = (s.extendJob j d.data.length).spool.promises := by
    rw [rest .promises (by decide), spool]
  have mem : w.spool.mem = writeData k.chain d.data d.offset s.spool.mem := by
    rw [rest .spoolBytes (by decide), spool]
  have records (g : Nat) : w.job g = (s.extendJob j d.data.length).job g :=
    (State.job_congr (rest .jobRecords (by decide)) g).trans (job g)
  refine ⟨w, k.chain, accepted, ?_, length, fun reach => ?_, fun reach => ?_, fun n x hx => ?_, fun a ha => ?_, ?_, ?_, ?_, ?_⟩
  · rw [records, ← tag, ext.job]
    split
    next reach =>
      obtain ⟨g, -, -, e⟩ := ext.more (offset ▸ reach)
      rw [e]
    next reach => rw [(ext.within (offset ▸ reach)).2]
  · obtain ⟨g, taken, promised, e⟩ := ext.more (offset ▸ reach)
    exact ⟨g, by rw [taken, free], by rw [e], by rw [count]; exact promised⟩
  · obtain ⟨same, e⟩ := ext.within (offset ▸ reach)
    exact ⟨by rw [free, same], by rw [e], by rw [count, same]⟩
  · obtain ⟨hn, rfl⟩ := List.getElem?_eq_some_iff.1 hx
    obtain ⟨a, ha⟩ := inside n hn
    exact ⟨a, ha, by rw [mem]; exact memRead_writeData nodup d.data d.offset s.spool.mem n hn ha⟩
  · rw [mem]
    exact memRead_writeData_of_ne _ _ _ _ _ ha
  · have contexts : (s.extendJob j d.data.length).jobs.contexts = s.jobs.contexts := by
      obtain ⟨f, m, r, e⟩ := s.extendJob_eq j d.data.length
      rw [e]
    rw [rest .contexts (by decide), hv, State.acceptData, State.restartReceiveIdle_contexts, tag]
    exact congrArg _ contexts
  · rw [JobSent, hw, State.finish_jobMessages, State.jobMessages_jobReply, State.jobMessages_congr
      (whole.changesOnly .officeOwn (by decide)) (whole.changesOnly .outgoing (by decide))]
    have settings : v.settings = s.settings := whole.changesOnly .settings (by decide)
    simp [jobReplyTo, settings]
  · intro g hg
    rw [records]
    exact ext.others g (tag ▸ hg)
  · rw [hw]
    exact ((whole.mono.next reply).next (State.finish_moves _)).changesOnly

/-! ### Answers that change no job (R12, R14, R19, R183) -/

/-- R12: no record of the tag is of the message's source. -/
theorem State.jobFrom_none {h : Hdr} (hn : ∀ j, s.job h.jobTag = some j → j.origin ≠ h.src) : s.jobFrom h = none := by
  unfold State.jobFrom
  cases e : s.job h.jobTag with
  | none => rfl
  | some j => simp [Option.filter, hn j e]

/-- R12: and else the message has its job. -/
theorem State.jobFrom_of_not {h : Hdr} (hn : ¬∀ j, s.job h.jobTag = some j → j.origin ≠ h.src) :
    ∃ j, s.job h.jobTag = some j ∧ s.jobFrom h = some j := by
  push Not at hn
  obtain ⟨j, hj, ho⟩ := hn
  exact ⟨j, hj, State.jobFrom_eq hj ho⟩

theorem dataFits_iff (d : JobDataBody) : dataFits d = true ↔ ¬(d.data.length = 0 ∨ 1400 < d.data.length) := by
  unfold dataFits Config.dataBytes
  rw [decide_eq_true_iff]
  omega

/-- R12, R183: the answers of a JOB_DATA that changes no job. -/
theorem takeData_refused {h : Hdr} {d : JobDataBody} {r : Result} {n : Nat}
    (hf : FirstOf
      [(d.data.length = 0 ∨ 1400 < d.data.length, (Result.badLength, 0)),
        (∀ j, s.job h.jobTag = some j → j.origin ≠ h.src, (.noSuchJob, 0)),
        (∃ j, s.job h.jobTag = some j ∧ j.state ≠ .receiving, (.tooLate, 0)),
        (∃ j, s.job h.jobTag = some j ∧ d.offset ≠ j.received, (.outOfOrder, ((s.job h.jobTag).map Job.received).getD 0)),
        (∃ j, s.job h.jobTag = some j ∧ j.declared < d.offset + d.data.length, (.tooLarge, 0))] (r, n)) :
    takeData h d s = s.jobReply h h.jobTag r n := by
  simp only [FirstOf.cons_iff, FirstOf.nil_iff, Prod.mk.injEq] at hf
  unfold takeData
  rcases hf with ⟨c, rfl, rfl⟩ | ⟨fits, hf⟩
  · rw [if_neg ((dataFits_iff d).not.2 (not_not.2 c))]
  rw [if_pos ((dataFits_iff d).2 fits)]
  rcases hf with ⟨c, rfl, rfl⟩ | ⟨own, hf⟩
  · rw [State.jobFrom_none c]
  obtain ⟨j, hj, from_⟩ := State.jobFrom_of_not own
  rw [from_]
  simp only [hj, Option.some.injEq, exists_eq_left', Option.map_some, Option.getD_some] at hf
  rcases hf with ⟨c, rfl, rfl⟩ | ⟨state, ⟨c, rfl, rfl⟩ | ⟨order, ⟨c, rfl, rfl⟩ | hf⟩⟩
  · simp only [if_pos c]
  · simp only [if_neg state, if_pos c]
  · simp only [if_neg state, if_neg order, if_pos c]
  · exact hf.2.elim

/-- R14: the answers of a JOB_CLOSE that changes no job. -/
theorem closeJob_refused {h : Hdr} {total : Nat} {r : Result} {n : Nat}
    (hf : FirstOf
      [(∀ j, s.job h.jobTag = some j → j.origin ≠ h.src, (Result.noSuchJob, 0)),
        (∃ j, s.job h.jobTag = some j ∧ j.state ≠ .receiving ∧ total = j.received, (.ok, 0)),
        (∃ j, s.job h.jobTag = some j ∧ j.state ≠ .receiving, (.noSuchJob, 0)),
        (∃ j, s.job h.jobTag = some j ∧ total ≠ j.received, (.outOfOrder, ((s.job h.jobTag).map Job.received).getD 0))]
      (r, n)) : closeJob h total s = s.jobReply h h.jobTag r n := by
  simp only [FirstOf.cons_iff, FirstOf.nil_iff, Prod.mk.injEq] at hf
  unfold closeJob
  rcases hf with ⟨c, rfl, rfl⟩ | ⟨own, hf⟩
  · rw [State.jobFrom_none c]
  obtain ⟨j, hj, from_⟩ := State.jobFrom_of_not own
  rw [from_]
  simp only [hj, Option.some.injEq, exists_eq_left', Option.map_some, Option.getD_some] at hf
  rcases hf with ⟨⟨c, e⟩, rfl, rfl⟩ | ⟨known, ⟨c, rfl, rfl⟩ | ⟨state, ⟨c, rfl, rfl⟩ | hf⟩⟩
  · simp only [if_pos c, if_pos e]
  · simp only [if_pos c, if_neg fun e => known ⟨c, e⟩]
  · simp only [if_neg state, if_pos c]
  · exact hf.2.elim

/-- R19: the answers of a JOB_CANCEL that changes no job. -/
theorem cancelJob_refused {h : Hdr} {r : Result} {n : Nat}
    (hf : FirstOf
      [(∀ j, s.job h.jobTag = some j → j.origin ≠ h.src, (Result.noSuchJob, 0)),
        (∃ j, s.job h.jobTag = some j ∧ j.state = .finishing, (.tooLate, 0))] (r, n)) :
    cancelJob h s = s.jobReply h h.jobTag r n := by
  simp only [FirstOf.cons_iff, FirstOf.nil_iff, Prod.mk.injEq] at hf
  unfold cancelJob
  rcases hf with ⟨c, rfl, rfl⟩ | ⟨own, hf⟩
  · rw [State.jobFrom_none c]
  obtain ⟨j, hj, from_⟩ := State.jobFrom_of_not own
  rw [from_]
  simp only [hj, Option.some.injEq, exists_eq_left'] at hf
  rcases hf with ⟨c, rfl, rfl⟩ | hf
  · simp only [c]
  · exact hf.2.elim

/-- Settles O13: each of these messages is only answered. -/
theorem jobMessagesRefused : Obligations.JobMessagesRefused := fun h _ _ _ hr =>
  ⟨fun d hf => jobMessage_answered (x := d) (act := takeData h) hr rfl (takeData_refused hf),
    fun total hf => jobMessage_answered (x := total) (act := closeJob h) hr rfl (closeJob_refused hf),
    fun hf => jobMessage_answered (x := ()) (act := fun _ => cancelJob h) hr rfl (cancelJob_refused hf)⟩

end Sys2Proof.Machine

/-! PROOFS. The end of a job (R3): what it leaves of the records, the spool, the contexts, the collections and the messages, said once
for a job in each state. -/

namespace Sys2Proof.Machine

set_option Elab.async false

variable {s t u : State}

/-! ### Leaving a Delivery Queue (R85, R88) -/

@[simp] theorem State.mark_printer (s : State) (n p : Nat) : (s.mark n).printer p = s.printer p := by
  rw [State.printer, State.mark_printers]; rfl

/-- R85, R88: an entry whose queue a job has left; it becomes Parked when it was Parking and is empty. -/
theorem State.printer_unqueue_self (s : State) (p g : Nat) : (s.unqueue p g).printer p = (s.printer p).without g := by
  unfold State.unqueue State.parkIfEmpty State.becomeParked PrinterOf.without
  simp only [State.printer_updPrinter, if_true, List.isEmpty_iff, Bool.and_eq_true, decide_eq_true_eq]
  split
  next h => simp only [State.mark_printer, State.printer_updPrinter, if_true, h.2]
  next h => simp only [State.printer_updPrinter, if_true]

/-! ### The records, the spool and the context of a job that ends -/

/-- R3: the state once the record of a job, its chain, its promise and its context are gone. -/
def State.released (s : State) (j : Job) : State := ((s.freeSpool j).dropJob j.tag).freeContext j.tag

theorem State.endJob_steps (s : State) (j : Job) (why : EndReason) : s.endJob j why =
    (((s.released j).leaveCollection j).jobStatus j .ended (if j.state.inDelivery then s.queueOf j.tag else none)
      (some why) j.charged).spoolLowTest := State.endJob_eq s j why

theorem State.freeContext_contexts (s : State) (g : Nat) :
    (s.freeContext g).jobs.contexts = s.jobs.contexts.map (fun c => c.filter (fun x => x.tag ≠ g)) := by
  refine List.map_congr_left fun c _ => ?_
  cases c with
  | none => rfl
  | some x => by_cases h : x.tag = g <;> simp [Option.filter, h]

/-- R3: what follows the leaving of the collection: the JOB_STATUS and the spool-low test. -/
theorem State.endJob_rest (s : State) (j : Job) (why : EndReason) :
    Moves (jobTraffic ++ ([Piece.spoolLow] ++ noticeTraffic)) ((s.released j).leaveCollection j) (s.endJob j why) := by
  rw [State.endJob_steps]
  exact (State.jobStatus_moves ..).mono.next (State.spoolLowTest_moves _)

/-- R3: the leaving of the collection and what follows. -/
theorem State.endJob_after (s : State) (j : Job) (why : EndReason) :
    Moves ([Piece.accounts, .printers, .storeWriting] ++ (jobTraffic ++ ([Piece.spoolLow] ++ noticeTraffic))) (s.released j)
      (s.endJob j why) := (State.leaveCollection_moves _ j).mono.next (State.endJob_rest s j why)

/-- Only the Job Table, the spool and the contexts are changed so far. -/
theorem State.released_frame (s : State) (j : Job) :
    ChangesOnly [Piece.jobRecords, .contexts, .freeSegments, .promises] s (s.released j) := by
  intro x hx
  cases x <;> first | exact rfl | exact ⟨rfl, rfl⟩ | exact ⟨rfl, rfl, rfl⟩ | exact ⟨rfl, rfl, rfl, rfl⟩ | exact absurd (by simp) hx

/-- R16: the spool-low test is told after other messages and notices, and to a state that sends more. -/
theorem SpoolLowTold.after {s' : State} (h : SpoolLowTold s' t) (low : s'.spool.low = s.spool.low)
    (own : ∃ x, s'.oport.own = s.oport.own ++ x) (notices : ∃ y, s'.console.notices = s.console.notices ++ y)
    (settings : s'.settings = s.settings) : SpoolLowTold s t := by
  obtain ⟨x, hx⟩ := own
  obtain ⟨y, hy⟩ := notices
  exact h.widen low hx hy settings rfl rfl rfl (x' := []) (List.append_nil _).symm (y' := []) (List.append_nil _).symm id

/-- R3: a job has ended: its record, chain, promise and context are gone. -/
theorem State.endJob_ended (s : State) (j : Job) (why : EndReason) : JobEnded s (s.endJob j why) j := by
  have after := (s.endJob_after j why).changesOnly
  have leaving := (State.leaveCollection_moves (s.released j) j).changesOnly
  refine ⟨after .jobRecords (by decide), ?_, after .promises (by decide), ?_, ?_⟩
  · rw [freeList_eq, after .freeSegments (by decide)]
    exact runsList_pushChain _ _
  · rw [after .contexts (by decide)]
    exact State.freeContext_contexts _ _
  · rw [State.endJob_steps]
    obtain ⟨x, hx⟩ := State.jobStatus_own (s := (s.released j).leaveCollection j) j .ended
      (if j.state.inDelivery then s.queueOf j.tag else none) (some why) j.charged
    refine SpoolLowTold.after State.spoolLowTest_told ?_ ⟨x, ?_⟩ ⟨[], ?_⟩ ?_
    · rw [(State.jobStatus_moves ..).changesOnly .spoolLow (by decide), leaving .spoolLow (by decide)]; rfl
    · rw [hx, leaving .officeOwn (by decide)]; rfl
    · rw [State.jobStatus_console, leaving .notices (by decide), List.append_nil]; rfl
    · rw [State.jobStatus_settings, leaving .settings (by decide)]; rfl

/-- R3, R4: the origin is told of the end. -/
theorem State.endJob_sent (j : Job) (why : EndReason) (h : s.jobs.outgoing.length < 4096) :
    JobSent s (s.endJob j why)
      [statusOf s j .ended (if j.state.inDelivery then s.queueOf j.tag else none) (some why) j.charged] := by
  have leaving := (State.leaveCollection_moves (s.released j) j).changesOnly
  have room : ((s.released j).leaveCollection j).jobs.outgoing.length < 4096 := by
    rw [leaving .outgoing (by decide)]; exact h
  have settings : ((s.released j).leaveCollection j).settings = s.settings := leaving .settings (by decide)
  rw [State.endJob_steps, JobSent, State.jobMessages_spoolLowTest, State.jobMessages_jobStatus _ _ _ _ _ room,
    State.jobMessages_congr (s := s) (leaving .officeOwn (by decide)) (leaving .outgoing (by decide))]
  simp [statusOf, settings]

/-! ### The collection of a job that ends -/

/-- The pieces that every end of a job reaches. -/
def endedPieces : List Piece := [.jobRecords, .contexts, .freeSegments, .promises, .spoolLow] ++ jobTraffic ++ noticeTraffic

theorem State.endJob_frame (s : State) (j : Job) (why : EndReason) {l : List Piece}
    (h : ChangesOnly l (s.released j) ((s.released j).leaveCollection j)) :
    ChangesOnly (l ++ endedPieces) s (s.endJob j why) :=
  (((s.released_frame j).mono (fun p hp => List.mem_append_right _ (by revert p hp; decide))).trans
    (h.mono fun p hp => List.mem_append_left _ hp)).trans
    ((s.endJob_rest j why).changesOnly.mono fun p hp => List.mem_append_right _ (by revert p hp; decide))

/-- R3: a Receiving job is in no collection. -/
theorem State.endJob_receiving (s : State) {j : Job} (why : EndReason) (h : j.state = .receiving) :
    ChangesOnly endedPieces s (s.endJob j why) := by
  refine s.endJob_frame j why (l := []) ?_
  rw [State.leaveCollection, h]
  exact ChangesOnly.refl _ _

/-- R3, R37: a Held job leaves its account's Held List. -/
theorem State.endJob_held (s : State) {j : Job} (why : EndReason) (h : j.state = .held) :
    (s.endJob j why).account j.account =
        { s.account j.account with held := (s.account j.account).held.filter (· ≠ j.tag) } ∧
      OtherAccounts j.account s (s.endJob j why) ∧ ChangesOnly ([Piece.accounts] ++ endedPieces) s (s.endJob j why) := by
  have leave : (s.released j).leaveCollection j = (s.released j).unhold j.account j.tag := by rw [State.leaveCollection, h]
  have accounts (k : Nat) : (s.endJob j why).account k = ((s.released j).unhold j.account j.tag).account k := by
    rw [← leave]
    exact State.account_congr ((s.endJob_rest j why).changesOnly .accounts (by decide)) k
  refine ⟨?_, fun k hk => ?_, s.endJob_frame j why (l := [.accounts]) ?_⟩
  · rw [accounts, State.unhold, State.account_setAccount, if_pos rfl]; rfl
  · rw [accounts, State.unhold, State.account_setAccount, if_neg hk]; rfl
  · rw [leave]
    exact (State.unhold_moves _ _ _).changesOnly

/-- R3, R88: a job in delivery leaves its Delivery Queue. -/
theorem State.endJob_delivery (s : State) {j : Job} {p : Nat} (why : EndReason) (h : j.state.inDelivery = true)
    (hp : s.queueOf j.tag = some p) :
    (s.endJob j why).printer p = (s.printer p).without j.tag ∧ OtherPrinters p s (s.endJob j why) ∧
      ChangesOnly ([Piece.printers, .storeWriting] ++ endedPieces) s (s.endJob j why) := by
  have queue : (s.released j).queueOf j.tag = some p := hp
  have leave : (s.released j).leaveCollection j = (s.released j).unqueue p j.tag := by
    unfold State.leaveCollection
    cases hs : j.state <;> first | exact absurd h (by rw [hs]; decide) | simp only [queue]
  have printers (i : Nat) : (s.endJob j why).printer i = ((s.released j).unqueue p j.tag).printer i := by
    rw [← leave]
    exact State.printer_congr ((s.endJob_rest j why).changesOnly .printers (by decide)) i
  refine ⟨?_, fun i hi => ?_, s.endJob_frame j why (l := [.printers, .storeWriting]) ?_⟩
  · rw [printers, State.printer_unqueue_self]; rfl
  · rw [printers, State.printer_unqueue _ _ _ hi]; rfl
  · rw [leave]
    exact (State.unqueue_moves _ _ _).changesOnly

/-- R3: the end of the job that a tag names. -/
theorem State.endTag_job {g : Nat} {j : Job} (why : EndReason) (h : s.job g = some j) : s.endTag g why = s.endJob j why := by
  rw [State.endTag, h]

/-! ### The end of a job seen from before and after it -/

/-- What comes before the end of a job and touches neither the other records nor the spool, nor takes a message away. -/
structure Prelude (s s' : State) (g : Nat) : Prop where
  recs : s'.jobs.recs.filter (fun x => x.tag ≠ g) = s.jobs.recs.filter (fun x => x.tag ≠ g)
  contexts : s'.jobs.contexts = s.jobs.contexts
  spool : s'.spool = s.spool
  own : ∃ x, s'.oport.own = s.oport.own ++ x
  notices : ∃ y, s'.console.notices = s.console.notices ++ y
  settings : s'.settings = s.settings

theorem JobEnded.after {s' : State} {j : Job} (h : JobEnded s' t j) (hp : Prelude s s' j.tag) : JobEnded s t j :=
  ⟨h.record.trans hp.recs, by rw [h.chain, hp.spool], by rw [h.promise, hp.spool], by rw [h.context, hp.contexts],
    h.low.after (by rw [hp.spool]) hp.own hp.notices hp.settings⟩

theorem JobEnded.finish {j : Job} (h : JobEnded s t j) : JobEnded s t.finish j :=
  ⟨by rw [State.finish_recs, h.record], by rw [State.finish_spool, h.chain], by rw [State.finish_spool, h.promise],
    by rw [State.finish_contexts, h.context], h.low.finish⟩

/-- R185: an answer of the Job Table comes before. -/
theorem Prelude.of_jobReply (s : State) (h : Hdr) (g : Nat) (r : Result) (n tag : Nat) (ho : s.jobs.outgoing.length < 4096) :
    Prelude s (s.jobReply h g r n) tag := by
  have frame := (s.jobReply_moves h g r n ho).changesOnly
  obtain ⟨x, hx⟩ := s.jobSend_own (s.form h.src g h.reqTag (.jobReply r n))
  refine ⟨congrArg _ (frame .jobRecords (by decide)), frame .contexts (by decide), ?_, ⟨x, hx⟩, ⟨[], ?_⟩,
    frame .settings (by decide)⟩
  · unfold State.jobReply State.jobSend
    split <;> rfl
  · rw [List.append_nil]; exact frame .notices (by decide)

theorem JobSent.trans {a b : List OwnMsg} (h : JobSent s t a) (h' : JobSent t u b) : JobSent s u (a ++ b) := by
  rw [JobSent, h', h, List.append_assoc]

theorem JobSent.finish {a : List OwnMsg} (h : JobSent s t a) : JobSent s t.finish a := by
  rw [JobSent, State.finish_jobMessages, h]

theorem JobSent.refl (s : State) : JobSent s s [] := (List.append_nil _).symm

/-- R181: messages formed under the same settings are the same. -/
theorem statusOf_congr (h : t.settings = s.settings) (j : Job) (e : JobEvent) (p : Option Nat) (why : Option EndReason)
    (charged : Option Nat) : statusOf t j e p why charged = statusOf s j e p why charged := by
  simp only [statusOf, h]

theorem jobReplyTo_congr (hs : t.settings = s.settings) (h : Hdr) (g : Nat) (r : Result) (n : Nat) :
    jobReplyTo t h g r n = jobReplyTo s h g r n := by
  simp only [jobReplyTo, hs]

theorem State.jobReply_sent (s : State) (h : Hdr) (g : Nat) (r : Result) (n : Nat) :
    JobSent s (s.jobReply h g r n) [jobReplyTo s h g r n] := State.jobMessages_jobReply ..

theorem State.outgoing_jobReply_le (s : State) (h : Hdr) (g : Nat) (r : Result) (n : Nat) :
    (s.jobReply h g r n).jobs.outgoing.length ≤ s.jobs.outgoing.length + 1 := State.outgoing_jobSend_le _

/-- A frame loses the pieces that are shown to be kept. -/
theorem ChangesOnly.without {l : List Piece} (h : ChangesOnly l s t) (x : Piece) (hx : x.same s t) :
    ChangesOnly (l.filter (· ≠ x)) s t := by
  intro y hy
  by_cases e : y = x
  · exact e ▸ hx
  · exact h y fun hl => hy (List.mem_filter.2 ⟨hl, by simpa using e⟩)

end Sys2Proof.Machine

/-! PROOFS. Jobs before their release: the messages and expiries that end them (R3, R11, R14, R19, R20), and the close that holds
them, with the direct path (R14, R17, R76, R77). -/

namespace Sys2Proof.Machine

set_option Elab.async false

variable {s t u : State}

/-! ### Later states -/

/-- The spool-low condition stays told while the spool is left alone and notices are only added to. -/
theorem SpoolLowTold.later {l : List Piece} (h : SpoolLowTold s t) (m : Moves l t u)
    (hl : [Piece.freeSegments, .promises, .spoolLow, .notices, .sticky, .officeOther].all
      (fun p => !l.contains p) = true := by decide) : SpoolLowTold s u := by
  have out (p : Piece) (hp : p ∈ [Piece.freeSegments, .promises, .spoolLow, .notices, .sticky, .officeOther]) : p ∉ l := by
    simpa using List.all_eq_true.1 hl p hp
  have frame := m.changesOnly
  obtain ⟨x, hx⟩ := m.officeOwn_grows (out _ (by decide))
  refine h.widen rfl (x := []) (List.append_nil _).symm (y := []) (List.append_nil _).symm rfl
    (frame .spoolLow (out _ (by decide))) (frame .freeSegments (out _ (by decide))) (frame .promises (out _ (by decide))) hx
    (y' := []) ?_ ?_
  · rw [List.append_nil]; exact frame .notices (out _ (by decide))
  · rw [(frame .sticky (out _ (by decide))).2.1]; exact id

/-- A job that has ended stays so while the Job Table and the spool are left alone and notices are only added to. -/
theorem JobEnded.later {j : Job} {l : List Piece} (h : JobEnded s t j) (m : Moves l t u)
    (hl : [Piece.jobRecords, .contexts, .freeSegments, .promises, .spoolLow, .notices, .sticky, .officeOther].all
      (fun p => !l.contains p) = true := by decide) : JobEnded s u j := by
  have out (p : Piece) (hp : p ∈ [Piece.jobRecords, .contexts, .freeSegments, .promises, .spoolLow, .notices, .sticky,
      .officeOther]) : p ∉ l := by simpa using List.all_eq_true.1 hl p hp
  have frame := m.changesOnly
  refine ⟨(frame .jobRecords (out _ (by decide))).trans h.record, ?_,
    (frame .promises (out _ (by decide))).trans h.promise, (frame .contexts (out _ (by decide))).trans h.context,
    h.low.later m ?_⟩
  · rw [freeList_eq, frame .freeSegments (out _ (by decide))]; exact h.chain
  · simp only [List.all_cons, List.all_nil, Bool.and_eq_true] at hl ⊢
    tauto

@[simp] theorem State.jobMessages_reply (s : State) (h : Hdr) (g : Nat) (r : Result) (b : ReplyBody) :
    (s.reply h g r b).jobMessages = s.jobMessages := by
  unfold State.reply State.sendReply
  split
  · simp [State.jobMessages, PortState.place, State.form, OwnMsg.ofJobs]
  · rfl

/-- R158: what a management request does first touches no job. -/
theorem Prelude.of_restartIdle (s : State) (g : Nat) : Prelude s s.restartIdle g := by
  obtain ⟨c, e⟩ := s.restartIdle_eq
  rw [e]
  exact ⟨rfl, rfl, rfl, ⟨[], (List.append_nil _).symm⟩, ⟨[], (List.append_nil _).symm⟩, rfl⟩

theorem State.restartIdle_job (s : State) (g : Nat) : s.restartIdle.job g = s.job g :=
  State.job_congr (s.restartIdle_changes .jobRecords (by decide)) g

/-! ### A job answered and ended (R14, R19) -/

theorem inDelivery_of_receiving {st : JobState} (h : st = .receiving ∨ st = .held) : st.inDelivery = false := by
  rcases h with rfl | rfl <;> rfl

/-- R19, log 36: the answer is formed before the JOB_STATUS Ended. -/
theorem State.answered_ended {h : Hdr} {j : Job} (g : Nat) (r : Result) (why : EndReason) (hr : JobReady h s)
    (hd : j.state = .receiving ∨ j.state = .held) :
    JobEnded s ((s.jobReply h g r 0).endJob j why).finish j ∧
      JobSent s ((s.jobReply h g r 0).endJob j why).finish
        [jobReplyTo s h g r 0, statusOf s j .ended none (some why) j.charged] := by
  have frame := (s.jobReply_moves h g r 0 hr.outgoing).changesOnly
  have settings : (s.jobReply h g r 0).settings = s.settings := frame .settings (by decide)
  have room : (s.jobReply h g r 0).jobs.outgoing.length < 4096 := by
    have := s.outgoing_jobReply_le h g r 0
    have := hr.room
    omega
  have sent := State.endJob_sent j why room
  rw [inDelivery_of_receiving hd, statusOf_congr settings] at sent
  exact ⟨((State.endJob_ended _ j why).after (Prelude.of_jobReply s h g r 0 j.tag hr.outgoing)).finish,
    ((s.jobReply_sent h g r 0).trans sent).finish⟩

/-- R19: a JOB_CANCEL of a job not yet released. -/
theorem cancelJob_unreleased {h : Hdr} {j : Job} (hj : s.jobFrom h = some j) (hd : j.state = .receiving ∨ j.state = .held) :
    cancelJob h s = (s.jobReply h h.jobTag .ok 0).endJob j .userCancelled := by
  rcases hd with hd | hd <;> simp only [cancelJob, hj, hd]

/-- R14: a JOB_CLOSE of a job that received nothing. -/
theorem closeJob_empty {h : Hdr} {j : Job} (hj : s.jobFrom h = some j) (hd : j.state = .receiving) (h0 : j.received = 0) :
    closeJob h 0 s = (s.jobReply h h.jobTag .emptyJob 0).endJob j .refused := by
  simp [closeJob, hj, hd, h0]

/-- R3: the frame of a job answered and then ended before its release. -/
theorem State.answered_frame {h : Hdr} {j : Job} {l : List Piece} (g : Nat) (r : Result) (why : EndReason) (hr : JobReady h s)
    (he : ChangesOnly (l ++ endedPieces) (s.jobReply h g r 0) ((s.jobReply h g r 0).endJob j why)) :
    ChangesOnly (l ++ endedPieces ++ endOfStep) s ((s.jobReply h g r 0).endJob j why).finish := by
  have before := (s.jobReply_moves h g r 0 hr.outgoing).changesOnly
  refine ((before.mono fun p hp => ?_).trans (he.mono fun p hp => List.mem_append_left _ hp)).trans
    ((State.finish_changes _).mono fun p hp => List.mem_append_right _ hp)
  exact List.mem_append_left _ (List.mem_append_right _ (by revert p hp; decide))

/-- R19: a JOB_CANCEL of a Receiving or Held job ends it. -/
theorem jobCancel_ends {h : Hdr} {j : Job} (hr : JobReady h s) (hj : s.job h.jobTag = some j) (ho : j.origin = h.src)
    (hd : j.state = .receiving ∨ j.state = .held) :
    ∃ t, exec (.jobCancel h true) s = .next t ∧ JobEnded s t j ∧
      (j.state = .held → t.account j.account =
        { s.account j.account with held := (s.account j.account).held.filter (· ≠ j.tag) }) ∧
      (j.state = .receiving → t.accounts = s.accounts) ∧ OtherAccounts j.account s t ∧
      JobSent s t [jobReplyTo s h h.jobTag .ok 0, statusOf s j .ended none (some .userCancelled) j.charged] ∧
      ChangesOnly ([Piece.jobRecords, .contexts, .freeSegments, .promises, .spoolLow, .accounts] ++ jobTraffic ++ noticeTraffic
        ++ endOfStep) s t := by
  have from_ := State.jobFrom_eq hj ho
  have e : exec (.jobCancel h true) s = .next ((s.jobReply h h.jobTag .ok 0).endJob j .userCancelled).finish := by
    refine (jobMessage_ready (x := ()) (act := fun _ => cancelJob h) hr).trans ?_
    rw [cancelJob_unreleased from_ hd]
  have before := (s.jobReply_moves h h.jobTag .ok 0 hr.outgoing).changesOnly
  obtain ⟨ended, sent⟩ := State.answered_ended h.jobTag .ok .userCancelled hr hd
  have accounts (k : Nat) : (s.jobReply h h.jobTag .ok 0).account k = s.account k :=
    State.account_congr (before .accounts (by decide)) k
  rcases hd with hd | hd
  · have frame := s.answered_frame (l := []) h.jobTag .ok .userCancelled hr (State.endJob_receiving _ .userCancelled hd)
    have same := frame .accounts (by decide)
    refine ⟨_, e, ended, fun hh => absurd (hd.symm.trans hh) (by decide), fun _ => same,
      fun k _ => State.account_congr same k, sent, frame.mono (by decide)⟩
  · obtain ⟨own, others, frame⟩ := State.endJob_held (s.jobReply h h.jobTag .ok 0) .userCancelled hd
    refine ⟨_, e, ended, fun _ => ?_, fun hh => absurd (hd.symm.trans hh) (by decide), fun k hk => ?_, sent,
      (s.answered_frame h.jobTag .ok .userCancelled hr frame).mono (by decide)⟩
    · rw [State.finish_account, own, accounts]
    · rw [State.finish_account, others k hk, accounts]

/-- R14: a JOB_CLOSE of a job that received nothing ends it. -/
theorem jobClose_ends {h : Hdr} {j : Job} (hr : JobReady h s) (hj : s.job h.jobTag = some j) (ho : j.origin = h.src)
    (hd : j.state = .receiving) (h0 : j.received = 0) :
    ∃ t, exec (.jobClose h (some 0)) s = .next t ∧ JobEnded s t j ∧
      JobSent s t [jobReplyTo s h h.jobTag .emptyJob 0, statusOf s j .ended none (some .refused) j.charged] ∧
      ChangesOnly ([Piece.jobRecords, .contexts, .freeSegments, .promises, .spoolLow] ++ jobTraffic ++ noticeTraffic
        ++ endOfStep) s t := by
  have e : exec (.jobClose h (some 0)) s = .next ((s.jobReply h h.jobTag .emptyJob 0).endJob j .refused).finish := by
    refine (jobMessage_ready (act := closeJob h) hr).trans ?_
    rw [closeJob_empty (State.jobFrom_eq hj ho) hd h0]
  obtain ⟨ended, sent⟩ := State.answered_ended h.jobTag .emptyJob .refused hr (.inl hd)
  exact ⟨_, e, ended, sent,
    s.answered_frame (l := []) h.jobTag .emptyJob .refused hr (State.endJob_receiving _ .refused hd)⟩

/-! ### A job ended by its timer or by PURGE_JOB (R11, R20) -/

/-- R11: the expiry of the receive idle timer of a job's context. -/
theorem receiveIdle_ends {j : Job} {i : Nat} {x : Context} (hj : s.job j.tag = some j) (ho : s.jobs.outgoing.length < 4096)
    (hs : s.phase = .up) (hc : s.jobs.contexts[i]? = some (some x)) (hx : x.tag = j.tag) (hi : x.idle.runs = true)
    (hd : j.state = .receiving) :
    ∃ t, exec (.receiveIdleExpiry i) s = .next t ∧ JobEnded s t j ∧
      JobSent s t [statusOf s j .ended none (some .abandoned) j.charged] ∧
      ChangesOnly ([Piece.jobRecords, .contexts, .freeSegments, .promises, .spoolLow] ++ jobTraffic ++ noticeTraffic
        ++ endOfStep) s t := by
  have e : exec (.receiveIdleExpiry i) s = .next (s.endJob j .abandoned).finish := by
    show execReceiveIdleExpiry i s = _
    rw [execReceiveIdleExpiry, State.whenUp_up _ hs]
    simp only [hc, hi, if_true, hx, State.endTag_job .abandoned hj]
  have sent := State.endJob_sent j .abandoned ho
  rw [inDelivery_of_receiving (.inl hd)] at sent
  exact ⟨_, e, (s.endJob_ended j .abandoned).finish, sent.finish,
    ((s.endJob_receiving .abandoned hd).mono fun p hp => List.mem_append_left _ hp).trans
      ((State.finish_changes _).mono fun p hp => List.mem_append_right _ hp)⟩

/-- R20: PURGE_JOB of a Receiving or Held job ends it. -/
theorem purgeJob_ends {h : Hdr} {j : Job} (hj : s.job j.tag = some j) (ho : s.jobs.outgoing.length < 4096)
    (hr : ConsoleReady h s) (hd : j.state = .receiving ∨ j.state = .held) :
    ∃ t, exec (.purgeJob h (some j.tag)) s = .next t ∧ JobEnded s t j ∧ Replied s t h .ok .none ∧
      (j.state = .held → t.account j.account =
        { s.account j.account with held := (s.account j.account).held.filter (· ≠ j.tag) }) ∧
      (j.state = .receiving → t.accounts = s.accounts) ∧ OtherAccounts j.account s t ∧
      JobSent s t [statusOf s j .ended none (some .purged) j.charged] ∧
      ChangesOnly ([Piece.jobRecords, .contexts, .freeSegments, .promises, .spoolLow, .accounts] ++ jobTraffic ++ noticeTraffic
        ++ replyTraffic) s t := by
  have rule : purgeRule j.tag s.restartIdle = { state := s.restartIdle.endJob j .purged, result := .ok } := by
    unfold purgeRule
    simp only [s.restartIdle_job, hj, inDelivery_of_receiving hd, Bool.false_eq_true, if_false]
  have idle := s.restartIdle_changes
  have moves : Moves endPieces s.restartIdle (purgeRule j.tag s.restartIdle).state := by
    rw [rule]; exact State.endJob_moves _ j .purged (by rw [s.restartIdle_job]; exact hj)
  obtain ⟨t, e, ht, replied, -, -⟩ := mgmtRequest_next (x := j.tag) hr moves
  rw [rule] at ht replied
  obtain ⟨v, hv⟩ : ∃ v, v = s.restartIdle.endJob j .purged := ⟨_, rfl⟩
  rw [← hv] at ht
  have after : Moves replyTraffic v t := by
    rw [ht]; exact (State.reply_moves v h 0 .ok .none).mono.next (State.finish_moves _)
  have sent := State.endJob_sent (s := s.restartIdle) j .purged (by rw [idle .outgoing (by decide)]; exact ho)
  rw [inDelivery_of_receiving hd, statusOf_congr State.restartIdle_settings] at sent
  have answered : JobSent s t [statusOf s j .ended none (some .purged) j.charged] := by
    have before : s.restartIdle.jobMessages = s.jobMessages :=
      State.jobMessages_congr (idle .officeOwn (by decide)) (idle .outgoing (by decide))
    rw [JobSent, ht, State.finish_jobMessages, State.jobMessages_reply, ← before, hv]
    exact sent
  have frame {l : List Piece} (hf : ChangesOnly (l ++ endedPieces) s.restartIdle v) :
      ChangesOnly (l ++ endedPieces ++ replyTraffic) s t :=
    ((idle.mono fun p hp => List.mem_append_right _ (by revert p hp; decide)).trans
      (hf.mono fun p hp => List.mem_append_left _ hp)).trans
      (after.changesOnly.mono fun p hp => List.mem_append_right _ hp)
  refine ⟨t, e, ?_, replied, ?_⟩
  · have ended := (State.endJob_ended s.restartIdle j .purged).after (Prelude.of_restartIdle s j.tag)
    rw [← hv] at ended
    exact ended.later after
  have accounts (k : Nat) : t.account k = v.account k := State.account_congr (after.changesOnly .accounts (by decide)) k
  rcases hd with hd | hd
  · have frame := frame (l := []) (hv ▸ State.endJob_receiving s.restartIdle .purged hd)
    have same := frame .accounts (by decide)
    exact ⟨fun hh => absurd (hd.symm.trans hh) (by decide), fun _ => same, fun k _ => State.account_congr same k, answered,
      frame.mono (by decide)⟩
  · obtain ⟨own, others, changes⟩ := State.endJob_held s.restartIdle .purged hd
    rw [← hv] at own others changes
    refine ⟨fun _ => ?_, fun hh => absurd (hd.symm.trans hh) (by decide), fun k hk => ?_, answered, (frame changes).mono (by decide)⟩
    · rw [accounts, own, State.restartIdle_account]
    · rw [accounts, others k hk, State.restartIdle_account]

/-- R20: PURGE_JOB refused. -/
theorem purgeJob_refused {h : Hdr} {tag : Nat} {r : Result} (hr : ConsoleReady h s)
    (hf : FirstOf [(s.job tag = none, Result.noSuchJob),
      (∃ j, s.job tag = some j ∧ j.state ≠ .receiving ∧ j.state ≠ .held, .tooLate)] r) :
    CarriedOut (.purgeJob h (some tag)) h s s r := by
  refine carriedOut_unchanged (act := purgeRule) (x := tag) hr rfl ?_
  simp only [FirstOf.cons_iff, FirstOf.nil_iff] at hf
  unfold purgeRule
  rw [s.restartIdle_job]
  rcases hf with ⟨c, rfl⟩ | ⟨-, ⟨⟨j, hj, h1, h2⟩, rfl⟩ | ⟨-, none⟩⟩
  · rw [c]; rfl
  · have delivery : j.state.inDelivery = true := by
      cases e : j.state
      · exact absurd e h1
      · exact absurd e h2
      all_goals rfl
    rw [hj]
    simp only [delivery, if_true]
    rfl
  · exact none.elim

/-- Settles O15, message by message and timer. -/
theorem jobsEndBeforeRelease : Obligations.JobsEndBeforeRelease := by
  refine ⟨fun h s j hr hj ho => ⟨jobCancel_ends hr hj ho, jobClose_ends hr hj ho⟩, fun s j hj ho => ⟨?_, ?_⟩, fun i s hs hi => ?_,
    fun h tag s r hr hf => purgeJob_refused hr hf⟩
  · exact fun i x hs hc hx hi hd => receiveIdle_ends hj ho hs hc hx hi hd
  · exact fun h hr hd => purgeJob_ends hj ho hr hd
  · refine ⟨s.finish, ?_, State.finish_changes s⟩
    show execReceiveIdleExpiry i s = _
    rw [execReceiveIdleExpiry, State.whenUp_up _ hs]
    cases hc : s.jobs.contexts[i]? with
    | none => rfl
    | some c =>
      cases c with
      | none => rfl
      | some x => simp only [hi x hc, Bool.false_eq_true, if_false]

/-! ### JOB_CLOSE that holds its job (R14, R17) -/

/-- R16, R180: the fields that the spool-low test changes. -/
theorem State.spoolLowTest_eq (u : State) : ∃ b q l o, u.spoolLowTest =
    { u with spool := { u.spool with low := b }, oport := { u.oport with own := q }
             console := { u.console with notices := l, noticeOverflow := o } } := by
  unfold State.spoolLowTest
  split
  · exact ⟨u.spool.low, u.oport.own, u.console.notices, u.console.noticeOverflow, rfl⟩
  · obtain ⟨q, l, o, e⟩ := State.notify_eq { u with spool := { u.spool with low := u.spool.isLow } } (.spoolLow u.spool.isLow)
    exact ⟨_, q, l, o, e⟩

/-- R14, R17: what a close of job `j` makes of its record. -/
def State.closed (s : State) (j x : Job) : Job :=
  { x with
    promise := 0, state := .held, stamp := some (s.clock.uptime, s.jobs.holdSeq)
    expiry := some (s.clock.uptime + (s.classEntry j.hit).hold * 60) }

/-- R14: the state once the job of an accepted close is Held and its promise dropped, before the spool-low test. -/
def State.closing (s : State) (j : Job) : State :=
  ({ s with spool := { s.spool with promises := s.spool.promises - j.promise } } : State).updJob j.tag (s.closed j)

/-- R17: the hold sequence number after it has been given. -/
def State.nextHoldSeq (s : State) : Nat := if s.jobs.holdSeq < 4294967295 then s.jobs.holdSeq + 1 else 0

theorem State.nextHoldSeq_eq (s : State) :
    (if Config.maxHoldSeq ≤ s.jobs.holdSeq then 0 else s.jobs.holdSeq + 1) = s.nextHoldSeq := by
  unfold State.nextHoldSeq Config.maxHoldSeq
  split <;> split <;> omega

theorem State.closing_job {j : Job} (hj : s.job j.tag = some j) : (s.closing j).job j.tag = some (s.closed j j) := by
  refine (State.job_updJob _ _ (s.closed j) (fun _ => rfl) _).trans ?_
  rw [if_pos rfl]
  exact congrArg (Option.map (s.closed j)) hj

theorem State.closing_others (s : State) (j : Job) : OtherJobs j.tag s (s.closing j) := fun g hg => by
  refine (State.job_updJob _ _ (s.closed j) (fun _ => rfl) _).trans ?_
  rw [if_neg hg]; rfl

/-- R14, R17: what holding the job changes after the spool-low test. -/
structure HeldAfter (s u v : State) (j : Job) : Prop where
  recs : v.jobs.recs = u.jobs.recs
  sequence : v.jobs.holdSeq = s.nextHoldSeq
  contexts : v.jobs.contexts = s.jobs.contexts.map (fun c => c.filter (fun x => x.tag ≠ j.tag))
  account : v.account j.account = { s.account j.account with held := (s.account j.account).held ++ [j.tag] }
  accounts : OtherAccounts j.account s v
  rest : Moves [.contexts, .holdSequence, .accounts] u v

theorem State.becomeHeld_after (s : State) (j : Job) (hs : s.jobs.holdSeq ≤ 4294967295 → s.nextHoldSeq ≤ 4294967295) :
    HeldAfter s (s.closing j).spoolLowTest (s.becomeHeld j) j := by
  have e : s.becomeHeld j =
      let s2 := (s.closing j).spoolLowTest.freeContext j.tag
      let s3 : State := { s2 with jobs := { s2.jobs with holdSeq := s.nextHoldSeq } }
      s3.setAccount j.account { s3.account j.account with held := (s3.account j.account).held ++ [j.tag] } := by
    rw [← State.nextHoldSeq_eq]; rfl
  have sequence : ((s.closing j).spoolLowTest.freeContext j.tag).jobs.holdSeq = s.jobs.holdSeq := by
    obtain ⟨b, q, l, o, h⟩ := (s.closing j).spoolLowTest_eq
    rw [h]; rfl
  have account (k : Nat) : ((s.closing j).spoolLowTest.freeContext j.tag).account k = s.account k := by
    obtain ⟨b, q, l, o, h⟩ := (s.closing j).spoolLowTest_eq
    rw [h]; rfl
  rw [e]
  refine ⟨rfl, rfl, ?_, ?_, fun k hk => ?_, ?_⟩
  · rw [State.setAccount_jobs]
    refine (State.freeContext_contexts _ _).trans ?_
    obtain ⟨b, q, l, o, h⟩ := (s.closing j).spoolLowTest_eq
    rw [h]; rfl
  · rw [State.account_setAccount, if_pos rfl]
    exact congrArg (fun a : Account => { a with held := a.held ++ [j.tag] }) (account j.account)
  · rw [State.account_setAccount, if_neg hk]
    exact account k
  · exact ((State.freeContext_moves _ j.tag).mono.next (.one (.holdSequence _ s.nextHoldSeq (by rw [sequence]; exact hs)))).next
      (State.held_moves _ _ _)

/-- R14, R76: the state that an accepted close leaves before the direct path. -/
def State.heldAndTold (s : State) (h : Hdr) (j : Job) : State :=
  ((s.becomeHeld j).jobReply h h.jobTag .ok 0).jobStatus j .held none none none

theorem closeJob_accepted {h : Hdr} {j : Job} (hj : s.jobFrom h = some j) (hd : j.state = .receiving) (h0 : j.received ≠ 0) :
    closeJob h j.received s = s.acceptClose h j := by
  simp [closeJob, hj, hd, h0]

/-- R77: a job not released by the direct path stays Held. -/
theorem State.directPath_held {j : Job} {station : Nat}
    (h : ∀ p, s.printerOf station = some p → (s.account j.account).state ≠ .isOpen ∨ (s.printer p).eligible j = false) :
    s.directPath j station = s := by
  unfold State.directPath
  split
  · rfl
  next p hp =>
    rcases h p hp with h | h
    · rw [if_pos h]
    · simp [h]

/-- R77: the direct path examines the job as a panel at the printer of its target station would. -/
theorem State.directPath_examine {j k : Job} {station p : Nat} (hp : s.printerOf station = some p)
    (ho : (s.account j.account).state = .isOpen) (he : (s.printer p).eligible j = true)
    (same : s.target p k = s.target p j ∧ s.releaseJob p k = s.releaseJob p j) :
    s.target p k = some p ∧ s.directPath j station = (s.examine p k).state := by
  have target : s.target p k = some p := by rw [same.1, State.target, if_pos he]
  refine ⟨target, ?_⟩
  rw [State.directPath, State.examine, hp, target]
  simp only [ho, he, ne_eq, not_true_eq_false, if_false, if_true, same.2]
  cases s.releaseJob p j <;> rfl

/-- Settles O14: the job is Held and its origin told; then the direct path, when it is tried, is an examination. -/
theorem jobCloseHolds : Obligations.JobCloseHolds := by
  intro h s j hr hjob origin receiving received held
  have tag : j.tag = h.jobTag := s.tag_of_job hjob
  have hj : s.job j.tag = some j := tag ▸ hjob
  have accepted : exec (.jobClose h (some j.received)) s = .next (s.acceptClose h j).finish := by
    rw [← closeJob_accepted (State.jobFrom_eq hjob origin) receiving received]
    exact jobMessage_ready (act := closeJob h) hr
  have after := s.becomeHeld_after j fun _ => by unfold State.nextHoldSeq; split <;> omega
  have told : SpoolLowTold s (s.closing j).spoolLowTest :=
    SpoolLowTold.after State.spoolLowTest_told rfl ⟨[], (List.append_nil _).symm⟩ ⟨[], (List.append_nil _).symm⟩ rfl
  have whole := s.becomeHeld_moves j hj
  have small : (s.becomeHeld j).jobs.outgoing.length < 32 := by rw [whole.changesOnly .outgoing (by decide)]; exact hr.room
  have reply := (s.becomeHeld j).jobReply_moves h h.jobTag .ok 0 (small.trans (by decide))
  have status := ((s.becomeHeld j).jobReply h h.jobTag .ok 0).jobStatus_moves j .held none none none
  have traffic : Moves jobTraffic (s.becomeHeld j) (s.heldAndTold h j) := reply.trans status
  have frame := traffic.changesOnly
  have settings : (s.becomeHeld j).settings = s.settings := whole.changesOnly .settings (by decide)
  have recs : (s.heldAndTold h j).jobs.recs = (s.closing j).jobs.recs := by
    rw [frame .jobRecords (by decide), after.recs, State.spoolLowTest_jobs]
  have accounts (k : Nat) : (s.heldAndTold h j).account k = (s.becomeHeld j).account k :=
    State.account_congr (frame .accounts (by decide)) k
  refine ⟨s.heldAndTold h j, _, accepted, ?_, ?_, ?_, ?_, ?_, ?_, ?_, fun g hg => ?_, fun k hk => ?_, ?_, fun hn => ?_,
    fun station hp ht => ?_⟩
  · rw [State.job_congr recs, ← tag]; exact State.closing_job hj
  · rw [accounts, after.account, tag]
  · rw [frame .holdSequence (by decide), after.sequence]; rfl
  · rw [frame .promises (by decide), after.rest.changesOnly .promises (by decide), State.spoolLowTest_spool.2.1]; rfl
  · exact told.later (after.rest.mono.next traffic (l := [.contexts, .holdSequence, .accounts] ++ jobTraffic))
  · rw [frame .contexts (by decide), after.contexts, tag]
  · have sent := (s.becomeHeld j).jobReply_sent h h.jobTag .ok 0
    have room : ((s.becomeHeld j).jobReply h h.jobTag .ok 0).jobs.outgoing.length < 4096 := by
      have := (s.becomeHeld j).outgoing_jobReply_le h h.jobTag .ok 0
      omega
    have before : (s.becomeHeld j).jobMessages = s.jobMessages := by
      rw [State.jobMessages_congr (after.rest.changesOnly .officeOwn (by decide)) (after.rest.changesOnly .outgoing (by decide)),
        State.jobMessages_spoolLowTest]
      rfl
    have second : JobSent _ (s.heldAndTold h j) [statusOf _ j .held none none none] :=
      State.jobMessages_jobStatus j .held none none none room
    rw [jobReplyTo_congr settings] at sent
    rw [statusOf_congr ((reply.changesOnly .settings (by decide)).trans settings)] at second
    have both := sent.trans second
    rw [JobSent, before] at both
    exact both
  · rw [State.job_congr recs]; exact s.closing_others j g (tag ▸ hg)
  · rw [accounts]; exact after.accounts k hk
  · exact (whole.mono.next traffic).changesOnly
  · have stays : s.acceptClose h j = s.heldAndTold h j := by
      unfold State.acceptClose
      split
      next station ht =>
        rcases hn with hn | hn
        · rw [if_neg hn]; rfl
        · rw [hn] at ht; exact nomatch ht
      next => rfl
    rw [stays]; exact State.finish_changes _
  · have tries : s.acceptClose h j = (s.heldAndTold h j).directPath j station := by
      unfold State.acceptClose
      rw [ht]
      dsimp only
      rw [if_pos hp]; rfl
    rw [tries]
    refine ⟨fun p hp ho he => ?_, fun hn => ?_⟩
    · obtain ⟨target, e⟩ := State.directPath_examine (j := j) (k := held) hp ho he ⟨rfl, rfl⟩
      exact ⟨target, by rw [e]; exact State.finish_changes _⟩
    · rw [State.directPath_held hn]; exact State.finish_changes _

end Sys2Proof.Machine

/-! PROOFS. Panel authentication (R26 to R28, R62) and quota (R31 to R35). -/

namespace Sys2Proof.Machine

set_option Elab.async false

variable {s t u : State}

/-! ### Notices seen from before and after -/

/-- R179: a notice formed is one of an earlier state with the same queues, and of a later one that leaves them. -/
theorem NoticeFormed.between {s' t' : State} {n : Notice} (h : NoticeFormed s' t' n)
    (before : s'.oport = s.oport ∧ s'.console = s.console ∧ s'.settings = s.settings)
    (after : t.oport = t'.oport ∧ t.console = t'.console) : NoticeFormed s t n := by
  have first : NoticeFormed s t' n := h.earlier (x := []) (by rw [before.1, List.append_nil]) (y := [])
    (by rw [before.2.1, List.append_nil]) before.2.2
  exact first.later (x := []) (by rw [after.1, List.append_nil]) (y := []) (by rw [after.2, List.append_nil])
    (by rw [after.2]; exact id)

/-- The O-port is one of two pieces. -/
theorem ChangesOnly.oport {l : List Piece} (h : ChangesOnly l s t)
    (hl : Piece.officeOwn ∉ l ∧ Piece.officeOther ∉ l := by decide) : t.oport = s.oport :=
  PortState.eq_of_own_other (h .officeOwn hl.1) (h .officeOther hl.2)

theorem ChangesOnly.console {l : List Piece} (h : ChangesOnly l s t)
    (hl : Piece.reply ∉ l ∧ Piece.notices ∉ l ∧ Piece.sticky ∉ l := by decide) : t.console = s.console := by
  have reply : t.console.reply = s.console.reply := h .reply hl.1
  have notices : t.console.notices = s.console.notices := h .notices hl.2.1
  obtain ⟨restored, overflow, stray⟩ : _ ∧ _ ∧ _ := h .sticky hl.2.2
  cases e : t.console; cases e' : s.console
  simp_all

/-! ### The quota operations (R31 to R35) -/

theorem Account.available_finite {a : Account} {b : Nat} (h : a.cfg.budget = .finite b) :
    a.available = .finite (b - a.spent - a.reserved) := by rw [Account.available, h]

theorem Account.available_unlimited {a : Account} (h : a.cfg.budget = .unlimited) : a.available = .unlimited := by
  rw [Account.available, h]

/-- Settles O17: the four uses of the available quota. -/
theorem availableQuota : Obligations.AvailableQuota := by
  refine fun a c => ⟨fun h => ?_, fun b h => ⟨b - a.spent - a.reserved, Account.available_finite h, by omega, ?_⟩, rfl,
    fun s p t j ha ht => ?_⟩
  · exact ⟨Account.available_unlimited h, by rw [Account.covers, Account.available_unlimited h]⟩
  · rw [Account.covers, Account.available_finite h]
    exact decide_eq_true_iff
  · rw [State.listFate, ht]
    dsimp only
    rw [ha]
    split <;> rfl

/-- R32: a Reserve that succeeds, and one that fails. -/
theorem State.reserve_some {k c : Nat} (hc : (s.account k).covers c = true) (hr : (s.account k).reserved + c ≤ 16777215) :
    s.reserve k c = some (s.setAccount k { s.account k with reserved := (s.account k).reserved + c }) := by
  unfold State.reserve
  rw [if_pos]
  rw [hc, Bool.true_and]
  exact decide_eq_true hr

theorem State.reserve_none {k c : Nat} (h : (s.account k).covers c = false ∨ 16777215 < (s.account k).reserved + c) :
    s.reserve k c = none := by
  unfold State.reserve
  rw [if_neg]
  rcases h with h | h
  · simp [h]
  · have : ¬(s.account k).reserved + c ≤ Config.maxPoints := Nat.not_le.2 h
    simp [this]

theorem State.setAccount_others (s : State) (k : Nat) (a : Account) : OtherAccounts k s (s.setAccount k a) := fun i hi => by
  rw [State.account_setAccount, if_neg hi]

theorem State.setAccount_changes (s : State) (k : Nat) (a : Account) : ChangesOnly [.accounts] s (s.setAccount k a) := by
  intro x hx
  cases x <;> first | exact rfl | exact ⟨rfl, rfl⟩ | exact ⟨rfl, rfl, rfl⟩ | exact ⟨rfl, rfl, rfl, rfl⟩ | exact absurd (by simp) hx

/-- R34: an account settled on a charge. -/
def Account.settled (a : Account) (r n : Nat) : Account :=
  { a with
    reserved := a.reserved - r, spent := min 16777215 (a.spent + n)
    overdrawn := overdrawnFlag a.cfg.budget (min 16777215 (a.spent + n)) }

/-- R34, R35: Settle replaces the account, sends the notice when the flag is raised, and marks the balance. -/
theorem State.settle_eq (s : State) (k r n : Nat) : s.settle k r n =
    let v := s.setAccount k ((s.account k).settled r n)
    (if ((s.account k).settled r n).overdrawn && !(s.account k).overdrawn then
      v.notify (.accountOverdrawn k (min 16777215 ((s.account k).spent + n)) (s.account k).cfg.budget) else v).mark
      (balanceSlot k) := by
  unfold State.settle State.evalOverdrawn
  simp only [State.account_setAccount, if_true, State.setAccount_setAccount]
  rfl

theorem State.notify_account (s : State) (n : Notice) (k : Nat) : (s.notify n).account k = s.account k :=
  State.account_congr ((s.notify_moves n).changesOnly .accounts (by decide)) k

theorem State.notify_printer (s : State) (n : Notice) (p : Nat) : (s.notify n).printer p = s.printer p :=
  State.printer_congr ((s.notify_moves n).changesOnly .printers (by decide)) p

theorem State.settle_account (s : State) (k r n i : Nat) :
    (s.settle k r n).account i = if i = k then (s.account k).settled r n else s.account i := by
  rw [State.settle_eq]
  dsimp only
  rw [State.mark_account]
  split
  · rw [State.notify_account, State.account_setAccount]
  · rw [State.account_setAccount]

theorem State.mark_oport (s : State) (n : Nat) : (s.mark n).oport = s.oport := (s.mark_moves n).changesOnly.oport

theorem State.mark_console (s : State) (n : Nat) : (s.mark n).console = s.console := (s.mark_moves n).changesOnly.console

/-- R35: the notice of a flag that is raised. -/
theorem State.settle_notice {k r n : Nat} (hf : (s.account k).overdrawn = false)
    (ht : ((s.account k).settled r n).overdrawn = true) :
    NoticeFormed s (s.settle k r n)
      (.accountOverdrawn k (min 16777215 ((s.account k).spent + n)) (s.account k).cfg.budget) := by
  rw [State.settle_eq]
  simp only [hf, ht, Bool.not_false, Bool.and_self, if_true]
  exact NoticeFormed.between (s' := s.setAccount k ((s.account k).settled r n)) (State.notify_formed _) ⟨rfl, rfl, rfl⟩
    ⟨State.mark_oport _ _, State.mark_console _ _⟩

/-- Settles O18, operation by operation. -/
theorem quotaOperations : Obligations.QuotaOperations := by
  refine fun s k => ⟨fun c => ⟨fun ⟨hc, hr⟩ => ⟨_, State.reserve_some hc hr, ?_, s.setAccount_others k _, s.setAccount_changes k _⟩,
    State.reserve_none⟩, fun n => ⟨?_, s.setAccount_others k _, s.setAccount_changes k _⟩, fun r n => ⟨?_, fun hf ht => ?_, ?_,
    fun i hi => ?_, (s.settle_moves k r n).changesOnly⟩⟩
  · rw [State.account_setAccount, if_pos rfl]
  · rw [State.unreserve, State.account_setAccount, if_pos rfl]
  · rw [State.settle_account, if_pos rfl]; rfl
  · rw [State.settle_account, if_pos rfl] at ht
    exact State.settle_notice hf ht
  · rw [State.settle]; exact State.mem_mark _
  · rw [State.settle_account, if_neg hi]

/-! ### Panel authentication (R26 to R28, R62) -/

/-- R26: the record that holds a badge, of two the lower. -/
theorem State.accountOfBadge_iff (h : s.TablesCanonical) (badge : Nat) :
    (s.accountOfBadge badge = none ↔ ∀ k, (s.account k).cfg.badge ≠ some badge) ∧
    (∀ k, s.accountOfBadge badge = some k ↔
      (s.account k).cfg.badge = some badge ∧ ∀ i < k, (s.account i).cfg.badge ≠ some badge) := by
  have rising := (Tbl.wf_iff.1 h.accounts).1
  have factory (_ : Nat) : (Account.factory.cfg.badge == some badge) = false := rfl
  have found := Tbl.find_iff (f := fun _ (a : Account) => a.cfg.badge == some badge) rising factory
  have none := Tbl.find_none_iff (f := fun _ (a : Account) => a.cfg.badge == some badge) rising factory
  simp only [beq_iff_eq, beq_eq_false_iff_ne] at found none
  exact ⟨none, found⟩

/-- The requests that a panel makes. -/
theorem exec_panel {h : Hdr} {b : Option AskBody} {c : Instr}
    (hc : c ∈ [Instr.list h b, .releaseAll h b, .releaseOne h b, .deleteOne h b]) (s : State) :
    ∃ f, exec c s = panelRequest h b (some f) s := by
  simp only [List.mem_cons, List.not_mem_nil, or_false] at hc
  rcases hc with rfl | rfl | rfl | rfl
  · exact ⟨listRule, rfl⟩
  · exact ⟨releaseAllRule, rfl⟩
  · exact ⟨releaseOneRule h.jobTag, rfl⟩
  · exact ⟨fun _ k t => deleteOneRule h.jobTag k t, rfl⟩

/-- R62: a panel request whose holder is not authenticated is answered, and its rule is not tried. -/
theorem panelRequest_refused {h : Hdr} {ask : AskBody} {p : Nat} {f : Nat → Nat → State → PanelAnswer} {v : State} {r : Result}
    (hr : PrinterReady h p s) (hs : Present s p) (hn : s.answer = none)
    (ha : (s.frameFrom p).authenticate ask = (v, .inl r)) :
    panelRequest h (some ask) (some f) s = .next (v.answerPanel h 0 r none []).finish := by
  obtain ⟨q, -, -, e⟩ := panelRequest_next (f := f) hr hs hn (ask := ask)
  rw [e, ha]

theorem State.answerPanel_answered {v : State} {h : Hdr} {r : Result} {x : Option Nat} {es : List AnswerEntry}
    (settings : v.settings = s.settings) (own : v.fport.own = s.fport.own) :
    PanelAnswered s (v.answerPanel h 0 r x es).finish h r x es :=
  State.panelAnswered_answerPanel settings (x := []) (by rw [own, List.append_nil])

/-- R121: the frame of a Present printer, taken before anything else, touches its entry alone. -/
theorem State.frameFrom_heard {p : Nat} (hs : Present s p) (ha : s.asleep = false) : Heard s (s.frameFrom p) p := by
  obtain ⟨q, e, printers⟩ := State.frameFrom_present hs ha
  refine ⟨by rw [printers, if_pos rfl], fun i hi => by rw [printers, if_neg hi], ?_⟩
  rw [e]
  intro x hx
  cases x <;> first | exact rfl | exact ⟨rfl, rfl⟩ | exact ⟨rfl, rfl, rfl⟩ | exact ⟨rfl, rfl, rfl, rfl⟩ | exact absurd (by simp) hx

/-- R27: what is refused before the PIN is compared. -/
theorem State.authenticate_refused {ask : AskBody} {r : Result}
    (hf : FirstOf
      [(∀ k, s.accountOfBadge ask.badge = some k → (s.account k).cfg.valid = false, Result.authFailed),
        (∀ k, s.accountOfBadge ask.badge = some k → (s.account k).state ≠ .isOpen, .accountBlocked)] r) :
    s.authenticate ask = (s, .inl r) := by
  simp only [FirstOf.cons_iff, FirstOf.nil_iff] at hf
  unfold State.authenticate
  cases e : s.accountOfBadge ask.badge with
  | none =>
    rcases hf with ⟨-, rfl⟩ | ⟨valid, -⟩
    · rfl
    · exact absurd (fun k hk => by rw [e] at hk; exact nomatch hk) valid
  | some k =>
    simp only [e, Option.some.injEq, forall_eq'] at hf
    rcases hf with ⟨c, rfl⟩ | ⟨valid, ⟨c, rfl⟩ | ⟨-, no⟩⟩
    · simp only [c, if_true]
    · simp only [if_neg valid, if_pos c]
    · exact no.elim

/-- R27 step 3: a mismatch of the PIN. -/
theorem State.authenticate_mismatch {ask : AskBody} {k : Nat} {d : List Nat} (badge : s.accountOfBadge ask.badge = some k)
    (valid : (s.account k).cfg.valid = true) (isOpen : (s.account k).state = .isOpen) (pin : (s.account k).cfg.pin = some d)
    (wrong : ask.pin ≠ some d) : s.authenticate ask = (s.pinMismatch k, .inl .authFailed) := by
  unfold State.authenticate
  simp [badge, valid, isOpen, pin, wrong]

/-- R28: the account after a PIN mismatch. -/
def Account.mismatched (a : Account) : Account :=
  { a with failures := min 5 (a.failures + 1), state := if a.failures < 4 then .isOpen else .locked }

/-- R28: a mismatch counts a failure; the fifth locks the account and is told. -/
theorem State.pinMismatch_eq {k : Nat} (isOpen : (s.account k).state = .isOpen) : s.pinMismatch k =
    if (s.account k).failures < 4 then s.setBalance k (s.account k).mismatched
    else (s.setBalance k (s.account k).mismatched).notify (.accountLocked k) := by
  unfold State.pinMismatch Account.mismatched
  have limit : (s.account k).failures + 1 < Config.pinLimit ↔ (s.account k).failures < 4 := by
    have : Config.pinLimit = 5 := rfl
    omega
  simp only [limit]
  split
  next h => rw [← isOpen, Nat.min_eq_right (by omega)]
  next h => rw [Nat.min_eq_left (by omega)]; rfl

theorem State.setBalance_account (s : State) (k : Nat) (a : Account) (i : Nat) :
    (s.setBalance k a).account i = if i = k then a else s.account i := by
  rw [State.setBalance, State.mark_account, State.account_setAccount]

theorem State.pinMismatch_account {k : Nat} (isOpen : (s.account k).state = .isOpen) (i : Nat) :
    (s.pinMismatch k).account i = if i = k then (s.account k).mismatched else s.account i := by
  rw [State.pinMismatch_eq isOpen]
  split
  · exact s.setBalance_account k _ i
  · rw [State.notify_account]; exact s.setBalance_account k _ i

theorem State.pinMismatch_dirty (s : State) {k : Nat} (isOpen : (s.account k).state = .isOpen) :
    balanceSlot k ∈ (s.pinMismatch k).store.dirty := by
  rw [State.pinMismatch_eq isOpen]
  split
  · exact State.mem_mark _
  · have := (State.notify_moves (s.setBalance k (s.account k).mismatched) (.accountLocked k)).changesOnly .storeWriting
      (by decide)
    rw [this.1]
    exact State.mem_mark _

/-- R28, R62: a panel request with a wrong PIN. -/
theorem panelRequest_mismatch {h : Hdr} {ask : AskBody} {p k : Nat} {d : List Nat} {f : Nat → Nat → State → PanelAnswer}
    (hr : PrinterReady h p s) (hs : Present s p) (hn : s.answer = none)
    (badge : s.accountOfBadge ask.badge = some k) (valid : (s.account k).cfg.valid = true)
    (isOpen : (s.account k).state = .isOpen) (pin : (s.account k).cfg.pin = some d) (wrong : ask.pin ≠ some d) :
    ∃ t, panelRequest h (some ask) (some f) s = .next t ∧ PanelAnswered s t h .authFailed none [] ∧
      t.account k = (s.account k).mismatched ∧
      (4 ≤ (s.account k).failures → NoticeFormed s t (.accountLocked k)) ∧
      ((s.account k).failures < 4 → t.oport = s.oport ∧ t.console = s.console) ∧
      Written t (balanceSlot k) ∧ OtherAccounts k s t ∧ t.printer p = (s.printer p).heard ∧ OtherPrinters p s t ∧
      ChangesOnly ([Piece.accounts, .printers, .fleetOwn, .answer] ++ noticeTraffic ++ endOfStep) s t := by
  have heard := State.frameFrom_heard hs hr.awake
  generalize hu : s.frameFrom p = u at heard
  have accounts (i : Nat) : u.account i = s.account i := State.account_congr (heard.rest .accounts (by decide)) i
  have isOpen' : (u.account k).state = .isOpen := by rw [accounts]; exact isOpen
  have mismatch : (s.frameFrom p).authenticate ask = (u.pinMismatch k, .inl .authFailed) := by
    rw [hu]
    exact State.authenticate_mismatch ((State.accountOfBadge_congr (heard.rest .accounts (by decide)) _).trans badge)
      (accounts k ▸ valid) isOpen' (accounts k ▸ pin) wrong
  have e := panelRequest_refused (f := f) hr hs hn mismatch
  have counted := u.pinMismatch_moves k
  have sent := (u.pinMismatch k).answerPanel_moves h 0 .authFailed none []
  have after : ChangesOnly ([Piece.fleetOwn, .answer] ++ endOfStep) (u.pinMismatch k)
      ((u.pinMismatch k).answerPanel h 0 .authFailed none []).finish :=
    (sent.mono.next (State.finish_moves _)).changesOnly
  refine ⟨_, e, ?_, ?_, fun hf => ?_, fun hf => ?_, ?_, fun i hi => ?_, ?_, fun i hi => ?_, ?_⟩
  · exact State.answerPanel_answered
      ((counted.changesOnly .settings (by decide)).trans (heard.rest .settings (by decide)))
      ((counted.changesOnly .fleetOwn (by decide)).trans (heard.rest .fleetOwn (by decide)))
  · rw [State.account_congr (after .accounts (by decide)), State.pinMismatch_account isOpen', if_pos rfl, accounts]
  · refine NoticeFormed.between (s' := u.setBalance k (u.account k).mismatched) (t' := u.pinMismatch k) ?_ ⟨?_, ?_, ?_⟩
      ⟨after.oport, after.console⟩
    · rw [State.pinMismatch_eq isOpen', if_neg (by rw [accounts]; omega)]
      exact State.notify_formed _
    · exact (State.mark_oport _ _).trans heard.rest.oport
    · exact (State.mark_console _ _).trans heard.rest.console
    · exact ((State.mark_moves _ _).changesOnly .settings (by decide)).trans (heard.rest .settings (by decide))
  · have quiet : u.pinMismatch k = u.setBalance k (u.account k).mismatched := by
      rw [State.pinMismatch_eq isOpen', if_pos (by rw [accounts]; exact hf)]
    rw [after.oport, after.console, quiet]
    exact ⟨(State.mark_oport _ _).trans heard.rest.oport, (State.mark_console _ _).trans heard.rest.console⟩
  · refine State.written_of_dirty ?_
    rw [(sent.changesOnly .storeWriting (by decide)).1]
    exact u.pinMismatch_dirty isOpen'
  · rw [State.account_congr (after .accounts (by decide)), State.pinMismatch_account isOpen', if_neg hi, accounts]
  · rw [State.printer_congr (after .printers (by decide)), State.printer_congr (counted.changesOnly .printers (by decide)),
      heard.printer]
  · rw [State.printer_congr (after .printers (by decide)), State.printer_congr (counted.changesOnly .printers (by decide)),
      heard.printers i hi]
  · exact ((heard.rest.mono (by decide)).trans (counted.changes)).trans (after.mono (by decide))

/-- Settles O16: the tests of R27 in order, after the frame is taken. -/
theorem panelAuthentication : Obligations.PanelAuthentication := by
  refine ⟨fun h ask p s r hr hs hn hf c hc => ?_, fun h ask p k d s hr hs hn badge valid isOpen pin wrong c hc => ?_,
    fun s badge hw => State.accountOfBadge_iff hw badge⟩
  · obtain ⟨f, e⟩ := exec_panel hc s
    have heard := State.frameFrom_heard hs hr.awake
    have same : (s.frameFrom p).accounts = s.accounts := heard.rest .accounts (by decide)
    have refused : (s.frameFrom p).authenticate ask = (s.frameFrom p, .inl r) := by
      refine State.authenticate_refused ?_
      simp only [State.accountOfBadge_congr same, State.account_congr same]
      exact hf
    have after : ChangesOnly ([Piece.fleetOwn, .answer] ++ endOfStep) (s.frameFrom p)
        ((s.frameFrom p).answerPanel h 0 r none []).finish :=
      ((State.answerPanel_moves ..).mono.next (State.finish_moves _)).changesOnly
    refine ⟨_, e.trans (panelRequest_refused hr hs hn refused), ?_, ?_, fun i hi => ?_, ?_⟩
    · exact State.answerPanel_answered (heard.rest .settings (by decide)) (heard.rest .fleetOwn (by decide))
    · rw [State.printer_congr (after .printers (by decide)), heard.printer]
    · rw [State.printer_congr (after .printers (by decide)), heard.printers i hi]
    · exact (heard.rest.mono (by decide)).trans (after.mono (by decide))
  · obtain ⟨f, e⟩ := exec_panel hc s
    rw [e]
    exact panelRequest_mismatch hr hs hn badge valid isOpen pin wrong

end Sys2Proof.Machine

/-! PROOFS. Management requests that reach accounts, tables and period rolls: what the reply and the end of the step leave of what
a rule made (R174, R175), and then the rules of the account commands (R29, R30, R36). -/

namespace Sys2Proof.Machine

set_option Elab.async false

variable {s t u v : State}

/-! ### What the reply and the end of the step leave (R175) -/

/-- R175: the reply and the end of the step turn the state `v` that a rule made into `t`. -/
structure Concluded (v t : State) : Prop where
  frame : ChangesOnly replyTraffic v t
  written : ∀ n ∈ v.store.dirty, Written t n
  notice : ∀ s n, NoticeFormed s v n → NoticeFormed s t n

theorem State.reply_concluded (v : State) (h : Hdr) (r : Result) (b : ReplyBody) : Concluded v (v.reply h 0 r b).finish := by
  have replies := v.reply_moves h 0 r b
  obtain ⟨x, hx⟩ := replies.officeOwn_grows
  have notices : (v.reply h 0 r b).console.notices = v.console.notices := replies.changesOnly .notices (by decide)
  have sticky := replies.changesOnly .sticky (by decide)
  refine ⟨(replies.mono.next (State.finish_moves _)).changesOnly, fun n hn => State.written_of_dirty ?_, fun s n hn => ?_⟩
  · rw [(replies.changesOnly .storeWriting (by decide)).1]
    exact hn
  · exact (hn.later hx (y := []) (by rw [notices, List.append_nil]) (by rw [sticky.2.1]; exact id)).finish

theorem NoticeFormed.of_restartIdle {n : Notice} (h : NoticeFormed s.restartIdle t n) : NoticeFormed s t n :=
  h.between ⟨s.restartIdle_changes.oport, s.restartIdle_changes.console, State.restartIdle_settings⟩ ⟨rfl, rfl⟩

theorem Concluded.account (h : Concluded v t) (k : Nat) : t.account k = v.account k :=
  State.account_congr (h.frame .accounts (by decide)) k

theorem Concluded.printer (h : Concluded v t) (p : Nat) : t.printer p = v.printer p :=
  State.printer_congr (h.frame .printers (by decide)) p

/-- R174, R175: a management request whose rule answers `r` with `b` and leaves `u`. -/
theorem mgmt_concluded {α : Type} {c : Instr} {x : α} {act : α → State → Reply} {h : Hdr} (hr : ConsoleReady h s)
    (hc : exec c s = mgmtRequest h (some x) act s) {r : Result} {b : ReplyBody}
    (ha : act x s.restartIdle = { state := u, result := r, body := b }) {l : List Piece} (hm : Moves l s.restartIdle u)
    (hl : Piece.reply ∉ l ∧ Piece.officeOther ∉ l := by decide) :
    ∃ t, exec c s = .next t ∧ Replied s t h r b ∧ ChangesOnly (l ++ replyTraffic) s t ∧ Concluded u t := by
  obtain ⟨t, e, ht, replied, frame, -⟩ := mgmtRequest_next (act := act) (x := x) hr (l := l) (by rw [ha]; exact hm) hl
  rw [ha] at ht replied
  exact ⟨t, hc.trans e, replied, frame, ht ▸ State.reply_concluded _ _ _ _⟩

/-- R174: a request that is refused, or that finds nothing to do, leaves everything as it was. -/
theorem mgmt_unchanged {α : Type} {c : Instr} {x : α} {act : α → State → Reply} {h : Hdr} (hr : ConsoleReady h s)
    (hc : exec c s = mgmtRequest h (some x) act s) {r : Result} {b : ReplyBody}
    (ha : act x s.restartIdle = { state := s.restartIdle, result := r, body := b }) :
    ∃ t, exec c s = .next t ∧ Replied s t h r b ∧ ChangesOnly replyTraffic s t := by
  obtain ⟨t, e, replied, frame, -⟩ := mgmt_concluded hr hc ha (l := []) (Moves.refl _)
  exact ⟨t, e, replied, frame⟩

/-! ### The overdrawn flag evaluated (R35) -/

/-- R35: an account with the flag that its spent and its budget give. -/
def Account.evaluated (a : Account) : Account := { a with overdrawn := overdrawnFlag a.cfg.budget a.spent }

theorem State.evalOverdrawn_eq (s : State) (k : Nat) (a : Account) : (s.setAccount k a).evalOverdrawn k =
    if a.evaluated.overdrawn && !a.overdrawn then
      (s.setAccount k a.evaluated).notify (.accountOverdrawn k a.spent a.cfg.budget)
    else s.setAccount k a.evaluated := by
  unfold State.evalOverdrawn
  simp only [State.account_setAccount, if_true, State.setAccount_setAccount]
  rfl

theorem State.evaluated_account (s : State) (k : Nat) (a : Account) (i : Nat) :
    ((s.setAccount k a).evalOverdrawn k).account i = if i = k then a.evaluated else s.account i := by
  rw [State.evalOverdrawn_eq]
  split
  · rw [State.notify_account, State.account_setAccount]
  · rw [State.account_setAccount]

theorem State.evaluated_notice {k : Nat} {a : Account} (hf : a.overdrawn = false) (ht : a.evaluated.overdrawn = true) :
    NoticeFormed s ((s.setAccount k a).evalOverdrawn k) (.accountOverdrawn k a.spent a.cfg.budget) := by
  rw [State.evalOverdrawn_eq, if_pos (by rw [hf, ht]; rfl)]
  exact NoticeFormed.between (s' := s.setAccount k a.evaluated) (State.notify_formed _) ⟨rfl, rfl, rfl⟩ ⟨rfl, rfl⟩

theorem State.evaluated_quiet {k : Nat} {a : Account} (h : a.overdrawn = true ∨ a.evaluated.overdrawn = false) :
    (s.setAccount k a).evalOverdrawn k = s.setAccount k a.evaluated := by
  rw [State.evalOverdrawn_eq, if_neg]
  rcases h with h | h <;> simp [h]

/-! ### The account commands (R29, R30, R36) -/

theorem onAccount_refused {act : Nat → State → Reply} {k : Nat} {r : Result}
    (h : FirstOf [(4095 < k, Result.badIndex), ((s.account k).cfg.valid = false, .unknownAccount)] r) :
    onAccount act k s = Reply.refuse s r := by
  simp only [FirstOf.cons_iff, FirstOf.nil_iff] at h
  unfold onAccount
  rcases h with ⟨c, rfl⟩ | ⟨c, ⟨d, rfl⟩ | ⟨-, no⟩⟩
  · exact if_pos c
  · exact (if_neg c).trans (if_pos d)
  · exact no.elim

theorem onAccount_valid {act : Nat → State → Reply} {k : Nat} (hk : k ≤ 4095) (hv : (s.account k).cfg.valid = true) :
    onAccount act k s = act k s := by
  unfold onAccount
  have inTable : ¬Config.accounts ≤ k := Nat.not_le.2 (Nat.lt_succ_of_le hk)
  rw [if_neg inTable, if_neg (by rw [hv]; decide)]

/-- R29, R30, R36: an account command refused. -/
theorem accountCommands_refused {h : Hdr} {k : Nat} {amount : Int} {r : Result} (hr : ConsoleReady h s)
    (hf : FirstOf [(4095 < k, Result.badIndex), ((s.account k).cfg.valid = false, .unknownAccount)] r) :
    ∀ c ∈ [Instr.adjustAccount h (some (k, amount)), .unlockAccount h (some k), .suspend h (some k), .resume h (some k)],
      ∃ t, exec c s = .next t ∧ Replied s t h r .none ∧ ChangesOnly replyTraffic s t := by
  have refused (act : Nat → State → Reply) : onAccount act k s.restartIdle = Reply.refuse s.restartIdle r :=
    onAccount_refused (by rw [State.restartIdle_account]; exact hf)
  intro c hc
  simp only [List.mem_cons, List.not_mem_nil, or_false] at hc
  rcases hc with rfl | rfl | rfl | rfl
  · exact mgmt_unchanged (act := adjustRule) (x := (k, amount)) hr rfl (refused _)
  · exact mgmt_unchanged (act := onAccount unlockRule) (x := k) hr rfl (refused _)
  · exact mgmt_unchanged (act := onAccount suspendRule) (x := k) hr rfl (refused _)
  · exact mgmt_unchanged (act := onAccount resumeRule) (x := k) hr rfl (refused _)

/-- R25: a command that replaces a balance marks it. -/
theorem mgmt_setsBalance {α : Type} {c : Instr} {x : α} {act : α → State → Reply} {h : Hdr} {k : Nat} {a : Account} {r : Result}
    (hr : ConsoleReady h s) (hc : exec c s = mgmtRequest h (some x) act s)
    (ha : act x s.restartIdle = { state := s.restartIdle.setBalance k a, result := r })
    (sound : (s.account k).Sound → a.Sound) :
    ∃ t, exec c s = .next t ∧ t.account k = a ∧ Replied s t h r .none ∧ Written t (balanceSlot k) ∧ OtherAccounts k s t ∧
      ChangesOnly ([Piece.accounts] ++ replyTraffic) s t := by
  obtain ⟨t, e, replied, frame, after⟩ := mgmt_concluded hr hc ha
    (s.restartIdle.setBalance_moves k a (by rw [State.restartIdle_account]; exact sound))
  refine ⟨t, e, ?_, replied, after.written _ (State.mem_mark _), fun i hi => ?_, frame.mono (by decide)⟩
  · rw [after.account, State.setBalance_account, if_pos rfl]
  · rw [after.account, State.setBalance_account, if_neg hi, State.restartIdle_account]

/-- R36: a sum clamped. -/
theorem adjusted_eq (spent : Nat) (amount : Int) : (adjusted spent amount : Int) = max 0 (min 16777215 (spent + amount)) := by
  have points : Config.maxPoints = 16777215 := rfl
  unfold adjusted
  omega

/-- R35, R36: ADJUST_ACCOUNT carried out. -/
theorem adjustAccount_done {h : Hdr} {k : Nat} {amount : Int} (hr : ConsoleReady h s) (hk : k ≤ 4095)
    (hv : (s.account k).cfg.valid = true) :
    let a : Account := { s.account k with spent := adjusted (s.account k).spent amount }
    ∃ t, exec (.adjustAccount h (some (k, amount))) s = .next t ∧ t.account k = a.evaluated ∧
      (a.overdrawn = false → (t.account k).overdrawn = true → NoticeFormed s t (.accountOverdrawn k a.spent a.cfg.budget)) ∧
      (a.overdrawn = true ∨ (t.account k).overdrawn = false → t.console.notices = s.console.notices) ∧
      Replied s t h .ok (.newSpent a.spent) ∧ Written t (balanceSlot k) ∧ OtherAccounts k s t ∧
      ChangesOnly ([Piece.accounts] ++ noticeTraffic ++ replyTraffic) s t := by
  intro a
  let u := (s.restartIdle.setAccount k a).evalOverdrawn k
  have idle : s.restartIdle.account k = s.account k := State.restartIdle_account k
  have rule : adjustRule (k, amount) s.restartIdle =
      { state := u.mark (balanceSlot k), result := .ok, body := .newSpent a.spent } := by
    refine (onAccount_valid hk (by rw [idle]; exact hv)).trans ?_
    simp only [idle]
    rfl
  have moves := adjustRule_moves (s := s.restartIdle) (k, amount)
  rw [rule] at moves
  obtain ⟨t, e, replied, frame, after⟩ := mgmt_concluded (c := .adjustAccount h (some (k, amount))) (act := adjustRule) (x := (k, amount)) hr rfl rule moves
  have account (i : Nat) : t.account i = if i = k then a.evaluated else s.account i := by
    rw [after.account, State.mark_account, State.evaluated_account, State.restartIdle_account]
  refine ⟨t, e, by rw [account, if_pos rfl], fun hf ht => ?_, fun hq => ?_, replied, after.written _ (State.mem_mark _),
    fun i hi => by rw [account, if_neg hi], frame.mono (by decide)⟩
  · rw [account, if_pos rfl] at ht
    refine after.notice _ _ (NoticeFormed.of_restartIdle ?_)
    exact (State.evaluated_notice hf ht).between ⟨rfl, rfl, rfl⟩ ⟨State.mark_oport _ _, State.mark_console _ _⟩
  · rw [account, if_pos rfl] at hq
    have quiet : u = s.restartIdle.setAccount k a.evaluated := State.evaluated_quiet hq
    rw [after.frame .notices (by decide), State.mark_console, quiet]
    exact s.restartIdle_changes .notices (by decide)

/-- A record whose state is written as it is. -/
theorem Account.eq_with_state {a : Account} {x : AccountState} (h : a.state = x) : a = { a with state := x } := by
  subst h
  rfl

/-- Settles O19: refusals, ADJUST_ACCOUNT, and the three commands by the record's state. -/
theorem accountCommands : Obligations.AccountCommands := by
  refine ⟨fun h k amount s r hr hf => accountCommands_refused hr hf, fun h k amount s hr hk hv => ?_, fun h k s hr hk hv => ?_⟩
  · obtain ⟨t, e, account, notice, quiet, rest⟩ := adjustAccount_done (amount := amount) hr hk hv
    exact ⟨t, adjusted (s.account k).spent amount, e, adjusted_eq _ _, account, notice, quiet, rest⟩
  · have idle : s.restartIdle.account k = s.account k := State.restartIdle_account k
    have valid (act : Nat → State → Reply) : onAccount act k s.restartIdle = act k s.restartIdle :=
      onAccount_valid hk (by rw [idle]; exact hv)
    have unchanged {c : Instr} {act : Nat → State → Reply} {r : Result}
        (hc : exec c s = mgmtRequest h (some k) (onAccount act) s)
        (ha : act k s.restartIdle = { state := s.restartIdle, result := r }) :
        ∃ t, exec c s = .next t ∧ t.account k = s.account k ∧ Replied s t h r .none ∧ OtherAccounts k s t ∧
          ChangesOnly ([Piece.accounts] ++ replyTraffic) s t := by
      obtain ⟨t, e, replied, frame⟩ := mgmt_unchanged hr hc ((valid act).trans ha)
      have accounts (i : Nat) : t.account i = s.account i := State.account_congr (frame .accounts (by decide)) i
      exact ⟨t, e, accounts k, replied, fun i _ => accounts i, frame.mono (by decide)⟩
    refine ⟨?_, ?_, ?_⟩
    · refine mgmt_setsBalance (act := onAccount unlockRule) (x := k) hr rfl (((valid _).trans ?_)) fun h => ⟨h.1, h.2⟩
      unfold unlockRule
      rw [idle]
    · cases e : (s.account k).state with
      | isOpen =>
        obtain ⟨t, e, account, replied, written, others, frame⟩ := mgmt_setsBalance (c := .suspend h (some k))
          (act := onAccount suspendRule) (x := k) (a := { s.account k with state := .suspended }) (r := .ok) hr rfl
          ((valid _).trans (by simp only [suspendRule, idle, e])) fun h => ⟨h.1, h.2⟩
        exact ⟨t, e, account, replied, fun _ => written, others, frame⟩
      | suspended =>
        obtain ⟨t, e', account, replied, others, frame⟩ := unchanged (c := .suspend h (some k)) (act := suspendRule) (r := .ok) rfl
          (by simp only [suspendRule, idle, e])
        exact ⟨t, e', account.trans (Account.eq_with_state e), replied, nofun, others, frame⟩
      | locked =>
        obtain ⟨t, e', account, replied, others, frame⟩ := unchanged (c := .suspend h (some k)) (act := suspendRule)
          (r := .entryLocked) rfl (by simp only [suspendRule, idle, e]; rfl)
        exact ⟨t, e', account.trans (Account.eq_with_state e), replied, nofun, others, frame⟩
    · cases e : (s.account k).state with
      | suspended =>
        obtain ⟨t, e, account, replied, written, others, frame⟩ := mgmt_setsBalance (c := .resume h (some k))
          (act := onAccount resumeRule) (x := k) (a := { s.account k with state := .isOpen }) (r := .ok) hr rfl
          ((valid _).trans (by simp only [resumeRule, idle, e])) fun h => ⟨h.1, h.2⟩
        exact ⟨t, e, account, replied, fun _ => written, others, frame⟩
      | isOpen =>
        obtain ⟨t, e', account, replied, others, frame⟩ := unchanged (c := .resume h (some k)) (act := resumeRule) (r := .ok) rfl
          (by simp only [resumeRule, idle, e])
        exact ⟨t, e', account.trans (Account.eq_with_state e), replied, nofun, others, frame⟩
      | locked =>
        obtain ⟨t, e', account, replied, others, frame⟩ := unchanged (c := .resume h (some k)) (act := resumeRule)
          (r := .entryLocked) rfl (by simp only [resumeRule, idle, e]; rfl)
        exact ⟨t, e', account.trans (Account.eq_with_state e), replied, nofun, others, frame⟩

end Sys2Proof.Machine

/-! PROOFS. The writes of the Settings, Classifier and Tariff Tables (R5, R6, R39, R49, R177), and the period rolls that commands
make (R40, R41, R51, R168). -/

namespace Sys2Proof.Machine

set_option Elab.async false

variable {s t u v : State}

/-! ### Table writes (R6, R39, R49, R177) -/

/-- A refusal that a list of two cases places first. -/
theorem Reply.refuse_eq (s : State) (r : Result) : Reply.refuse s r = { state := s, result := r } := rfl

/-- R39: a written next-roll day. -/
theorem placedRollDay_eq (calendar : Option Calendar) (length day : Nat) : placedRollDay calendar length day =
    match calendar with
    | none => day
    | some c => if c.day < day then day else firstBoundary day length c.day := by
  cases calendar with
  | none => rfl
  | some c =>
    unfold placedRollDay
    dsimp only
    by_cases h : c.day < day
    · rw [if_pos h, if_neg (Nat.not_le.2 h)]
    · rw [if_neg h, if_pos (Nat.not_lt.1 h)]

theorem State.restartIdle_calendar (s : State) : s.restartIdle.clock.calendar = s.clock.calendar := by
  obtain ⟨c, e⟩ := s.restartIdle_eq
  rw [e]

/-- R39, R177: SETTINGS_WRITE of the one entry. -/
theorem settingsWrite_done {h : Hdr} (hr : ConsoleReady h s) (b : Settings) :
    ∃ t, exec (.settingsWrite h (some (0, b))) s = .next t ∧ t.settings = Settings.stored b s.clock.calendar ∧
      Replied s t h .ok .none ∧ Written t settingsSlot ∧ ChangesOnly ([Piece.settings] ++ replyTraffic) s t := by
  let u : State := { s.restartIdle with settings := Settings.stored b s.clock.calendar }
  have rule : settingsRule (0, b) s.restartIdle = { state := u.mark settingsSlot, result := .ok } := by
    unfold settingsRule
    rw [State.restartIdle_calendar]
    rfl
  have moves := settingsRule_moves (s := s.restartIdle) (0, b)
  rw [rule] at moves
  obtain ⟨t, e, replied, frame, after⟩ :=
    mgmt_concluded (c := .settingsWrite h (some (0, b))) (act := settingsRule) (x := (0, b)) hr rfl rule moves
  refine ⟨t, e, ?_, replied, after.written _ (State.mem_mark _), frame.mono (by decide)⟩
  exact (after.frame .settings (by decide)).trans ((State.mark_moves _ _).changesOnly .settings (by decide))

/-- R6: the Classifier Table once an entry is written; entry 24 is DEFAULT. -/
def State.classWritten (s : State) (i : Nat) (e : ClassEntry) : State :=
  if i < 24 then { s with classifier := s.classifier.put ClassEntry.factory i (ClassEntry.stored i e) }
  else { s with dflt := ClassEntry.stored i e }

theorem State.classEntry_congr (h : t.classifier = s.classifier ∧ t.dflt = s.dflt) (i : Nat) :
    t.classEntry i = s.classEntry i := by
  unfold State.classEntry
  rw [h.1, h.2]

theorem State.classEntry_written {i k : Nat} {e : ClassEntry} (hi : i ≤ 24) (hk : k ≤ 24) :
    (s.classWritten i e).classEntry k = if k = i then ClassEntry.stored i e else s.classEntry k := by
  unfold State.classWritten State.classEntry
  by_cases lt : i < 24
  · rw [if_pos lt]
    dsimp only
    rw [Tbl.get_put]
    by_cases h : k = i
    · subst h; rw [if_pos lt, if_pos rfl, if_pos rfl]
    · rw [if_neg h, if_neg h]
  · rw [if_neg lt]
    dsimp only
    by_cases h : k = i
    · subst h; rw [if_neg lt, if_pos rfl]
    · rw [if_neg h, if_pos (by omega), if_pos (by omega)]

/-- R6: CLASSIFIER_WRITE of an entry of the table. -/
theorem classifierWrite_done {h : Hdr} {i : Nat} (hr : ConsoleReady h s) (hi : i ≤ 24) (b : ClassEntry) :
    ∃ t, exec (.classifierWrite h (some (i, b))) s = .next t ∧ t.classEntry i = ClassEntry.stored i b ∧
      (∀ k, k ≤ 24 → k ≠ i → t.classEntry k = s.classEntry k) ∧
      Replied s t h .ok .none ∧ Written t (classSlot i) ∧ ChangesOnly ([Piece.classifier] ++ replyTraffic) s t := by
  let u := s.restartIdle.classWritten i b
  have rule : classifierRule (i, b) s.restartIdle = { state := u.mark (classSlot i), result := .ok } := by
    unfold classifierRule
    rw [if_neg (Nat.not_lt.2 hi)]
    rfl
  have moves := classifierRule_moves (s := s.restartIdle) (i, b)
  rw [rule] at moves
  obtain ⟨t, e, replied, frame, after⟩ :=
    mgmt_concluded (c := .classifierWrite h (some (i, b))) (act := classifierRule) (x := (i, b)) hr rfl rule moves
  have entry (k : Nat) (hk : k ≤ 24) : t.classEntry k = if k = i then ClassEntry.stored i b else s.classEntry k := by
    rw [State.classEntry_congr (after.frame .classifier (by decide)),
      State.classEntry_congr ((State.mark_moves _ _).changesOnly .classifier (by decide)), State.classEntry_written hi hk,
      State.classEntry_congr (s.restartIdle_changes .classifier (by decide))]
  exact ⟨t, e, by rw [entry i hi, if_pos rfl], fun k hk hne => by rw [entry k hk, if_neg hne], replied,
    after.written _ (State.mem_mark _), frame.mono (by decide)⟩

/-- R49: TARIFF_WRITE of a row of the table. -/
theorem tariffWrite_done {h : Hdr} {i : Nat} (hr : ConsoleReady h s) (hi : i ≤ 15) (b : Row) :
    ∃ t, exec (.tariffWrite h (some (i, b))) s = .next t ∧
      t.tariff = { s.tariff with pending := s.tariff.pending.put Row.factory i (Row.stored b), written := true } ∧
      Replied s t h .ok .none ∧ Written t (pendingSlot i) ∧ ChangesOnly ([Piece.tariff] ++ replyTraffic) s t := by
  have rule : tariffRule (i, b) s.restartIdle = { state := s.restartIdle.writePending i b, result := .ok } := by
    unfold tariffRule
    rw [if_neg (Nat.not_lt.2 hi)]
  obtain ⟨t, e, replied, frame, after⟩ :=
    mgmt_concluded (c := .tariffWrite h (some (i, b))) (act := tariffRule) (x := (i, b)) hr rfl rule (s.restartIdle.writePending_moves i b)
  refine ⟨t, e, ?_, replied, after.written _ (State.mem_mark _), frame.mono (by decide)⟩
  have same : s.restartIdle.tariff = s.tariff := s.restartIdle_changes .tariff (by decide)
  rw [after.frame .tariff (by decide), State.writePending, (State.mark_moves _ _).changesOnly .tariff (by decide), same]

/-- Settles O23, table by table. -/
theorem tableWrites : Obligations.TableWrites := by
  intro h i s hr
  have refused {α : Type} {c : Instr} {x : α} {act : α → State → Reply} (hc : exec c s = mgmtRequest h (some x) act s)
      (ha : act x s.restartIdle = Reply.refuse s.restartIdle .badIndex) :
      ∃ t, exec c s = .next t ∧ Replied s t h .badIndex .none ∧ ChangesOnly replyTraffic s t := mgmt_unchanged hr hc ha
  refine ⟨fun b => ?_, fun b => ?_, fun b => ?_⟩
  · rcases Nat.eq_zero_or_pos i with rfl | hi
    · obtain ⟨t, e, settings, rest⟩ := settingsWrite_done hr b
      refine ⟨t, e, fun c => absurd c (Nat.lt_irrefl 0), fun _ => ⟨?_, rest⟩⟩
      rw [settings, Settings.stored, placedRollDay_eq]
      rfl
    · obtain ⟨t, e, rest⟩ := refused (c := .settingsWrite h (some (i, b))) (act := settingsRule) (x := (i, b)) rfl (if_pos hi)
      exact ⟨t, e, fun _ => rest, fun c => absurd c (Nat.ne_of_gt hi)⟩
  · by_cases hi : 24 < i
    · obtain ⟨t, e, rest⟩ := refused (c := .classifierWrite h (some (i, b))) (act := classifierRule) (x := (i, b)) rfl (if_pos hi)
      exact ⟨t, e, fun _ => rest, fun c => absurd c (Nat.not_le.2 hi)⟩
    · obtain ⟨t, e, rest⟩ := classifierWrite_done hr (Nat.not_lt.1 hi) b
      exact ⟨t, e, fun c => absurd c hi, fun _ => rest⟩
  · by_cases hi : 15 < i
    · obtain ⟨t, e, rest⟩ := refused (c := .tariffWrite h (some (i, b))) (act := tariffRule) (x := (i, b)) rfl (if_pos hi)
      exact ⟨t, e, fun _ => rest, fun c => absurd c (Nat.not_le.2 hi)⟩
    · obtain ⟨t, e, tariff, rest⟩ := tariffWrite_done hr (Nat.not_lt.1 hi) b
      refine ⟨t, e, fun c => absurd c hi, fun _ => ⟨?_, fun k hk => ?_, ?_, ?_, rest⟩⟩ <;> rw [tariff]
      · dsimp only; rw [Tbl.get_put, if_pos rfl]; rfl
      · dsimp only; rw [Tbl.get_put, if_neg hk]

end Sys2Proof.Machine

/-! PROOFS. Checkpoint occasions and period rolls (R39, R40, R51, R168), and the roll commands (R41). -/

namespace Sys2Proof.Machine

set_option Elab.async false

variable {s t u v : State}

/-! ### Checkpoint occasions (R168) -/

theorem deferred_iff (n : Nat) : deferred n = true ↔ 4282 ≤ n ∧ n ≤ 8633 := by
  rw [deferred, decide_eq_true_iff]
  omega

/-- R168: the slots of a list that are of a deferred kind join the called ones. -/
theorem mem_called_foldl (l : List Nat) (n : Nat) : ∀ called : List Nat,
    n ∈ l.foldl (fun l n => if deferred n then insertSlot n l else l) called ↔ n ∈ called ∨ (n ∈ l ∧ 4282 ≤ n ∧ n ≤ 8633) := by
  induction l with
  | nil => simp
  | cons m l ih =>
    intro called
    rw [List.foldl_cons, ih, List.mem_cons]
    by_cases hm : deferred m = true
    · rw [if_pos hm, mem_insertSlot]
      rw [deferred_iff] at hm
      constructor
      · rintro ((rfl | h) | h)
        · exact .inr ⟨.inl rfl, hm⟩
        · exact .inl h
        · exact .inr ⟨.inr h.1, h.2⟩
      · rintro (h | ⟨rfl | h, hn⟩)
        · exact .inl (.inr h)
        · exact .inl (.inl rfl)
        · exact .inr ⟨h, hn⟩
    · rw [if_neg hm]
      rw [deferred_iff] at hm
      constructor
      · rintro (h | h)
        · exact .inl h
        · exact .inr ⟨.inr h.1, h.2⟩
      · rintro (h | ⟨rfl | h, hn⟩)
        · exact .inl h
        · exact absurd hn hm
        · exact .inr ⟨h, hn⟩

/-- R168: a checkpoint occasion. -/
theorem State.checkpointOccasion_called (s : State) : Called s s.checkpointOccasion := by
  refine ⟨{ s with store := { s.store with
    called := s.store.dirty.foldl (fun l n => if deferred n then insertSlot n l else l) s.store.called } },
    fun n => mem_called_foldl s.store.dirty n s.store.called, rfl, rfl, rfl, ?_, rfl⟩
  intro x hx
  cases x <;> first | exact rfl | exact ⟨rfl, rfl⟩ | exact ⟨rfl, rfl, rfl⟩ | exact absurd (by simp) hx

theorem State.enqueueAll_called (l : List Nat) : ∀ s : State, (l.foldl State.enqueue s).store.called = s.store.called := fun s => by
  obtain ⟨q, e⟩ := State.enqueueAll_eq l s
  rw [e]

theorem Called.dirty (h : Called s t) : t.store.dirty = s.store.dirty := by
  obtain ⟨u, -, dirty, -, -, -, rfl⟩ := h
  exact State.fillQueue_dirty.1.trans dirty

theorem Called.called (h : Called s t) (n : Nat) :
    n ∈ t.store.called ↔ n ∈ s.store.called ∨ (n ∈ s.store.dirty ∧ 4282 ≤ n ∧ n ≤ 8633) := by
  obtain ⟨u, called, -, -, -, -, rfl⟩ := h
  rw [State.fillQueue, State.enqueueAll_called]
  exact called n

theorem State.mark_called (s : State) (n : Nat) : (s.mark n).store.called = s.store.called := by
  obtain ⟨q, e⟩ := s.mark_eq n
  rw [e]

/-- A dirty and called record stays so at the end of a step, or its image is captured (R167). -/
theorem State.finish_called {n : Nat} (hd : n ∈ u.store.dirty) (hc : n ∈ u.store.called) :
    (n ∈ u.finish.store.dirty ∧ n ∈ u.finish.store.called) ∨ u.finish.store.underWay = some (n, u.finish.image n) := by
  rw [State.finish_image]
  have service : u.finish.store = u.beginProgram.store := by
    unfold State.finish State.idleService
    split
    · split <;> rfl
    · rfl
  rw [service]
  unfold State.beginProgram
  split
  next m rest hw hq =>
    rw [State.fillQueue_dirty.1, State.fillQueue_dirty.2, State.fillQueue, State.enqueueAll_called]
    by_cases hm : n = m
    · exact .inr (by rw [hm])
    · exact .inl ⟨List.mem_filter.2 ⟨hd, by simpa using hm⟩, List.mem_filter.2 ⟨hc, by simpa using hm⟩⟩
  · exact .inl ⟨hd, hc⟩

/-! ### The parts of a period roll (R40) -/

/-- R39: the next-roll day set. -/
theorem State.setNextRoll_settings (s : State) (d : Nat) :
    (s.setNextRoll d).settings = { s.settings with nextRollDay := d } := by
  unfold State.setNextRoll
  split
  next h => rw [h]
  next => exact (State.mark_moves _ _).changesOnly .settings (by decide)

theorem State.setNextRoll_dirty (s : State) (d : Nat) :
    (∀ n ∈ s.store.dirty, n ∈ (s.setNextRoll d).store.dirty) ∧
    (∀ n ∈ (s.setNextRoll d).store.dirty, n = settingsSlot ∨ n ∈ s.store.dirty) ∧
    (d ≠ s.settings.nextRollDay → settingsSlot ∈ (s.setNextRoll d).store.dirty) ∧
    (s.setNextRoll d).store.called = s.store.called := by
  unfold State.setNextRoll
  split
  next h => exact ⟨fun n hn => hn, fun n hn => .inr hn, fun hne => absurd h hne, rfl⟩
  next h =>
    refine ⟨fun n hn => State.mem_mark_of_mem _ _ hn, fun n hn => ?_, fun _ => State.mem_mark _, State.mark_called _ _⟩
    rw [State.mark_dirty, mem_insertSlot] at hn
    exact hn

/-- R51: the bank swap. -/
theorem State.bankSwap_tariff (s : State) : s.bankSwap.tariff =
    if s.tariff.written then { active := s.tariff.pending, pending := s.tariff.pending, written := false } else s.tariff := by
  unfold State.bankSwap
  split
  · exact (State.markAll_moves _ _).changesOnly .tariff (by decide)
  · rfl

theorem State.mem_markAll (ns : List Nat) (n : Nat) (s : State) : n ∈ (s.markAll ns).store.dirty ↔ n ∈ ns ∨ n ∈ s.store.dirty := by
  obtain ⟨d, q, e, hd⟩ := State.markAll_eq ns s
  rw [e]
  exact hd n

theorem State.markAll_called (ns : List Nat) (s : State) : (s.markAll ns).store.called = s.store.called := by
  obtain ⟨d, q, e, -⟩ := State.markAll_eq ns s
  rw [e]

theorem State.bankSwap_dirty (s : State) :
    (∀ n ∈ s.store.dirty, n ∈ s.bankSwap.store.dirty) ∧
    (s.tariff.written = true → ∀ i < 16, activeSlot i ∈ s.bankSwap.store.dirty) ∧ s.bankSwap.store.called = s.store.called := by
  unfold State.bankSwap
  split
  next h =>
    refine ⟨fun n hn => (State.mem_markAll _ _ _).2 (.inr hn), fun _ i hi => (State.mem_markAll _ _ _).2 (.inl ?_),
      State.markAll_called _ _⟩
    exact List.mem_map.2 ⟨i, List.mem_range.2 hi, rfl⟩
  next h => exact ⟨fun n hn => hn, fun hw => absurd hw h, rfl⟩

/-- R40: the records of a roll before its notice. -/
def State.rolledRecords (s : State) : State :=
  State.bankSwap { s with accounts := s.accounts.mapAll Account.factory Account.rolled }

/-- R40, R168: the dirty balances of a roll, called. -/
def State.rolledCalled (s : State) : State :=
  (s.rolledRecords.markAll ((s.rolledRecords.accounts.indexesWhere (fun a => a.cfg.valid)).map balanceSlot)).checkpointOccasion

theorem State.periodRoll_eq (s : State) (next : Nat) (announce : Bool) : s.periodRoll next announce =
    if announce then (s.rolledCalled.setNextRoll next).notify (.periodRolled next) else s.rolledCalled.setNextRoll next := rfl

theorem State.rolledRecords_accounts (s : State) :
    s.rolledRecords.accounts = s.accounts.mapAll Account.factory Account.rolled :=
  (State.bankSwap_moves _).changesOnly .accounts (by decide)

theorem Account.rolled_eq (a : Account) : a.rolled =
    { a with spent := if a.cfg.valid then 0 else a.spent, overdrawn := if a.cfg.valid then false else a.overdrawn } := by
  unfold Account.rolled
  split <;> rfl

theorem State.rolledRecords_account (h : s.TablesCanonical) (k : Nat) : s.rolledRecords.account k = (s.account k).rolled := by
  unfold State.account
  rw [State.rolledRecords_accounts]
  exact Tbl.get_mapAll rfl (Tbl.nodup_of_wf h.accounts) k

/-- R40: the accounts whose balance a roll marks. -/
theorem State.mem_rolled_iff (h : s.TablesCanonical) (k : Nat) :
    k ∈ s.rolledRecords.accounts.indexesWhere (fun a => a.cfg.valid) ↔ (s.account k).cfg.valid = true := by
  have rolled := State.rolledRecords_account h k
  unfold State.account at rolled
  rw [State.rolledRecords_accounts] at rolled ⊢
  rw [Tbl.mem_indexesWhere_iff (d := Account.factory) (Tbl.nodup_of_wf (Tbl.wf_mapAll _ h.accounts)) rfl, rolled, Account.rolled_eq]
  rfl

/-- R168: the dirty records of a roll, and those it calls. -/
theorem State.rolledCalled_store (h : s.TablesCanonical) :
    (∀ n, n ∈ s.rolledCalled.store.dirty ↔
      (∃ k, (s.account k).cfg.valid = true ∧ n = balanceSlot k) ∨ n ∈ s.rolledRecords.store.dirty) ∧
    (∀ n, n ∈ s.rolledCalled.store.called ↔
      n ∈ s.store.called ∨ (4282 ≤ n ∧ n ≤ 8633 ∧ n ∈ s.rolledCalled.store.dirty)) := by
  have occasion := State.checkpointOccasion_called
    (s.rolledRecords.markAll ((s.rolledRecords.accounts.indexesWhere (fun a => a.cfg.valid)).map balanceSlot))
  refine ⟨fun n => ?_, fun n => ?_⟩
  · rw [State.rolledCalled, occasion.dirty, State.mem_markAll, List.mem_map]
    simp only [State.mem_rolled_iff h, eq_comm]
  · rw [State.rolledCalled, occasion.called, occasion.dirty, State.markAll_called]
    have same : s.rolledRecords.store.called = s.store.called := (State.bankSwap_dirty _).2.2
    rw [same]
    tauto

theorem State.periodRoll_store (s : State) (next : Nat) (announce : Bool) :
    (s.periodRoll next announce).store = (s.rolledCalled.setNextRoll next).store := by
  rw [State.periodRoll_eq]
  split
  · obtain ⟨q, l, b, e⟩ := State.notify_eq (s.rolledCalled.setNextRoll next) (.periodRolled next)
    rw [e]
  · rfl

/-- R40, R168: what was dirty before a roll stays so, and the balances it resets become so. -/
theorem State.periodRoll_dirty (h : s.TablesCanonical) (next : Nat) (announce : Bool) {n : Nat}
    (hn : n ∈ s.store.dirty ∨ ∃ k, n = balanceSlot k ∧ (s.account k).cfg.valid = true) :
    n ∈ (s.periodRoll next announce).store.dirty := by
  rw [State.periodRoll_store]
  refine (State.setNextRoll_dirty _ next).1 n (((State.rolledCalled_store h).1 n).2 ?_)
  rcases hn with hn | ⟨k, hk, hv⟩
  · exact .inr ((State.bankSwap_dirty _).1 n hn)
  · exact .inl ⟨k, hv, hk⟩

/-- R180: a notice formed when only the next-roll day has moved is formed from before. -/
theorem NoticeFormed.of_moved {s' : State} {n : Notice} {d : Nat} (h : NoticeFormed s' t n) (office : s'.oport = s.oport)
    (console : s'.console = s.console) (settings : s'.settings = { s.settings with nextRollDay := d }) : NoticeFormed s t n := by
  intro enabled
  have formed := h (by unfold State.noticeEnabled; rw [settings]; exact enabled)
  simp only [State.addressed, settings, office, console] at formed ⊢
  exact formed

/-- R39, R40, R51, R168: a period roll. -/
theorem State.periodRoll_rolled (h : s.TablesCanonical) (next : Nat) (announce : Bool) :
    PeriodRolled s (s.periodRoll next announce) next announce := by
  let u := s.rolledCalled.setNextRoll next
  have records : ChangesOnly [Piece.storeWriting] s.rolledRecords s.rolledCalled :=
    ((State.markAll_moves _ _).trans (State.checkpointOccasion_moves _)).changesOnly
  have roll : ChangesOnly [Piece.settings, .storeWriting] s.rolledCalled u := (State.setNextRoll_moves _ _).changesOnly
  have start : ChangesOnly [Piece.accounts, .tariff, .storeWriting] s s.rolledRecords := by
    have first : ChangesOnly [Piece.accounts] s { s with accounts := s.accounts.mapAll Account.factory Account.rolled } := by
      intro x hx
      cases x <;> first | exact rfl | exact ⟨rfl, rfl⟩ | exact ⟨rfl, rfl, rfl⟩ | exact ⟨rfl, rfl, rfl, rfl⟩ | exact absurd (by simp) hx
    exact (first.mono (by decide)).trans ((State.bankSwap_moves _).changes)
  have quiet : ChangesOnly [Piece.accounts, .tariff, .settings, .storeWriting] s u :=
    ((start.mono (by decide)).trans (records.mono (by decide))).trans (roll.mono (by decide))
  have told : ChangesOnly noticeTraffic u (s.periodRoll next announce) := by
    rw [State.periodRoll_eq]
    split
    · exact (State.notify_moves _ _).changesOnly
    · exact (Moves.refl _).changesOnly
  have store : (s.periodRoll next announce).store = u.store := s.periodRoll_store next announce
  obtain ⟨dirty, called⟩ := State.rolledCalled_store h
  obtain ⟨kept, only, moved, same⟩ := State.setNextRoll_dirty s.rolledCalled next
  have rows := (State.bankSwap_dirty { s with accounts := s.accounts.mapAll Account.factory Account.rolled }).2.1
  have settings : s.rolledCalled.settings = s.settings :=
    (records .settings (by decide)).trans (start .settings (by decide))
  have schedule : u.settings = { s.settings with nextRollDay := next } := by
    rw [← settings]
    exact State.setNextRoll_settings _ _
  have calledNow (n : Nat) : n ∈ u.store.called ↔ n ∈ s.store.called ∨ (4282 ≤ n ∧ n ≤ 8633 ∧ n ∈ u.store.dirty) := by
    rw [same, called]
    refine or_congr_right ⟨fun ⟨lo, hi, hn⟩ => ⟨lo, hi, kept n hn⟩, fun ⟨lo, hi, hn⟩ => ⟨lo, hi, (only n hn).resolve_left ?_⟩⟩
    have : settingsSlot = 0 := rfl
    omega
  refine ⟨fun k => ?_, fun k hk hv => ?_, fun n => by rw [store]; exact calledNow n, ?_, fun hw i hi => ?_, ?_, fun hne => ?_,
    fun ha => ?_, fun ha => ?_, (quiet.mono (by decide)).trans (told.mono (by decide))⟩
  · rw [State.account_congr (told .accounts (by decide)), State.account_congr (roll .accounts (by decide)),
      State.account_congr (records .accounts (by decide)), State.rolledRecords_account h, Account.rolled_eq]
  · rw [store]
    have isDirty : balanceSlot k ∈ u.store.dirty := kept _ ((dirty _).2 (.inl ⟨k, hv, rfl⟩))
    refine ⟨isDirty, (calledNow _).2 (.inr ⟨?_, ?_, isDirty⟩)⟩ <;> unfold balanceSlot <;> omega
  · rw [told .tariff (by decide), roll .tariff (by decide), records .tariff (by decide)]
    exact State.bankSwap_tariff _
  · rw [store]
    exact kept _ ((dirty _).2 (.inr (rows hw i hi)))
  · exact (told .settings (by decide)).trans schedule
  · rw [store]
    exact moved (by rw [settings]; exact hne)
  · subst ha
    exact NoticeFormed.of_moved (s' := u) (State.notify_formed _) quiet.oport quiet.console schedule
  · subst ha
    exact ⟨quiet.oport, quiet.console⟩

/-! ### The schedule (R39) and the roll commands (R41) -/

/-- R39: the first boundary later than a day, at most a period away, on the schedule. -/
theorem firstBoundary_spec (next day : Nat) {length : Nat} (h : 1 ≤ length) :
    day < firstBoundary next length day ∧ firstBoundary next length day ≤ day + length ∧
      (length : Int) ∣ (firstBoundary next length day : Int) - next := by
  have positive : (0 : Int) < length := by exact_mod_cast h
  have low := Int.mul_ediv_self_le (x := (day : Int) - next) (k := (length : Int)) (by omega)
  have high := Int.lt_mul_ediv_self_add (x := (day : Int) - next) (k := (length : Int)) positive
  have value : (firstBoundary next length day : Int) = next + length * (((day : Int) - next) / length + 1) := by
    unfold firstBoundary
    rw [Int.fdiv_eq_ediv_of_nonneg _ (by omega), Int.toNat_of_nonneg]
    rw [Int.mul_add]
    omega
  refine ⟨?_, ?_, ?_⟩
  · rw [Int.mul_add] at value; omega
  · rw [Int.mul_add] at value; omega
  · exact ⟨((day : Int) - next) / length + 1, by omega⟩

theorem State.nextRollCaught_spec (s : State) :
    (s.clock.calendar = none → s.nextRollCaught = s.settings.nextRollDay) ∧
    (∀ c, s.clock.calendar = some c → 1 ≤ s.settings.periodLength →
      c.day < s.nextRollCaught ∧ s.nextRollCaught ≤ c.day + s.settings.periodLength ∧
        (s.settings.periodLength : Int) ∣ (s.nextRollCaught : Int) - s.settings.nextRollDay) := by
  unfold State.nextRollCaught
  refine ⟨fun h => by rw [h], fun c h hp => ?_⟩
  rw [h]
  exact firstBoundary_spec _ _ hp

theorem State.restartIdle_nextRollCaught (s : State) : s.restartIdle.nextRollCaught = s.nextRollCaught := by
  obtain ⟨c, e⟩ := s.restartIdle_eq
  rw [e]
  rfl

/-- R41: the roll commands. -/
theorem rollCommand_done {h : Hdr} {announce : Bool} (hr : ConsoleReady h s) :
    ∃ t, exec (if announce then .rollPeriod h true else .forceRoll h true) s = .next t ∧ Replied s t h .ok .none ∧
      ChangesOnly (rollPieces ++ replyTraffic) s t ∧ Concluded (s.restartIdle.periodRoll s.nextRollCaught announce) t ∧
      t = ((s.restartIdle.periodRoll s.nextRollCaught announce).reply h 0 .ok .none).finish := by
  have e : exec (if announce then .rollPeriod h true else .forceRoll h true) s =
      mgmtRequest h (some ()) (fun _ => rollRule announce) s := by cases announce <;> rfl
  obtain ⟨t, next, last, replied, frame, -⟩ := mgmtRequest_next (act := fun _ => rollRule announce) (x := ()) hr
    (rollRule_moves (s := s.restartIdle) announce)
  simp only [rollRule, State.restartIdle_nextRollCaught] at last replied
  exact ⟨t, e.trans next, replied, frame, last ▸ State.reply_concluded _ _ _ _, last⟩

theorem State.reply_store (v : State) (h : Hdr) (g : Nat) (r : Result) (b : ReplyBody) : (v.reply h g r b).store = v.store := by
  obtain ⟨q, o, e⟩ := State.reply_eq v h g r b
  rw [e]

theorem State.TablesCanonical.restartIdle (h : s.TablesCanonical) : s.restartIdle.TablesCanonical := by
  obtain ⟨c, e⟩ := s.restartIdle_eq
  rw [e]
  exact ⟨h.classifier, h.accounts, h.active, h.waiting, h.printers, h.callouts, h.reorders, h.slots⟩

/-- Settles O21, from what a period roll is. -/
theorem rollCommands : Obligations.RollCommands := by
  intro h s announce hr hc
  obtain ⟨t, e, replied, frame, after, last⟩ := rollCommand_done (announce := announce) hr
  have rolled := State.periodRoll_rolled hc.restartIdle s.nextRollCaught announce
  have settings : t.settings = { s.settings with nextRollDay := s.nextRollCaught } := by
    rw [after.frame .settings (by decide), rolled.schedule, State.restartIdle_settings]
  have caught := s.nextRollCaught_spec
  have tariff : t.tariff =
      if s.tariff.written then { active := s.tariff.pending, pending := s.tariff.pending, written := false } else s.tariff := by
    rw [after.frame .tariff (by decide), rolled.banks, s.restartIdle_changes .tariff (by decide)]
  have written : s.restartIdle.tariff.written = s.tariff.written :=
    congrArg Tariff.written (s.restartIdle_changes .tariff (by decide))
  refine ⟨t, e, fun k => ?_, fun k hv => ?_, fun n lo hi hn => ?_, fun hw => ⟨?_, fun i hi => ?_⟩, fun hw => ?_, fun c hcal hp => ?_,
    fun hcal => ?_, ?_, fun ha => ?_, fun ha => ?_, replied, frame.mono (by decide)⟩
  · rw [after.account, rolled.accounts, State.restartIdle_account]
  · exact after.written _ (State.periodRoll_dirty hc.restartIdle _ _ (.inr ⟨k, rfl, by rw [State.restartIdle_account]; exact hv⟩))
  · have isDirty : n ∈ (s.restartIdle.periodRoll s.nextRollCaught announce).store.dirty := by
      refine State.periodRoll_dirty hc.restartIdle _ _ ?_
      simp only [State.restartIdle_store, State.restartIdle_account]
      exact hn
    have isCalled := (rolled.called n).2 (.inr ⟨lo, hi, isDirty⟩)
    rw [← State.reply_store _ h 0 .ok .none] at isDirty isCalled
    rw [last]
    exact State.finish_called isDirty isCalled
  · rw [tariff, if_pos hw]
  · exact after.written _ (rolled.rows (written.trans hw) i hi)
  · rw [tariff, if_neg (by rw [hw]; decide)]
  · rw [settings]
    exact caught.2 c hcal hp
  · rw [settings]
    exact caught.1 hcal
  · rw [settings]
  · have : t.settings.nextRollDay = s.nextRollCaught := by rw [settings]
    rw [this]
    exact after.notice _ _ (NoticeFormed.of_restartIdle (rolled.notice ha))
  · rw [after.frame .notices (by decide), (rolled.quiet ha).2]
    exact s.restartIdle_changes .notices (by decide)

end Sys2Proof.Machine

/-! PROOFS. Jobs that end one after another (R3, R18, R43), and the writes of the Account Table (R42, R43). -/

namespace Sys2Proof.Machine

set_option Elab.async false

variable {s t u v : State}

/-! ### Jobs that end one after another -/

theorem State.outgoing_endJob_le (s : State) (j : Job) (why : EndReason) :
    (s.endJob j why).jobs.outgoing.length ≤ s.jobs.outgoing.length + 1 := by
  have leaving : ((s.released j).leaveCollection j).jobs.outgoing = s.jobs.outgoing :=
    (State.leaveCollection_moves (s.released j) j).changesOnly .outgoing (by decide)
  rw [State.endJob_steps, State.spoolLowTest_jobs, ← leaving]
  unfold State.jobStatus
  split
  · exact State.outgoing_jobSend_le _
  · exact Nat.le_succ _

/-- Of distinct tags, each record is the one its tag names. -/
theorem State.job_of_mem (hn : s.TagsOnce) {j : Job} (h : j ∈ s.jobs.recs) : s.job j.tag = some j := by
  cases e : s.job j.tag with
  | none => exact absurd (List.find?_eq_none.1 e j h) (by simp)
  | some x => rw [List.inj_on_of_nodup_map hn (s.mem_of_job e) h (s.tag_of_job e)]

/-- R3: no job ends. -/
theorem JobsEnded.nil (s : State) (why : EndReason) : JobsEnded s s [] why :=
  ⟨by simp, by simp, by simp, 
    ((List.map_congr_left (g := id) fun c _ => by cases c <;> rfl).trans (List.map_id _)).symm, fun k => by simp, fun _ => by simpa using JobSent.refl s, ChangesOnly.refl _ _⟩

/-- R3: a Receiving or Held job ends. -/
theorem State.endJob_jobsEnded {j : Job} (why : EndReason) (h : j.state = .receiving ∨ j.state = .held) :
    JobsEnded s (s.endJob j why) [j] why := by
  have ended := s.endJob_ended j why
  have notDelivery : j.state.inDelivery = false := by rcases h with h | h <;> rw [h] <;> rfl
  refine ⟨by simpa using ended.record, by simpa using ended.chain, by simpa using ended.promise, by simpa using ended.context,
    fun k => ?_, fun room => ?_, ?_⟩
  · rcases h with h | h
    · have same : (s.endJob j why).account k = s.account k :=
        State.account_congr (s.endJob_receiving why h .accounts (by decide)) k
      simp [same, h]
    · obtain ⟨account, others, -⟩ := s.endJob_held why h
      by_cases hk : k = j.account
      · subst hk
        rw [account]
        simp [h, eq_comm]
      · rw [others k hk]
        simp [Ne.symm hk]
  · have sent := s.endJob_sent (j := j) why (by simp only [List.length_singleton] at room; omega)
    rw [notDelivery] at sent
    exact sent
  · rcases h with h | h
    · exact (s.endJob_receiving why h).mono (by decide)
    · exact (s.endJob_held why h).2.2.mono (by decide)

/-- R3: one job ends, and then others. -/
theorem JobsEnded.cons {j : Job} {l : List Job} {why : EndReason} (first : JobsEnded s t [j] why)
    (room : t.jobs.outgoing.length ≤ s.jobs.outgoing.length + 1) (rest : JobsEnded t u l why) : JobsEnded s u (j :: l) why := by
  have settings : t.settings = s.settings := first.rest .settings (by decide)
  refine ⟨?_, ?_, ?_, ?_, fun k => ?_, fun hr => ?_, first.rest.trans rest.rest⟩
  · rw [rest.records, first.records, List.filter_filter]
    refine List.filter_congr fun x _ => ?_
    simp only [List.map_cons, List.map_nil, List.mem_cons, List.not_mem_nil, or_false, not_or, Bool.decide_and]
    exact Bool.and_comm _ _
  · rw [rest.chains, first.chains]
    simp
  · rw [rest.promises, first.promises]
    simp [Nat.sub_sub]
  · rw [rest.contexts, first.contexts, List.map_map]
    refine List.map_congr_left fun c _ => ?_
    cases c with
    | none => rfl
    | some x => by_cases h : x.tag = j.tag <;> simp [Option.filter, h]
  · rw [rest.held, first.held]
    dsimp only
    rw [List.filter_filter]
    congr 1
    refine List.filter_congr fun g _ => ?_
    rw [← Bool.decide_and, decide_eq_decide, List.forall_mem_singleton, List.forall_mem_cons]
    exact and_comm
  · rw [List.length_cons] at hr
    have one := first.told (by simp only [List.length_singleton]; omega)
    have more := rest.told (by omega)
    simp only [statusOf_congr settings] at more
    exact one.trans more

/-- R3, R18, R43: Receiving and Held jobs end in the order of a list. -/
theorem State.endTags_jobsEnded (why : EndReason) : ∀ (l : List Job) (s : State), (l.map Job.tag).Nodup →
    (∀ j ∈ l, s.job j.tag = some j ∧ (j.state = .receiving ∨ j.state = .held)) →
    JobsEnded s ((l.map Job.tag).foldl (fun t g => t.endTag g why) s) l why
  | [], s, _, _ => JobsEnded.nil s why
  | j :: l, s, hn, hl => by
    obtain ⟨fresh, hn⟩ := List.nodup_cons.1 hn
    obtain ⟨job, state⟩ := hl j (List.mem_cons_self ..)
    rw [List.map_cons, List.foldl_cons, State.endTag_job why job]
    have first := State.endJob_jobsEnded (s := s) why state
    refine first.cons (s.outgoing_endJob_le j why) (State.endTags_jobsEnded why l _ hn fun x hx => ?_)
    obtain ⟨named, held⟩ := hl x (List.mem_cons_of_mem _ hx)
    refine ⟨?_, held⟩
    have other : x.tag ≠ j.tag := fun e => fresh (e ▸ List.mem_map_of_mem hx)
    have after : (s.endJob j why).job x.tag = (s.dropJob j.tag).job x.tag := State.job_congr (s.endJob_ended j why).record _
    rw [after, State.job_dropJob, if_neg other, named]

/-! ### Invalidation (R43) -/

theorem State.filterMap_job_tags {l : List Nat} (h : ∀ g ∈ l, ∃ j, s.job g = some j) : (l.filterMap s.job).map Job.tag = l := by
  induction l with
  | nil => rfl
  | cons g l ih =>
    obtain ⟨j, hj⟩ := h g (List.mem_cons_self ..)
    rw [List.filterMap_cons_some hj, List.map_cons, s.tag_of_job hj, ih fun x hx => h x (List.mem_cons_of_mem _ hx)]

/-- R43: invalidation ends the Receiving jobs and then the Held ones. -/
theorem State.invalidate_ended {k : Nat} (hd : s.TagsDistinct) (hn : (s.account k).held.Nodup)
    (hh : ∀ g ∈ (s.account k).held, ∃ j, s.job g = some j ∧ j.state = .held ∧ j.account = k) :
    JobsEnded s (s.invalidate k)
      (s.jobs.recs.filter (fun j => j.account = k ∧ j.state = .receiving) ++ (s.account k).held.filterMap s.job) .purged := by
  have tags : ((s.account k).held.filterMap s.job).map Job.tag = (s.account k).held :=
    State.filterMap_job_tags fun g hg => (hh g hg).imp fun _ h => h.1
  have receiving : (s.jobsOf k).filter (fun j => j.state == .receiving) =
      s.jobs.recs.filter (fun j => j.account = k ∧ j.state = .receiving) := by
    rw [State.jobsOf, List.filter_filter]
    refine List.filter_congr fun j _ => ?_
    simp [Bool.and_comm, beq_eq_decide]
  have invalidated : s.invalidate k = ((s.jobs.recs.filter (fun j => j.account = k ∧ j.state = .receiving) ++
      (s.account k).held.filterMap s.job).map Job.tag).foldl (fun t g => t.endTag g .purged) s := by
    rw [State.invalidate, receiving, List.map_append, tags]
  have held {j : Job} (hj : j ∈ (s.account k).held.filterMap s.job) : s.job j.tag = some j ∧ j.state = .held := by
    obtain ⟨g, hg, named⟩ := List.mem_filterMap.1 hj
    obtain ⟨x, job, state, -⟩ := hh g hg
    cases named.symm.trans job
    exact ⟨by rw [s.tag_of_job named]; exact named, state⟩
  rw [invalidated]
  refine State.endTags_jobsEnded .purged _ s ?_ fun j hj => ?_
  · rw [List.map_append, tags, List.nodup_append]
    refine ⟨hd.once.sublist (List.filter_sublist.map _), hn, fun a ha b hb e => ?_⟩
    obtain ⟨j, hj, rfl⟩ := List.mem_map.1 ha
    obtain ⟨inTable, isReceiving⟩ := List.mem_filter.1 hj
    obtain ⟨x, job, state, -⟩ := hh b hb
    rw [← e, State.job_of_mem hd.once inTable] at job
    cases job
    rw [state] at isReceiving
    simp at isReceiving
  · rcases List.mem_append.1 hj with hj | hj
    · obtain ⟨inTable, isReceiving⟩ := List.mem_filter.1 hj
      exact ⟨State.job_of_mem hd.once inTable, .inl (by simpa using (of_decide_eq_true isReceiving).2)⟩
    · exact ⟨(held hj).1, .inr (held hj).2⟩

end Sys2Proof.Machine

/-! PROOFS. The writes of the Account Table (R42, R43): the tests in their order, and the record that is left. -/

namespace Sys2Proof.Machine

set_option Elab.async false

variable {s t u v : State}

/-! ### The tests (R42) -/

/-- A test that the factory record fails is passed by a listed record exactly when it is passed at some index. -/
theorem Tbl.any_iff {α : Type} {d : α} {t : Tbl α} {f : Nat → α → Bool} (hs : (t.map Prod.fst).Pairwise (· < ·))
    (hd : ∀ i, f i d = false) : t.any (fun e => f e.1 e.2) = true ↔ ∃ i, f i (Tbl.get d t i) = true := by
  have none := Tbl.find_none_iff hs hd
  rw [Option.map_eq_none_iff, List.find?_eq_none] at none
  constructor
  · intro h
    by_contra no
    obtain ⟨e, he, hf⟩ := List.any_eq_true.1 h
    exact none.2 (fun i => Bool.eq_false_iff.2 fun hi => no ⟨i, hi⟩) e he hf
  · rintro ⟨i, hi⟩
    by_contra no
    have all := none.1 fun e he hf => no (List.any_eq_true.2 ⟨e, he, hf⟩)
    exact absurd hi (by rw [all i]; decide)

/-- R42 step 1: a PIN that does not fit R25. -/
theorem pinFits_iff (pin : Option (List Nat)) :
    pinFits pin = false ↔ ∃ d, pin = some d ∧ (d.length < 4 ∨ 8 < d.length ∨ ∃ x ∈ d, 9 < x) := by
  cases pin with
  | none => exact ⟨fun h => (nomatch h), fun ⟨_, h, _⟩ => (nomatch h)⟩
  | some d =>
    simp only [pinFits, Bool.and_eq_false_iff, decide_eq_false_iff_not, Option.some.injEq, exists_eq_left', not_and_or, Nat.not_le,
      List.all_eq_false, decide_eq_true_eq]
    tauto

/-- R42: the tests of an account write in their order. -/
def State.accountTests (s : State) (k : Nat) (c : AccountConfig) : List (Prop × Result) :=
  let a := s.account k
  [(c.number = 0 ∨ 1048575 < c.number ∨ 3 < c.cls ∨
      (∃ d, c.pin = some d ∧ (d.length < 4 ∨ 8 < d.length ∨ ∃ x ∈ d, 9 < x)), .notAccepted),
    (c.badge ≠ Option.none ∧ (∃ i, i ≠ k ∧ (s.account i).cfg.badge = c.badge), .entryLocked),
    (c.valid = true ∧ (∃ i, i ≠ k ∧ (s.account i).cfg.valid = true ∧ (s.account i).cfg.number = c.number), .entryLocked),
    (0 < a.reserved ∧ (c.number ≠ a.cfg.number ∨ c.cls ≠ a.cfg.cls), .entryLocked)]

/-- A refusal tested for is the first of its tests, or that of the tests that follow. -/
theorem some_ite_iff {α : Type} {p : Prop} [Decidable p] {a r : α} {x : Option α} :
    (if p then some a else x) = some r ↔ (p ∧ r = a) ∨ (¬p ∧ x = some r) := by
  by_cases h : p
  · simp [h, eq_comm]
  · simp [h]

/-- R42: the refusal of an account write is the answer of the first test that holds. -/
theorem State.accountRefusal_iff (h : s.TablesCanonical) (k : Nat) (c : AccountConfig) (r : Result) :
    s.accountRefusal k c = some r ↔ FirstOf (s.accountTests k c) r := by
  have rising := (Tbl.wf_iff.1 h.accounts).1
  have shape : (c.number = 0 || 1048575 < c.number || 3 < c.cls || !pinFits c.pin) = true ↔
      c.number = 0 ∨ 1048575 < c.number ∨ 3 < c.cls ∨
        (∃ d, c.pin = some d ∧ (d.length < 4 ∨ 8 < d.length ∨ ∃ x ∈ d, 9 < x)) := by
    rw [← pinFits_iff]
    simp [or_assoc]
  have badge : (c.badge.isSome && s.accounts.any (fun e => decide (e.1 ≠ k) && e.2.cfg.badge == c.badge)) = true ↔
      c.badge ≠ Option.none ∧ ∃ i, i ≠ k ∧ (s.account i).cfg.badge = c.badge := by
    rw [Bool.and_eq_true, Option.isSome_iff_ne_none]
    refine and_congr_right fun hb => ?_
    rw [Tbl.any_iff (d := Account.factory) (f := fun i (a : Account) => decide (i ≠ k) && a.cfg.badge == c.badge) rising]
    · simp [State.account]
    · intro i
      have : (Account.factory.cfg.badge == c.badge) = false := by
        rw [beq_eq_false_iff_ne]
        exact fun e => hb e.symm
      simp [this]
  have number : (c.valid && s.accounts.any (fun e => decide (e.1 ≠ k) && e.2.cfg.valid && e.2.cfg.number == c.number)) = true ↔
      c.valid = true ∧ ∃ i, i ≠ k ∧ (s.account i).cfg.valid = true ∧ (s.account i).cfg.number = c.number := by
    rw [Bool.and_eq_true, Tbl.any_iff (d := Account.factory)
      (f := fun i (a : Account) => decide (i ≠ k) && a.cfg.valid && a.cfg.number == c.number) rising]
    · simp [State.account, and_assoc]
    · intro i
      have : Account.factory.cfg.valid = false := rfl
      simp [this]
  have reserved : (decide (0 < (s.account k).reserved) &&
      (decide (c.number ≠ (s.account k).cfg.number) || decide (c.cls ≠ (s.account k).cfg.cls))) = true ↔
      0 < (s.account k).reserved ∧ (c.number ≠ (s.account k).cfg.number ∨ c.cls ≠ (s.account k).cfg.cls) := by
    simp
  unfold State.accountRefusal State.accountTests
  dsimp only
  rw [some_ite_iff, some_ite_iff, some_ite_iff, some_ite_iff, shape, badge, number, reserved]
  simp only [FirstOf.cons_iff, FirstOf.nil_iff, reduceCtorEq]

/-! ### The record that a write leaves (R42, R43) -/

/-- R35: the evaluation of the flag of an account as it stands. -/
theorem State.evalOverdrawn_standing (s : State) (k : Nat) : s.evalOverdrawn k =
    if (s.account k).evaluated.overdrawn && !(s.account k).overdrawn then
      (s.setAccount k (s.account k).evaluated).notify (.accountOverdrawn k (s.account k).spent (s.account k).cfg.budget)
    else s.setAccount k (s.account k).evaluated := rfl

theorem State.evalOverdrawn_account (s : State) (k i : Nat) :
    (s.evalOverdrawn k).account i = if i = k then (s.account k).evaluated else s.account i := by
  rw [State.evalOverdrawn_standing]
  split
  · rw [State.notify_account, State.account_setAccount]
  · rw [State.account_setAccount]

theorem State.evalOverdrawn_store (s : State) (k : Nat) : (s.evalOverdrawn k).store = s.store := by
  rw [State.evalOverdrawn_standing]
  split
  · obtain ⟨q, l, b, e⟩ := State.notify_eq (s.setAccount k (s.account k).evaluated)
      (.accountOverdrawn k (s.account k).spent (s.account k).cfg.budget)
    rw [e]; rfl
  · rfl

theorem State.evalOverdrawn_notice {k : Nat} (hf : (s.account k).overdrawn = false)
    (ht : (s.account k).evaluated.overdrawn = true) :
    NoticeFormed s (s.evalOverdrawn k) (.accountOverdrawn k (s.account k).spent (s.account k).cfg.budget) := by
  rw [State.evalOverdrawn_standing, if_pos (by rw [hf, ht]; rfl)]
  exact NoticeFormed.between (s' := s.setAccount k (s.account k).evaluated) (State.notify_formed _) ⟨rfl, rfl, rfl⟩ ⟨rfl, rfl⟩

theorem State.evalOverdrawn_changes (s : State) (k : Nat) : ChangesOnly (.accounts :: noticeTraffic) s (s.evalOverdrawn k) := by
  rw [State.evalOverdrawn_standing]
  have first : ChangesOnly (.accounts :: noticeTraffic) s (s.setAccount k (s.account k).evaluated) :=
    (s.setAccount_changes k _).mono (by decide)
  split
  · exact first.trans ((State.notify_moves _ _).changes)
  · exact first

/-- R42: the failures cleared when the PIN changes. -/
def State.pinWritten (s : State) (k : Nat) (old new : AccountConfig) : State :=
  if new.pin ≠ old.pin then s.setBalance k { s.account k with failures := 0 } else s

theorem State.pinWritten_account (s : State) (k : Nat) (old new : AccountConfig) (i : Nat) :
    (s.pinWritten k old new).account i =
      if i = k then { s.account k with failures := if new.pin = old.pin then (s.account k).failures else 0 }
      else s.account i := by
  unfold State.pinWritten
  by_cases h : new.pin = old.pin
  · rw [if_neg (not_not.2 h), if_pos h]
    split
    next e => rw [e]
    next => rfl
  · rw [if_pos h, State.setBalance_account, if_neg h]

theorem State.setBalance_changes (s : State) (k : Nat) (a : Account) :
    ChangesOnly [Piece.accounts, .storeWriting] s (s.setBalance k a) :=
  ((s.setAccount_changes k a).mono (by decide)).trans (State.mark_moves _ _).changes

theorem State.pinWritten_changes (s : State) (k : Nat) (old new : AccountConfig) :
    ChangesOnly [Piece.accounts, .storeWriting] s (s.pinWritten k old new) := by
  unfold State.pinWritten
  split
  · exact s.setBalance_changes k _
  · exact ChangesOnly.refl _ _

theorem State.afterAccountWrite_eq (s : State) (k : Nat) (old new : AccountConfig) : s.afterAccountWrite k old new =
    (if new.budget ≠ old.budget then (s.pinWritten k old new).evalOverdrawn k else s.pinWritten k old new).mark (accountSlot k) := rfl

/-- R35, R42: the account once its failures and its flag follow the written configuration. -/
theorem State.afterAccountWrite_account (s : State) (k : Nat) (old new : AccountConfig) (i : Nat) :
    (s.afterAccountWrite k old new).account i =
      if i = k then { s.account k with
        failures := if new.pin = old.pin then (s.account k).failures else 0
        overdrawn := if new.budget = old.budget then (s.account k).overdrawn
          else overdrawnFlag (s.account k).cfg.budget (s.account k).spent }
      else s.account i := by
  rw [State.afterAccountWrite_eq, State.mark_account]
  by_cases h : new.budget = old.budget
  · rw [if_neg (not_not.2 h), State.pinWritten_account, if_pos h]
  · rw [if_pos h, State.evalOverdrawn_account, State.pinWritten_account, State.pinWritten_account, if_pos rfl, if_neg h]
    by_cases hi : i = k
    · rw [if_pos hi, if_pos hi]; rfl
    · rw [if_neg hi, if_neg hi, if_neg hi]

theorem State.afterAccountWrite_changes (s : State) (k : Nat) (old new : AccountConfig) :
    ChangesOnly ([Piece.accounts, .storeWriting] ++ noticeTraffic) s (s.afterAccountWrite k old new) := by
  have pin : ChangesOnly ([Piece.accounts, .storeWriting] ++ noticeTraffic) s (s.pinWritten k old new) :=
    (s.pinWritten_changes k old new).mono (by decide)
  rw [State.afterAccountWrite_eq]
  refine ChangesOnly.trans ?_ (State.mark_moves _ _).changes
  split
  · exact pin.trans ((State.evalOverdrawn_changes _ k).mono (by decide))
  · exact pin

theorem State.afterAccountWrite_dirty (s : State) (k : Nat) (old new : AccountConfig) :
    accountSlot k ∈ (s.afterAccountWrite k old new).store.dirty ∧
    (new.pin ≠ old.pin → balanceSlot k ∈ (s.afterAccountWrite k old new).store.dirty) := by
  rw [State.afterAccountWrite_eq]
  refine ⟨State.mem_mark _, fun h => State.mem_mark_of_mem _ _ ?_⟩
  have store : (if new.budget ≠ old.budget then (s.pinWritten k old new).evalOverdrawn k else s.pinWritten k old new).store =
      (s.pinWritten k old new).store := by
    split
    · exact State.evalOverdrawn_store _ k
    · rfl
  rw [store, State.pinWritten, if_pos h]
  exact State.mem_mark _

/-- R35: the notice of a flag that a written budget raises. -/
theorem State.afterAccountWrite_notice {k : Nat} {old new : AccountConfig} (hb : new.budget ≠ old.budget)
    (hf : (s.account k).overdrawn = false) (ht : overdrawnFlag (s.account k).cfg.budget (s.account k).spent = true) :
    NoticeFormed s (s.afterAccountWrite k old new)
      (.accountOverdrawn k (s.account k).spent (s.account k).cfg.budget) := by
  have pin := s.pinWritten_changes k old new
  have account := s.pinWritten_account k old new k
  rw [if_pos rfl] at account
  have formed := State.evalOverdrawn_notice (s := s.pinWritten k old new) (k := k) (by rw [account]; exact hf)
    (by rw [account]; exact ht)
  rw [account] at formed
  rw [State.afterAccountWrite_eq, if_pos hb]
  exact formed.between ⟨pin.oport, pin.console, pin .settings (by decide)⟩ ⟨State.mark_oport _ _, State.mark_console _ _⟩

/-! ### The write as a whole -/

/-- R42: the configuration stored and what follows from it, before the change of validity. -/
def State.accountWritten (s : State) (k : Nat) (c : AccountConfig) : State :=
  State.afterAccountWrite
    { s.setAccount k { s.account k with cfg := AccountConfig.stored c s.freeCount } with
      freeCount := if Budget.inRange c.budget then s.freeCount else s.freeCount + 1 }
    k (s.account k).cfg (AccountConfig.stored c s.freeCount)

/-- R43: the account write with the validation, and without the invalidation. -/
def State.accountStored (s : State) (k : Nat) (c : AccountConfig) : State :=
  if !(s.account k).cfg.valid && c.valid then (s.accountWritten k c).validate k else s.accountWritten k c

theorem State.writeAccount_eq (s : State) (k : Nat) (c : AccountConfig) : s.writeAccount k c =
    if (s.account k).cfg.valid && !c.valid then (s.accountStored k c).invalidate k else s.accountStored k c := by
  have valid : (AccountConfig.stored c s.freeCount).valid = c.valid := rfl
  unfold State.writeAccount State.accountStored State.accountWritten
  dsimp only
  rw [valid]
  cases (s.account k).cfg.valid <;> cases c.valid <;> rfl

/-- R42: the record that a write leaves before a change of its validity. -/
def Account.writtenWith (a : Account) (new : AccountConfig) : Account :=
  { a with
    cfg := new, failures := if new.pin = a.cfg.pin then a.failures else 0
    overdrawn := if new.budget = a.cfg.budget then a.overdrawn else overdrawnFlag new.budget a.spent }

/-- R42: the state once the configuration is stored, and nothing else. -/
def State.cfgStored (s : State) (k : Nat) (c : AccountConfig) : State :=
  { s.setAccount k { s.account k with cfg := AccountConfig.stored c s.freeCount } with
    freeCount := if Budget.inRange c.budget then s.freeCount else s.freeCount + 1 }

theorem State.cfgStored_account (s : State) (k : Nat) (c : AccountConfig) (i : Nat) : (s.cfgStored k c).account i =
    if i = k then { s.account k with cfg := AccountConfig.stored c s.freeCount } else s.account i :=
  State.account_of_setAccount (v := s) rfl i

theorem State.cfgStored_changes (s : State) (k : Nat) (c : AccountConfig) :
    ChangesOnly [Piece.accounts, .freeCount] s (s.cfgStored k c) := by
  intro x hx
  cases x <;> first | exact rfl | exact ⟨rfl, rfl⟩ | exact ⟨rfl, rfl, rfl⟩ | exact ⟨rfl, rfl, rfl, rfl⟩ | exact absurd (by simp) hx

theorem State.accountWritten_account (s : State) (k : Nat) (c : AccountConfig) (i : Nat) :
    (s.accountWritten k c).account i =
      if i = k then (s.account k).writtenWith (AccountConfig.stored c s.freeCount) else s.account i := by
  have written := State.afterAccountWrite_account (s.cfgStored k c) k (s.account k).cfg (AccountConfig.stored c s.freeCount) i
  rw [State.cfgStored_account, State.cfgStored_account, if_pos rfl] at written
  refine written.trans ?_
  by_cases hi : i = k
  · rw [if_pos hi, if_pos hi]; rfl
  · rw [if_neg hi, if_neg hi, if_neg hi]

theorem State.accountWritten_changes (s : State) (k : Nat) (c : AccountConfig) :
    ChangesOnly ([Piece.accounts, .storeWriting, .freeCount] ++ noticeTraffic) s (s.accountWritten k c) :=
  ((s.cfgStored_changes k c).mono (by decide)).trans ((State.afterAccountWrite_changes _ _ _ _).mono (by decide))

theorem State.accountWritten_dirty (s : State) (k : Nat) (c : AccountConfig) :
    accountSlot k ∈ (s.accountWritten k c).store.dirty ∧
    ((AccountConfig.stored c s.freeCount).pin ≠ (s.account k).cfg.pin → balanceSlot k ∈ (s.accountWritten k c).store.dirty) :=
  State.afterAccountWrite_dirty (s.cfgStored k c) k (s.account k).cfg (AccountConfig.stored c s.freeCount)

/-- R43: the record that a write leaves, validated when it becomes valid. -/
theorem State.accountStored_account (s : State) (k : Nat) (c : AccountConfig) (i : Nat) :
    let new := AccountConfig.stored c s.freeCount
    let written := (s.account k).writtenWith new
    (s.accountStored k c).account i =
      if i = k then
        (if c.valid = true ∧ (s.account k).cfg.valid = false then
          { written with spent := 0, failures := 0, state := .isOpen, overdrawn := false } else written)
      else s.account i := by
  intro new written
  have account := s.accountWritten_account k c
  unfold State.accountStored
  by_cases h : c.valid = true ∧ (s.account k).cfg.valid = false
  · rw [if_pos h, if_pos (by rw [h.1, h.2]; rfl), State.validate, State.setBalance_account, account, account, if_pos rfl]
    by_cases hi : i = k
    · rw [if_pos hi, if_pos hi]
    · rw [if_neg hi, if_neg hi, if_neg hi]
  · rw [if_neg h, if_neg, account]
    simpa [and_comm] using h

theorem State.accountStored_later (s : State) (k : Nat) (c : AccountConfig) :
    Moves [Piece.accounts, .storeWriting] (s.accountWritten k c) (s.accountStored k c) := by
  unfold State.accountStored
  split
  · exact (s.accountWritten k c).validate_moves k
  · exact Moves.refl _

theorem State.accountStored_dirty (s : State) (k : Nat) (c : AccountConfig) :
    (∀ n ∈ (s.accountWritten k c).store.dirty, n ∈ (s.accountStored k c).store.dirty) ∧
    (c.valid = true → (s.account k).cfg.valid = false → balanceSlot k ∈ (s.accountStored k c).store.dirty) := by
  unfold State.accountStored
  refine ⟨fun n hn => ?_, fun hc ha => ?_⟩
  · split
    · exact State.mem_mark_of_mem _ _ hn
    · exact hn
  · rw [if_pos (by rw [hc, ha]; rfl)]
    exact State.mem_mark _

/-- R35, R42: the notice of a flag that the written budget raises. -/
theorem State.accountStored_notice {k : Nat} {c : AccountConfig}
    (hb : (AccountConfig.stored c s.freeCount).budget ≠ (s.account k).cfg.budget) (hf : (s.account k).overdrawn = false)
    (ht : overdrawnFlag (AccountConfig.stored c s.freeCount).budget (s.account k).spent = true) :
    NoticeFormed s (s.accountStored k c)
      (.accountOverdrawn k (s.account k).spent (AccountConfig.stored c s.freeCount).budget) := by
  have start := s.cfgStored_changes k c
  have later := (s.accountStored_later k c).changesOnly
  have account := s.cfgStored_account k c k
  rw [if_pos rfl] at account
  have formed := State.afterAccountWrite_notice (s := s.cfgStored k c) (k := k) (old := (s.account k).cfg)
    (new := AccountConfig.stored c s.freeCount) hb (by rw [account]; exact hf) (by rw [account]; exact ht)
  rw [account] at formed
  exact formed.between ⟨start.oport, start.console, start .settings (by decide)⟩ ⟨later.oport, later.console⟩

/-- R25, R42: the configuration stored; a budget in the range of R25 stays as it is (log 7). -/
theorem AccountConfig.stored_spec (c : AccountConfig) (n : Nat) :
    AccountConfig.stored c n =
        { c with budget := (AccountConfig.stored c n).budget, heldCap := max 1 (min c.heldCap 64) } ∧
      (c.budget = .unlimited ∨ (∃ b ≤ 16777215, c.budget = .finite b) → (AccountConfig.stored c n).budget = c.budget) := by
  refine ⟨rfl, ?_⟩
  rintro (h | ⟨b, hb, h⟩) <;> simp only [AccountConfig.stored, h, Budget.stored]
  exact if_pos hb

theorem State.restartIdle_freeCount (s : State) : s.restartIdle.freeCount = s.freeCount :=
  s.restartIdle_changes .freeCount (by decide)

theorem FirstOf.skip {α : Type} {p : Prop} {a r : α} {l : List (Prop × α)} (hp : ¬p) :
    FirstOf ((p, a) :: l) r ↔ FirstOf l r := by
  rw [FirstOf.cons_iff]
  simp [hp]

/-- R42: ACCOUNT_WRITE refused. -/
theorem accountWrite_refused {h : Hdr} {k : Nat} {c : AccountConfig} {r : Result} (hr : ConsoleReady h s)
    (hc : s.TablesCanonical) (hf : FirstOf ((4095 < k, Result.badIndex) :: s.accountTests k c) r) :
    CarriedOut (.accountWrite h (some (k, c))) h s s r := by
  refine carriedOut_unchanged (act := accountRule) (x := (k, c)) hr rfl ?_
  have tests : s.restartIdle.accountTests k c = s.accountTests k c := by
    unfold State.accountTests
    simp only [State.restartIdle_account]
  unfold accountRule
  rcases (FirstOf.cons_iff _ _ _ _).1 hf with ⟨hk, rfl⟩ | ⟨hk, hf⟩
  · exact if_pos hk
  · rw [← tests] at hf
    have inTable : ¬Config.accounts ≤ k := hk
    simp only [if_neg inTable, (State.accountRefusal_iff hc.restartIdle k c r).2 hf]
    rfl

/-- R42: ACCOUNT_WRITE accepted. -/
theorem accountRule_accepted {k : Nat} {c : AccountConfig} (hc : s.TablesCanonical)
    (hf : ∀ r, ¬FirstOf ((4095 < k, Result.badIndex) :: s.accountTests k c) r) :
    accountRule (k, c) s = { state := s.writeAccount k c, result := .ok } := by
  have inTable : ¬Config.accounts ≤ k := fun hk => hf _ ((FirstOf.cons_iff _ _ _ _).2 (.inl ⟨hk, rfl⟩))
  have none : s.accountRefusal k c = none := by
    cases e : s.accountRefusal k c with
    | none => rfl
    | some r =>
      have first := (State.accountRefusal_iff hc k c r).1 e
      exact absurd ((FirstOf.skip inTable).2 first) (hf r)
  unfold accountRule
  simp only [if_neg inTable, none]

/-- Settles O20: the tests, the record that a write leaves, and invalidation. -/
theorem accountWrites : Obligations.AccountWrites := by
  refine ⟨fun h k c s hr hc => ⟨fun r hf => accountWrite_refused hr hc hf, fun hf => ?_⟩, fun s k hd hn hh =>
    State.invalidate_ended hd hn hh⟩
  let i := s.restartIdle
  have account (x : Nat) : i.account x = s.account x := State.restartIdle_account x
  have free : i.freeCount = s.freeCount := s.restartIdle_freeCount
  have tests : i.accountTests k c = s.accountTests k c := by
    unfold State.accountTests
    simp only [account]
  have rule : accountRule (k, c) i = { state := i.writeAccount k c, result := .ok } :=
    accountRule_accepted hc.restartIdle (by rw [tests]; exact hf)
  have carried : CarriedOut (.accountWrite h (some (k, c))) h s (i.writeAccount k c) .ok :=
    carriedOut_of (act := accountRule) (x := (k, c)) hr rfl rule (i.writeAccount_moves k c)
  have after (x : Nat) := i.accountStored_account k c x
  simp only [account, free] at after
  have written := i.accountWritten_changes k c
  have later := (i.accountStored_later k c).changesOnly
  have dirty := i.accountWritten_dirty k c
  have stays := (i.accountStored_dirty k c).1
  have validated := (i.accountStored_dirty k c).2
  have notice := State.accountStored_notice (s := i) (k := k) (c := c)
  simp only [account, free] at dirty validated notice
  have spec := AccountConfig.stored_spec c s.freeCount
  refine ⟨AccountConfig.stored c s.freeCount, i.accountStored k c, spec.1, spec.2, ⟨fun hv ha => ⟨validated hv ha, ?_⟩,
    fun hv => ?_⟩, fun x hx => ?_, stays _ dirty.1, fun hp => stays _ (dirty.2 hp), fun hb hn ht => ?_, ?_, fun hv => ?_,
    fun hv ha => ?_⟩
  · rw [after, if_pos rfl, if_pos ⟨hv, ha⟩]; rfl
  · rw [after, if_pos rfl, if_neg]
    · rfl
    · rcases hv with hv | hv <;> simp [hv]
  · rw [after, if_neg hx]
  · exact NoticeFormed.of_restartIdle (notice hb hn ht)
  · exact ((s.restartIdle_changes.mono (by decide)).trans (written.mono (by decide))).trans (later.mono (by decide))
  · have stored : i.writeAccount k c = i.accountStored k c := by
      rw [State.writeAccount_eq, if_neg]
      rcases hv with hv | hv <;> simp [hv, account]
    rw [← stored]
    exact carried
  · have stored : i.writeAccount k c = (i.accountStored k c).invalidate k := by
      rw [State.writeAccount_eq, if_pos]
      simp [hv, ha, account]
    rw [← stored]
    exact carried

end Sys2Proof.Machine

/-! PROOFS. The Delivery Engine's operations: the first job of a queue in a state, the start of a stream (R89, R90), settlement
(R100), the end of a job in delivery (R3, R88), the return to hold (R21) and the stop of a stream (R90, R104). -/

namespace Sys2Proof.Machine

set_option Elab.async false

variable {s t u v : State}

/-! ### The jobs of a Delivery Queue -/

/-- R89: no job of the queue is in a state. -/
theorem State.firstIn_none_iff (s : State) (p : Nat) (x : JobState) :
    s.firstIn p x = none ↔ ∀ g ∈ (s.printer p).queue, ∀ j, s.job g = some j → j.state ≠ x := by
  rw [State.firstIn, List.find?_eq_none]
  simp only [List.mem_filterMap, beq_iff_eq, forall_exists_index, and_imp]
  exact ⟨fun h g hg j hj => h j g hg hj, fun h j g hg hj => h g hg j hj⟩

/-- R89: the first job of the queue in a state. -/
theorem State.firstIn_iff (s : State) (p : Nat) (x : JobState) (j : Job) :
    s.firstIn p x = some j ↔ ∃ before g after, (s.printer p).queue = before ++ g :: after ∧ s.job g = some j ∧
      j.state = x ∧ ∀ y ∈ before, ∀ i, s.job y = some i → i.state ≠ x := by
  rw [State.firstIn, List.find?_filterMap]
  constructor
  · intro h
    obtain ⟨g, hg, job⟩ := Option.bind_eq_some_iff.1 h
    obtain ⟨isFirst, before, after, queue, others⟩ := List.find?_eq_some_iff_append.1 hg
    refine ⟨before, g, after, queue, job, ?_, fun y hy i hi => ?_⟩
    · rw [job] at isFirst; simpa using isFirst
    · have no := others y hy
      rw [hi] at no
      simpa using no
  · rintro ⟨before, g, after, queue, job, state, others⟩
    refine Option.bind_eq_some_iff.2 ⟨g, List.find?_eq_some_iff_append.2 ⟨?_, before, after, queue, fun y hy => ?_⟩, job⟩
    · rw [job]; simpa using state
    · cases hi : s.job y with
      | none => rfl
      | some i => simpa using others y hy i hi

/-- The first job of a queue is one its tag names. -/
theorem State.firstIn_job {p : Nat} {x : JobState} {j : Job} (h : s.firstIn p x = some j) :
    s.job j.tag = some j ∧ j.state = x ∧ j.tag ∈ (s.printer p).queue := by
  obtain ⟨before, g, after, queue, job, state, -⟩ := (s.firstIn_iff p x j).1 h
  have tag := s.tag_of_job job
  subst tag
  exact ⟨job, state, by rw [queue]; simp⟩

theorem State.firstIn_congr (printer : (t.printer u₁).queue = (s.printer u₁).queue) (jobs : ∀ g, t.job g = s.job g)
    (x : JobState) : t.firstIn u₁ x = s.firstIn u₁ x := by
  rw [State.firstIn, State.firstIn, printer, funext jobs]

/-! ### Stream control messages (R90, R94) -/

theorem PrinterOf.stallFromFull_eq (e : Printer) : e.stallFromFull = e.stallFull := by
  unfold PrinterOf.stallFromFull PrinterOf.stallFull
  by_cases h : e.standing = Standing.none
  · rw [if_pos h, if_pos (Standing.isEmpty_iff.2 h)]
  · rw [if_neg h, if_neg (fun e' => h (Standing.isEmpty_iff.1 e'))]

/-- R90: whether a stream control message is placed at once. -/
def State.placesControl (s : State) (p : Nat) : Prop := (s.printer p).control = [] ∧ s.fport.own.length < 32

theorem State.placesControl_iff (s : State) (p : Nat) :
    ((s.printer p).control.isEmpty && s.fport.room) = true ↔ s.placesControl p := by
  rw [Bool.and_eq_true, List.isEmpty_iff, PortState.room, decide_eq_true_iff]
  rfl

/-- R90: a stream control message that waits. -/
theorem State.sendControl_waits {p : Nat} {m : OwnMsg} (h : ¬s.placesControl p) :
    s.sendControl p m = s.updPrinter p (fun e => { e with control := e.control ++ [m] }) := by
  unfold State.sendControl
  rw [if_neg fun c => h ((s.placesControl_iff p).1 c)]

/-- R90, R94: a STREAM_BEGIN that is placed starts the stall timer. -/
theorem State.sendControl_places {p : Nat} {m : OwnMsg} (h : s.placesControl p) (hm : m.body ≠ .streamCancel) :
    s.sendControl p m = ({ s with fport := s.fport.place m } : State).updPrinter p (fun e => { e with stall := e.stallFull }) := by
  unfold State.sendControl
  rw [if_pos ((s.placesControl_iff p).2 h), if_neg hm]
  simp only [State.restartStall, PrinterOf.stallFromFull_eq]

/-- R90: a STREAM_CANCEL that is placed. -/
theorem State.sendControl_cancels {p : Nat} {m : OwnMsg} (h : s.placesControl p) (hm : m.body = .streamCancel) :
    s.sendControl p m = { s with fport := s.fport.place m } := by
  unfold State.sendControl
  rw [if_pos ((s.placesControl_iff p).2 h)]
  exact if_pos hm

/-! ### The start of a stream (R89) -/

/-- R89: no stream starts. -/
theorem State.startStream_idle {p : Nat}
    (h : (s.printer p).standing ≠ Standing.none ∨ s.firstIn p .printing ≠ none ∨ s.firstIn p .released = none) :
    s.startStream p = s := by
  unfold State.startStream
  split
  next c =>
    obtain ⟨standing, printing⟩ := (Bool.and_eq_true _ _).mp c
    rcases h with h | h | h
    · exact absurd (Standing.isEmpty_iff.1 standing) h
    · exact absurd (Option.isNone_iff_eq_none.1 printing) h
    · rw [h]
  next => rfl

/-- The STREAM_BEGIN of a job (R89). -/
def State.beginMessage (s : State) (p : Nat) (j : Job) : OwnMsg :=
  { etherType := s.settings.frameType, src := s.settings.ownStation, dst := (s.printer p).cfg.station.getD 0
    jobTag := j.tag, reqTag := 0, body := .streamBegin j.declaredCounts j.media j.received }

/-- R89: the job becomes Printing and its STREAM_BEGIN is sent. -/
def State.streamSent (s : State) (p : Nat) (j : Job) : State :=
  (s.updJob j.tag (fun x => { x with state := .printing, sent := 0, allowed := 0 })).sendControl p (s.beginMessage p j)

theorem State.startStream_eq {p : Nat} {j : Job} (standing : (s.printer p).standing = Standing.none)
    (printing : s.firstIn p .printing = none) (released : s.firstIn p .released = some j) :
    s.startStream p = (s.streamSent p j).jobStatus j .printing (some p) none none := by
  unfold State.startStream
  rw [if_pos (by rw [Standing.isEmpty_iff.2 standing, printing]; rfl), released]
  rfl

theorem State.jobStatus_printer (s : State) (j : Job) (e : JobEvent) (q : Option Nat) (r : Option EndReason) (c : Option Nat)
    (i : Nat) : (s.jobStatus j e q r c).printer i = s.printer i :=
  State.printer_congr ((State.jobStatus_moves ..).changesOnly .printers (by decide)) i

theorem State.jobStatus_account (s : State) (j : Job) (e : JobEvent) (q : Option Nat) (r : Option EndReason) (c : Option Nat)
    (i : Nat) : (s.jobStatus j e q r c).account i = s.account i :=
  State.account_congr ((State.jobStatus_moves ..).changesOnly .accounts (by decide)) i

theorem State.jobStatus_job (s : State) (j : Job) (e : JobEvent) (q : Option Nat) (r : Option EndReason) (c : Option Nat)
    (g : Nat) : (s.jobStatus j e q r c).job g = s.job g :=
  State.job_congr ((State.jobStatus_moves ..).changesOnly .jobRecords (by decide)) g

theorem ChangesOnly.fport {l : List Piece} (h : ChangesOnly l s t)
    (hl : Piece.fleetOwn ∉ l ∧ Piece.fleetOther ∉ l := by decide) : t.fport = s.fport :=
  PortState.eq_of_own_other (h .fleetOwn hl.1) (h .fleetOther hl.2)

theorem State.jobStatus_fport (s : State) (j : Job) (e : JobEvent) (q : Option Nat) (r : Option EndReason) (c : Option Nat) :
    (s.jobStatus j e q r c).fport = s.fport := (State.jobStatus_moves ..).changesOnly.fport

/-- R4: a JOB_STATUS that is formed is sent after those before it. -/
theorem State.jobStatus_sent (j : Job) (e : JobEvent) (q : Option Nat) (r : Option EndReason) (c : Option Nat)
    (room : s.jobs.outgoing.length < 4096) : JobSent s (s.jobStatus j e q r c) [statusOf s j e q r c] :=
  State.jobMessages_jobStatus _ _ _ _ _ room

/-- R185: a change that reaches neither the O-port queue nor the outgoing list comes before messages unseen. -/
theorem JobSent.after {ms : List OwnMsg} (h : JobSent t u ms) (own : t.oport.own = s.oport.own)
    (outgoing : t.jobs.outgoing = s.jobs.outgoing) : JobSent s u ms := by
  rw [JobSent, h, State.jobMessages_congr own outgoing]

theorem State.streamSent_changes (s : State) (p : Nat) (j : Job) :
    ChangesOnly [Piece.jobRecords, .printers, .fleetOwn] s (s.streamSent p j) :=
  ((State.updJob_moves _ _ _).mono.next (State.sendControl_moves _ _ _)).changesOnly

theorem State.streamSent_job (s : State) (p : Nat) (j : Job) (g : Nat) : (s.streamSent p j).job g =
    if g = j.tag then (s.job g).map (fun x => { x with state := .printing, sent := 0, allowed := 0 }) else s.job g := by
  have same : (s.streamSent p j).job g =
      (s.updJob j.tag (fun x => { x with state := .printing, sent := 0, allowed := 0 })).job g :=
    State.job_congr ((State.sendControl_moves _ _ _).changesOnly .jobRecords (by decide)) g
  rw [same, State.job_updJob _ j.tag (fun x => { x with state := .printing, sent := 0, allowed := 0 }) (fun _ => rfl)]

/-- R90, R94: where the STREAM_BEGIN goes. -/
theorem State.streamSent_begun (p : Nat) (j : Job) (standing : (s.printer p).standing = Standing.none) :
    StreamBegun s (s.streamSent p j) p j ∧ OtherPrinters p s (s.streamSent p j) ∧
      (s.streamSent p j).printer p = { s.printer p with
        control := ((s.streamSent p j).printer p).control, stall := ((s.streamSent p j).printer p).stall } := by
  unfold StreamBegun
  have full : (s.printer p).stallFull = .running (s.printer p).cfg.stallTimeout := if_pos standing
  by_cases h : (s.printer p).control = [] ∧ s.fport.own.length < 32
  · have e : s.streamSent p j = _ := State.sendControl_places (s := s.updJob j.tag _) h (by exact nofun)
    rw [e]
    refine ⟨?_, fun i hi => ?_, ?_⟩
    · dsimp only
      rw [if_pos h, State.printer_updPrinter, if_pos rfl]
      exact ⟨rfl, rfl, full⟩
    · rw [State.printer_updPrinter, if_neg hi]; rfl
    · rw [State.printer_updPrinter, if_pos rfl]; rfl
  · have e : s.streamSent p j = _ := State.sendControl_waits (s := s.updJob j.tag _) h
    rw [e]
    refine ⟨?_, fun i hi => ?_, ?_⟩
    · dsimp only
      rw [if_neg h, State.printer_updPrinter, if_pos rfl]
      exact ⟨rfl, rfl, rfl⟩
    · rw [State.printer_updPrinter, if_neg hi]; rfl
    · rw [State.printer_updPrinter, if_pos rfl]; rfl

/-- R89: what the start of a stream leaves. -/
theorem State.startStream_begun {p : Nat} {j : Job} (standing : (s.printer p).standing = Standing.none)
    (printing : s.firstIn p .printing = none) (released : s.firstIn p .released = some j) :
    (s.startStream p).job j.tag = some { j with state := .printing, sent := 0, allowed := 0 } ∧
      OtherJobs j.tag s (s.startStream p) ∧ StreamBegun s (s.startStream p) p j ∧
      (s.startStream p).printer p = { s.printer p with
        control := ((s.startStream p).printer p).control, stall := ((s.startStream p).printer p).stall } ∧
      OtherPrinters p s (s.startStream p) ∧
      (s.jobs.outgoing.length < 4096 → JobSent s (s.startStream p) [statusOf s j .printing (some p) none none]) ∧
      ChangesOnly ([Piece.jobRecords, .printers, .fleetOwn] ++ jobTraffic) s (s.startStream p) := by
  have sent := s.streamSent_changes p j
  obtain ⟨begun, others, entry⟩ := State.streamSent_begun p j standing
  obtain ⟨job, -, -⟩ := State.firstIn_job released
  rw [State.startStream_eq standing printing released]
  have printers (i : Nat) := (s.streamSent p j).jobStatus_printer j .printing (some p) none none i
  refine ⟨?_, fun g hg => ?_, ?_, ?_, fun i hi => ?_, fun room => ?_, ?_⟩
  · rw [State.jobStatus_job, State.streamSent_job, if_pos rfl, job]; rfl
  · rw [State.jobStatus_job, State.streamSent_job, if_neg hg]
  · unfold StreamBegun at begun ⊢
    rw [printers, State.jobStatus_fport]
    exact begun
  · rw [printers]; exact entry
  · rw [printers]; exact others i hi
  · have outgoing : (s.streamSent p j).jobs.outgoing = s.jobs.outgoing := sent .outgoing (by decide)
    have told := State.jobStatus_sent (s := s.streamSent p j) j .printing (some p) none none (by rw [outgoing]; exact room)
    rw [statusOf_congr (sent .settings (by decide))] at told
    exact told.after (sent .officeOwn (by decide)) outgoing
  · exact (sent.mono (by decide)).trans (State.jobStatus_moves ..).changes

end Sys2Proof.Machine

/-! PROOFS. Settlement (R100), the end of a job in delivery (R3, R88), the return to hold (R21), the stop of a stream (R90, R104)
and the handing on of faces (R96, R137), each in the terms of the statements. -/

namespace Sys2Proof.Machine

set_option Elab.async false

variable {s t u v : State}

/-! ### Which Delivery Queue a job is in -/

/-- R88: the Delivery Queue that holds a tag. -/
theorem State.queueOf_iff (h : s.TablesCanonical) (g p : Nat) :
    s.queueOf g = some p ↔ g ∈ (s.printer p).queue ∧ ∀ i < p, g ∉ (s.printer i).queue := by
  have found := Tbl.find_iff (d := printerFactory) (f := fun _ (e : Printer) => e.queue.contains g) (Tbl.wf_iff.1 h.printers).1
    (fun _ => rfl) p
  refine found.trans ?_
  simp only [List.contains_iff_mem, Bool.eq_false_iff, ne_eq]
  rfl

theorem State.queueOf_none_iff (h : s.TablesCanonical) (g : Nat) : s.queueOf g = none ↔ ∀ i, g ∉ (s.printer i).queue := by
  have none := Tbl.find_none_iff (d := printerFactory) (f := fun _ (e : Printer) => e.queue.contains g)
    (Tbl.wf_iff.1 h.printers).1 (fun _ => rfl)
  refine none.trans ?_
  simp only [List.contains_iff_mem, Bool.eq_false_iff, ne_eq]
  rfl

/-- R88: the queues of the entries say which queue holds a tag. -/
theorem State.queueOf_congr (hs : s.TablesCanonical) (ht : t.TablesCanonical)
    (h : ∀ i, (t.printer i).queue = (s.printer i).queue) (g : Nat) : t.queueOf g = s.queueOf g := by
  refine Option.ext fun p => ?_
  rw [State.queueOf_iff ht, State.queueOf_iff hs]
  simp only [h]

/-! ### Settlement (R100) -/

/-- R34, R100: a settled job, and its account. -/
theorem State.settleJob_settled {j x : Job} {n : Counts} {points : Nat} (h : s.job j.tag = some x)
    (account : x.account = j.account) (reservation : x.reservation = j.reservation) (charged : x.chargeOf n = points) :
    Settled s (s.settleJob j.tag n) j points := by
  have shape : s.settleJob j.tag n = (s.settle j.account (j.reservation.getD 0) points).updJob j.tag
      (fun y => { y with reservation := none, charged := some points }) := by
    unfold State.settleJob
    rw [h]
    simp only [account, reservation, charged]
  have settled := (s.settle_moves j.account (j.reservation.getD 0) points).changesOnly
  have accounts (i : Nat) : (s.settleJob j.tag n).account i =
      if i = j.account then (s.account j.account).settled (j.reservation.getD 0) points else s.account i := by
    rw [shape]
    exact s.settle_account j.account (j.reservation.getD 0) points i
  have jobs (g : Nat) : (s.settleJob j.tag n).job g =
      if g = j.tag then (s.job g).map (fun y => { y with reservation := none, charged := some points }) else s.job g := by
    rw [shape, State.job_updJob _ j.tag (fun y => { y with reservation := none, charged := some points }) (fun _ => rfl),
      State.job_congr (settled .jobRecords (by decide))]
  refine ⟨by rw [accounts, if_pos rfl]; rfl, fun i hi => by rw [accounts, if_neg hi], fun hf ht => ?_, ?_,
    by rw [jobs, if_pos rfl], fun g hg => by rw [jobs, if_neg hg], ?_⟩
  · rw [accounts, if_pos rfl] at ht
    rw [shape]
    exact (State.settle_notice hf ht).between ⟨rfl, rfl, rfl⟩ ⟨rfl, rfl⟩
  · rw [shape]
    exact State.mem_mark _
  · rw [shape]
    exact (settled.mono (by decide)).trans (State.updJob_moves _ _ _).changes

/-! ### The end of a job in delivery (R3, R88) -/

/-- R3: the end of a record is that of a job with the same tag, chain and promise. -/
theorem JobEnded.of_same {j x : Job} (h : JobEnded s t x) (tag : x.tag = j.tag) (chain : x.chain = j.chain)
    (promise : x.promise = j.promise) : JobEnded s t j :=
  ⟨by rw [h.record, tag], by rw [h.chain, chain], by rw [h.promise, promise], by rw [h.context, tag], h.low⟩

/-- R3, R88: a job of a Delivery Queue ends there. -/
theorem State.endTag_endedAt {j x : Job} {p : Nat} (why : EndReason) (h : s.job j.tag = some x)
    (delivery : x.state.inDelivery = true) (queue : s.queueOf j.tag = some p) (chain : x.chain = j.chain)
    (promise : x.promise = j.promise) (origin : x.origin = j.origin) : EndedAt s (s.endTag j.tag why) p j why x.charged := by
  have tag : x.tag = j.tag := s.tag_of_job h
  rw [State.endTag_job why h]
  have place : s.queueOf x.tag = some p := by rw [tag]; exact queue
  obtain ⟨printer, others, frame⟩ := State.endJob_delivery s why delivery place
  refine ⟨(s.endJob_ended x why).of_same tag chain promise, by rw [printer, tag], others, fun room => ?_, frame.mono (by decide)⟩
  have sent := s.endJob_sent (j := x) why room
  rw [if_pos delivery, place] at sent
  have same : statusOf s x .ended (some p) (some why) x.charged = statusOf s j .ended (some p) (some why) x.charged := by
    unfold statusOf
    rw [origin, tag]
  rw [← same]
  exact sent

/-! ### The return to hold (R21, R37) -/

/-- R37: a tag is inserted before the first entry whose stamp is later. -/
theorem State.insertHeld_split (s : State) (g : Nat) (l : List Nat) :
    ∃ a b, l = a ++ b ∧ s.insertHeld g l = a ++ [g] ++ b ∧
      (∀ x ∈ a, stampBefore (s.stampOf g) (s.stampOf x) = false) ∧
      (∀ x, b.head? = some x → stampBefore (s.stampOf g) (s.stampOf x) = true) := by
  induction l with
  | nil => exact ⟨[], [], rfl, rfl, by simp, by simp⟩
  | cons y l ih =>
    unfold State.insertHeld
    by_cases h : stampBefore (s.stampOf g) (s.stampOf y) = true
    · rw [if_pos h]
      exact ⟨[], y :: l, rfl, rfl, by simp, fun x hx => by simp at hx; exact hx ▸ h⟩
    · rw [if_neg h]
      obtain ⟨a, b, split, insert, before, after⟩ := ih
      refine ⟨y :: a, b, by rw [split]; rfl, by rw [insert]; rfl, fun x hx => ?_, after⟩
      rcases List.mem_cons.1 hx with rfl | hx
      · exact Bool.eq_false_iff.2 h
      · exact before x hx

theorem State.stampOf_congr (h : ∀ g, t.job g = s.job g) (g : Nat) : t.stampOf g = s.stampOf g := by
  rw [State.stampOf, State.stampOf, h]

/-- R21: a settled or unreserved job returns to hold; `j` differs from its record in no field that the return keeps. -/
theorem State.returnToHold_returned {j x : Job} {p : Nat} (h : s.job j.tag = some x)
    (same : x.returned s.clock.uptime = j.returned s.clock.uptime) : ReturnedToHold s (s.returnToHold p j.tag) p j := by
  have account : x.account = j.account := (congrArg Job.account same :)
  have stamp : x.stamp = j.stamp := (congrArg Job.stamp same :)
  have origin : x.origin = j.origin := (congrArg Job.origin same :)
  let r := (s.unqueue p j.tag).updJob j.tag (fun y => y.returned s.clock.uptime)
  have left : ChangesOnly [Piece.printers, .storeWriting] s (s.unqueue p j.tag) := (State.unqueue_moves _ p j.tag).changesOnly
  have back : ChangesOnly [Piece.jobRecords] (s.unqueue p j.tag) r := (State.updJob_moves _ _ _).changesOnly
  have accounts (i : Nat) : r.account i = s.account i :=
    State.account_congr ((back .accounts (by decide)).trans (left .accounts (by decide))) i
  let w := r.setAccount j.account { s.account j.account with held := r.insertHeld j.tag (s.account j.account).held }
  have shape : s.returnToHold p j.tag = w.jobStatus x .held (some p) none none := by
    unfold State.returnToHold
    rw [h]
    simp only [account]
    rw [accounts]
  have jobs (g : Nat) : r.job g = if g = j.tag then (s.job g).map (fun y => y.returned s.clock.uptime) else s.job g := by
    have recs : (s.unqueue p j.tag).job g = s.job g := State.job_congr (left .jobRecords (by decide)) g
    rw [State.job_updJob _ j.tag (fun y => y.returned s.clock.uptime) (fun _ => rfl), recs]
  have jobsNow (g : Nat) : (s.returnToHold p j.tag).job g = r.job g := by
    rw [shape, State.jobStatus_job]; rfl
  have printers (i : Nat) : (s.returnToHold p j.tag).printer i = (s.unqueue p j.tag).printer i := by
    rw [shape, State.jobStatus_printer]; rfl
  have held (i : Nat) : (s.returnToHold p j.tag).account i = if i = j.account then
      { s.account j.account with held := r.insertHeld j.tag (s.account j.account).held } else s.account i := by
    rw [shape, State.jobStatus_account, State.account_setAccount, accounts]
  have own : r.stampOf j.tag = j.stamp.getD (0, 0) := by
    rw [State.stampOf, jobs, if_pos rfl, h]
    simp [Job.returned, stamp]
  refine ⟨?_, fun g hg => by rw [jobsNow, jobs, if_neg hg], by rw [printers, State.printer_unqueue_self],
    fun i hi => by rw [printers, State.printer_unqueue _ _ _ hi], ?_, fun i hi => by rw [held, if_neg hi], fun room => ?_, ?_⟩
  · rw [jobsNow, jobs, if_pos rfl, h, Option.map_some, same]
    rfl
  · obtain ⟨a, b, split, insert, before, after⟩ := r.insertHeld_split j.tag (s.account j.account).held
    rw [own] at before after
    have stamps := State.stampOf_congr (s := r) (t := s.returnToHold p j.tag) jobsNow
    refine ⟨a, b, split, by rw [held, if_pos rfl, insert], fun g hg => ?_, fun g hg => ?_⟩
    · rw [stamps]; exact before g hg
    · rw [stamps]; exact after g hg
  · have outgoing : w.jobs.outgoing = s.jobs.outgoing := (back .outgoing (by decide)).trans (left .outgoing (by decide))
    have office : w.oport.own = s.oport.own := (back .officeOwn (by decide)).trans (left .officeOwn (by decide))
    have settings : w.settings = s.settings := (back .settings (by decide)).trans (left .settings (by decide))
    have told := State.jobStatus_sent (s := w) x .held (some p) none none (by rw [outgoing]; exact room)
    have same : statusOf w x .held (some p) none none = statusOf s j .held (some p) none none := by
      rw [statusOf_congr settings]
      unfold statusOf
      rw [origin, s.tag_of_job h]
    rw [same] at told
    rw [shape]
    exact told.after office outgoing
  · rw [shape]
    refine ChangesOnly.trans (ChangesOnly.trans ((left.mono (by decide)).trans (back.mono (by decide))) ?_)
      (State.jobStatus_moves ..).changes
    exact (r.setAccount_changes j.account _).mono (by decide)

/-! ### The stop of a stream (R90, R94, R104) -/

/-- R90: the STREAM_CANCEL of a job. -/
def State.cancelMessage (s : State) (p : Nat) (g : Nat) : OwnMsg :=
  { etherType := s.settings.frameType, src := s.settings.ownStation, dst := (s.printer p).cfg.station.getD 0
    jobTag := g, reqTag := 0, body := .streamCancel }

theorem State.leavePrinting_printer (s : State) (p g i : Nat) : (s.leavePrinting p g).printer i =
    if i = p then { s.printer p with stall := .stopped, control := (s.printer p).control.filter (fun m => !m.isBeginOf g) }
    else s.printer i := State.printer_updPrinter _ _ _ _

/-- R90, R104: the stream of a Printing job is stopped. -/
theorem State.cancelStream_stopped (s : State) (p : Nat) (j : Job) : StreamStopped s (s.cancelStream p j.tag) p j := by
  have printers := s.leavePrinting_printer p j.tag
  have shape : s.cancelStream p j.tag =
      if (s.printer p).control.any (fun m => m.isBeginOf j.tag) then s.leavePrinting p j.tag
      else (s.leavePrinting p j.tag).sendControl p (s.cancelMessage p j.tag) := by
    unfold State.cancelStream State.cancelMessage
    have dst : (s.leavePrinting p j.tag).stationOf p = (s.printer p).cfg.station.getD 0 := by
      rw [State.stationOf, printers, if_pos rfl]
    dsimp only
    rw [dst]
    rfl
  refine ⟨fun i hi => ?_, fun hw => ?_, fun hc => ?_, (State.cancelStream_moves _ p j.tag).changesOnly⟩
  · rw [shape]
    split
    · rw [printers, if_neg hi]
    · by_cases h : (s.leavePrinting p j.tag).placesControl p
      · rw [State.sendControl_cancels h rfl]
        exact (printers i).trans (if_neg hi)
      · rw [State.sendControl_waits h, State.printer_updPrinter, if_neg hi, printers, if_neg hi]
  · rw [shape, if_pos (List.any_eq_true.2 hw)]
    exact ⟨rfl, by rw [printers, if_pos rfl]⟩
  · have none : (s.printer p).control.any (fun m => m.isBeginOf j.tag) = false :=
      List.any_eq_false.2 fun m hm => by rw [hc m hm]; decide
    have kept : (s.printer p).control.filter (fun m => !m.isBeginOf j.tag) = (s.printer p).control :=
      List.filter_eq_self.2 fun m hm => by rw [hc m hm]; rfl
    have entry : (s.leavePrinting p j.tag).printer p = { s.printer p with stall := .stopped } := by
      rw [printers, if_pos rfl, kept]
    have places : (s.leavePrinting p j.tag).placesControl p ↔ (s.printer p).control = [] ∧ s.fport.own.length < 32 := by
      rw [State.placesControl, entry]
      rfl
    have sends : s.cancelStream p j.tag = (s.leavePrinting p j.tag).sendControl p (s.cancelMessage p j.tag) := by
      rw [shape, none]
      rfl
    rw [sends]
    dsimp only
    by_cases h : (s.printer p).control = [] ∧ s.fport.own.length < 32
    · rw [if_pos h, State.sendControl_cancels (places.2 h) rfl]
      exact ⟨rfl, entry⟩
    · rw [if_neg h, State.sendControl_waits fun c => h (places.1 c), State.printer_updPrinter, if_pos rfl, entry]
      exact ⟨rfl, rfl⟩

/-! ### Faces handed on (R96, R114, R137) -/

/-- R137: one colorant record of an entry that `n` faces are counted in. -/
def PrinterOf.countedIn (e : Printer) (col : Colorant) (n : Nat) : Printer :=
  e.setSupply col ((e.supply col).map (fun r => r.counted n (decide (e.cfg.mode = .full))))

theorem PrinterOf.setSupply_self (e : Printer) (col : Colorant) : e.setSupply col (e.supply col) = e := by
  cases col <;> rfl

theorem State.countFaces_printer (s : State) (p : Nat) (col : Colorant) (n i : Nat) :
    (s.countFaces p col n).printer i = if i = p then (s.printer p).countedIn col n else s.printer i := by
  unfold State.countFaces PrinterOf.countedIn
  cases h : (s.printer p).supply col with
  | none =>
    dsimp only
    rw [Option.map_none, ← h, PrinterOf.setSupply_self]
    split
    next e => rw [e]
    next => rfl
  | some r =>
    dsimp only
    split
    next c =>
      rw [State.putSupply, State.printer_updPrinter]
      split
      next e =>
        have same : r.counted n (decide ((s.printer p).cfg.mode = .full)) =
            { r with today := min Config.maxFacesToday (r.today + n) } := by
          unfold Supply.counted
          rcases (Bool.or_eq_true _ _).mp c with c | c
          · rw [if_pos c]; rfl
          · rw [of_decide_eq_true c]; simp; rfl
        rw [Option.map_some, same]
      next => rfl
    next c =>
      rw [State.mark_printer, State.putSupply, State.printer_updPrinter]
      split
      next e =>
        have notFull : ¬(s.printer p).cfg.mode = .full := fun hf => c (by rw [decide_eq_true hf]; rfl)
        rw [Option.map_some, Supply.counted, if_neg (by rw [decide_eq_true_iff]; exact notFull)]
        rfl
      next => rfl

/-- R137: faces are counted in the colorant records, those of an estimating printer becoming dirty. -/
theorem State.countFaces_dirty (s : State) (p : Nat) (col : Colorant) (n : Nat) :
    (∀ m ∈ s.store.dirty, m ∈ (s.countFaces p col n).store.dirty) ∧
    (((s.printer p).supply col).isSome → (s.printer p).cfg.mode ≠ .full → 0 < n →
      colorantSlot p col ∈ (s.countFaces p col n).store.dirty) := by
  unfold State.countFaces
  cases h : (s.printer p).supply col with
  | none => exact ⟨fun m hm => hm, fun no => absurd no (by decide)⟩
  | some r =>
    dsimp only
    split
    next c =>
      refine ⟨fun m hm => hm, fun _ hm hn => ?_⟩
      rcases (Bool.or_eq_true _ _).mp c with c | c
      · exact absurd (of_decide_eq_true c) hm
      · have := of_decide_eq_true c
        omega
    next c => exact ⟨fun m hm => State.mem_mark_of_mem _ _ hm, fun _ _ _ => State.mem_mark _⟩

theorem PrinterOf.countedIn_cfg (e : Printer) (col : Colorant) (n : Nat) : (e.countedIn col n).cfg = e.cfg := by cases col <;> rfl

theorem PrinterOf.countedIn_supply (e : Printer) {a b : Colorant} (h : a ≠ b) (n : Nat) :
    (e.countedIn a n).supply b = e.supply b := by
  cases a <;> cases b <;> first | rfl | exact absurd rfl h

theorem PrinterOf.counted_eq (e : Printer) (mono colour : Nat) : e.counted mono colour =
    (((e.countedIn .k (mono + colour)).countedIn .c colour).countedIn .m colour).countedIn .y colour := rfl

theorem State.supplyFaces_printer (s : State) (p mono colour i : Nat) :
    (s.supplyFaces p mono colour).printer i = if i = p then (s.printer p).counted mono colour else s.printer i := by
  unfold State.supplyFaces
  simp only [State.countFaces_printer, if_true]
  by_cases h : i = p
  · simp only [if_pos h]; rfl
  · simp only [if_neg h]

/-- R137: which colorant records become dirty. -/
theorem State.supplyFaces_dirty (s : State) {p mono colour : Nat} (pos : mono + colour ≠ 0)
    (mode : (s.printer p).cfg.mode ≠ .full) :
    ((s.printer p).k.isSome → colorantSlot p .k ∈ (s.supplyFaces p mono colour).store.dirty) ∧
    (0 < colour → ∀ col ∈ [Colorant.c, .m, .y], ((s.printer p).supply col).isSome →
      colorantSlot p col ∈ (s.supplyFaces p mono colour).store.dirty) := by
  let a := s.countFaces p .k (mono + colour)
  let b := a.countFaces p .c colour
  let c := b.countFaces p .m colour
  have first (w : State) (col : Colorant) (n : Nat) : (w.countFaces p col n).printer p = (w.printer p).countedIn col n := by
    rw [State.countFaces_printer, if_pos rfl]
  have ofA : a.printer p = (s.printer p).countedIn .k (mono + colour) := first s .k _
  have ofB : b.printer p = (a.printer p).countedIn .c colour := first a .c _
  have ofC : c.printer p = (b.printer p).countedIn .m colour := first b .m _
  have modes : (a.printer p).cfg.mode ≠ .full ∧ (b.printer p).cfg.mode ≠ .full ∧ (c.printer p).cfg.mode ≠ .full := by
    rw [ofC, ofB, ofA]
    simp only [PrinterOf.countedIn_cfg]
    exact ⟨mode, mode, mode⟩
  refine ⟨fun hk => ?_, fun pc col hcol hs => ?_⟩
  · exact (c.countFaces_dirty p .y colour).1 _ ((b.countFaces_dirty p .m colour).1 _ ((a.countFaces_dirty p .c colour).1 _
      ((s.countFaces_dirty p .k _).2 hk mode (by omega))))
  · simp only [List.mem_cons, List.not_mem_nil, or_false] at hcol
    rcases hcol with rfl | rfl | rfl
    · refine (c.countFaces_dirty p .y colour).1 _ ((b.countFaces_dirty p .m colour).1 _ ((a.countFaces_dirty p .c colour).2 ?_
        modes.1 pc))
      rw [ofA, PrinterOf.countedIn_supply _ (by decide)]
      exact hs
    · refine (c.countFaces_dirty p .y colour).1 _ ((b.countFaces_dirty p .m colour).2 ?_ modes.2.1 pc)
      rw [ofB, ofA, PrinterOf.countedIn_supply _ (by decide), PrinterOf.countedIn_supply _ (by decide)]
      exact hs
    · refine (c.countFaces_dirty p .y colour).2 ?_ modes.2.2 pc
      rw [ofC, ofB, ofA, PrinterOf.countedIn_supply _ (by decide), PrinterOf.countedIn_supply _ (by decide),
        PrinterOf.countedIn_supply _ (by decide)]
      exact hs

/-- R96, R98, R99: faces are handed on. -/
theorem State.handFaces_handed (s : State) (p mono colour : Nat) : FacesHanded s (s.handFaces p mono colour) p mono colour := by
  unfold FacesHanded State.handFaces
  by_cases h : mono + colour = 0
  · rw [if_pos h, if_pos h]
  · rw [if_neg h, if_neg h]
    refine ⟨s.supplyFaces p mono colour, by rw [State.supplyFaces_printer, if_pos rfl],
      fun i hi => by rw [State.supplyFaces_printer, if_neg hi], fun mode => s.supplyFaces_dirty h mode,
      (s.supplyFaces_moves p mono colour).changesOnly, ?_, fun i hi => ?_, (State.updPrinter_moves _ _ _).changesOnly⟩
    · rw [State.printer_updPrinter, if_pos rfl]; rfl
    · rw [State.printer_updPrinter, if_neg hi]

end Sys2Proof.Machine

/-! PROOFS. The Release Engine (R68 to R75): a Held job examined, the walk over Held jobs, LIST, and the three requests. -/

namespace Sys2Proof.Machine

set_option Elab.async false

variable {s t u v : State}

/-! ### The release of a job (R68) -/

/-- R68: a Held job priced, reserved for and placed in a Delivery Queue, before its origin is told. -/
def State.placedAt (s : State) (q : Nat) (j : Job) : State :=
  (((s.setAccount j.account { s.account j.account with reserved := (s.account j.account).reserved + s.priceAt q j }).unhold
    j.account j.tag).updJob j.tag (fun x =>
      { x with rates := some (s.ratesAt q j.account), reservation := some (s.priceAt q j), state := .released })).enterQueue q j.tag

theorem State.releaseJob_some {q : Nat} {j : Job} (hc : (s.account j.account).covers (s.priceAt q j) = true)
    (hr : (s.account j.account).reserved + s.priceAt q j ≤ 16777215) : s.releaseJob q j =
      some (((s.placedAt q j).jobStatus j .released (some q) none none).startStream q) := by
  unfold State.releaseJob
  rw [State.reserve_some hc hr]
  rfl

theorem State.releaseJob_none {q : Nat} {j : Job}
    (h : (s.account j.account).covers (s.priceAt q j) = false ∨ 16777215 < (s.account j.account).reserved + s.priceAt q j) :
    s.releaseJob q j = none := by
  unfold State.releaseJob
  rw [State.reserve_none h]

theorem State.enterQueue_printer (s : State) (q g i : Nat) : (s.enterQueue q g).printer i =
    if i = q then { s.printer q with queue := (s.printer q).queue ++ [g] } else s.printer i := by
  have same : (s.enterQueue q g).printers = (s.updPrinter q (fun e => { e with queue := e.queue ++ [g] })).printers :=
    (State.abandonSettling_moves _).changesOnly .printers (by decide)
  rw [State.printer_congr same, State.printer_updPrinter]

theorem State.placedAt_printer (s : State) (q : Nat) (j : Job) (i : Nat) : (s.placedAt q j).printer i =
    if i = q then { s.printer q with queue := (s.printer q).queue ++ [j.tag] } else s.printer i :=
  State.enterQueue_printer _ q j.tag i

theorem State.enterQueue_account (s : State) (q g k : Nat) : (s.enterQueue q g).account k = s.account k :=
  State.account_congr ((State.abandonSettling_moves _).changesOnly .accounts (by decide)) k

theorem State.enterQueue_job (s : State) (q g x : Nat) : (s.enterQueue q g).job x = s.job x :=
  State.job_congr ((State.abandonSettling_moves (s.updPrinter q fun e => { e with queue := e.queue ++ [g] })).changesOnly
    .jobRecords (by decide)) x

theorem State.placedAt_account (s : State) (q : Nat) (j : Job) (i : Nat) : (s.placedAt q j).account i =
    if i = j.account then { s.account j.account with
      reserved := (s.account j.account).reserved + s.priceAt q j, held := (s.account j.account).held.filter (· ≠ j.tag) }
    else s.account i := by
  rw [State.placedAt, State.enterQueue_account]
  refine Eq.trans (b := (State.unhold _ j.account j.tag).account i) rfl ?_
  rw [State.unhold, State.account_setAccount]
  simp only [State.account_setAccount, if_true]
  split <;> rfl

theorem State.placedAt_job (s : State) (q : Nat) (j : Job) (g : Nat) : (s.placedAt q j).job g =
    if g = j.tag then (s.job g).map (fun x =>
      { x with rates := some (s.ratesAt q j.account), reservation := some (s.priceAt q j), state := .released })
    else s.job g := by
  rw [State.placedAt, State.enterQueue_job, State.job_updJob _ j.tag (fun x =>
    { x with rates := some (s.ratesAt q j.account), reservation := some (s.priceAt q j), state := .released }) (fun _ => rfl)]
  rfl

theorem State.placedAt_changes {q : Nat} {j : Job} (room : (s.printer q).queue.length < 8) :
    ChangesOnly [Piece.jobRecords, .accounts, .printers, .clock] s (s.placedAt q j) := by
  let a := s.setAccount j.account { s.account j.account with reserved := (s.account j.account).reserved + s.priceAt q j }
  let b := (a.unhold j.account j.tag).updJob j.tag (fun x =>
    { x with rates := some (s.ratesAt q j.account), reservation := some (s.priceAt q j), state := .released })
  have first : ChangesOnly [Piece.accounts] s a := s.setAccount_changes j.account _
  have second : ChangesOnly [Piece.jobRecords, .accounts] a b :=
    ((State.unhold_moves a j.account j.tag).changes).trans (State.updJob_moves _ _ _).changes
  have third : ChangesOnly [Piece.printers, .clock] b (s.placedAt q j) := (State.enterQueue_moves b q j.tag room).changesOnly
  exact ((first.mono (by decide)).trans (second.mono (by decide))).trans (third.mono (by decide))

/-- R158: work abandons Settling. -/
theorem State.abandonSettling_core (s : State) : s.abandonSettling.clock.core =
    { s.clock.core with mode := if s.clock.mode = .settling then .running else s.clock.mode } := by
  rw [State.abandonSettling_eq]
  rfl

/-- R68: the release of a job with its JOB_STATUS. -/
def State.toldReleased (s : State) (q : Nat) (j : Job) : State := (s.placedAt q j).jobStatus j .released (some q) none none

/-- R68: the record of a released job. -/
def State.releasedRecord (s : State) (q : Nat) (j : Job) : Job :=
  { j with rates := some (s.ratesAt q j.account), reservation := some (s.priceAt q j), state := .released }

section
variable {q : Nat} {j : Job}

theorem State.toldReleased_job (job : s.job j.tag = some j) (g : Nat) :
    (s.toldReleased q j).job g = if g = j.tag then some (s.releasedRecord q j) else s.job g := by
  rw [State.toldReleased, State.jobStatus_job, State.placedAt_job]
  split
  next h => rw [h, job]; rfl
  next => rfl

theorem State.toldReleased_changes (room : (s.printer q).queue.length < 8) :
    ChangesOnly ([Piece.jobRecords, .accounts, .printers, .clock] ++ jobTraffic) s (s.toldReleased q j) :=
  ((State.placedAt_changes room).mono (by decide)).trans (State.jobStatus_moves ..).changes

theorem State.toldReleased_printer (i : Nat) : (s.toldReleased q j).printer i =
    if i = q then { s.printer q with queue := (s.printer q).queue ++ [j.tag] } else s.printer i := by
  rw [State.toldReleased, State.jobStatus_printer, State.placedAt_printer]

theorem State.toldReleased_sent (room : (s.printer q).queue.length < 8) (out : s.jobs.outgoing.length < 4096) :
    JobSent s (s.toldReleased q j) [statusOf s j .released (some q) none none] := by
  have placed := State.placedAt_changes (j := j) room
  have told := State.jobStatus_sent (s := s.placedAt q j) j .released (some q) none none
    (by rw [placed .outgoing (by decide)]; exact out)
  rw [statusOf_congr (placed .settings (by decide))] at told
  exact told.after (placed .officeOwn (by decide)) (placed .outgoing (by decide))

theorem State.toldReleased_outgoing (room : (s.printer q).queue.length < 8) :
    (s.toldReleased q j).jobs.outgoing.length ≤ s.jobs.outgoing.length + 1 := by
  have same : (s.placedAt q j).jobs.outgoing = s.jobs.outgoing := State.placedAt_changes (j := j) room .outgoing (by decide)
  rw [← same, State.toldReleased, State.jobStatus]
  split
  · exact State.outgoing_jobSend_le _
  · exact Nat.le_succ _

/-- R89: the job just released is the first Released job of a queue that held none. -/
theorem State.toldReleased_first (job : s.job j.tag = some j) (fresh : j.tag ∉ (s.printer q).queue)
    (idle : ∀ g ∈ (s.printer q).queue, ∀ x, s.job g = some x → x.state ≠ .printing ∧ x.state ≠ .released) :
    (s.toldReleased q j).firstIn q .printing = none ∧ (s.toldReleased q j).firstIn q .released = some (s.releasedRecord q j) := by
  have queue : ((s.toldReleased q j).printer q).queue = (s.printer q).queue ++ [j.tag] := by
    rw [State.toldReleased_printer, if_pos rfl]
  have before (g : Nat) (hg : g ∈ (s.printer q).queue) (x : Job) (hx : (s.toldReleased q j).job g = some x) :
      x.state ≠ .printing ∧ x.state ≠ .released := by
    rw [State.toldReleased_job job, if_neg (fun e : g = j.tag => fresh (e ▸ hg))] at hx
    exact idle g hg x hx
  have last : (s.toldReleased q j).job j.tag = some (s.releasedRecord q j) := by
    rw [State.toldReleased_job job, if_pos rfl]
  refine ⟨(State.firstIn_none_iff _ q .printing).2 fun g hg x hx => ?_,
    (State.firstIn_iff _ q .released _).2 ⟨(s.printer q).queue, j.tag, [], queue, last, rfl, fun g hg x hx => (before g hg x hx).2⟩⟩
  rw [queue, List.mem_append, List.mem_singleton] at hg
  rcases hg with hg | rfl
  · exact (before g hg x hx).1
  · rw [last] at hx
    cases hx
    exact nofun
end

/-- R90: a stream begun after changes that its message and its timer do not depend on. -/
theorem StreamBegun.after {q : Nat} {j x : Job} (h : StreamBegun u t q x) (control : (u.printer q).control = (s.printer q).control)
    (cfg : (u.printer q).cfg = (s.printer q).cfg) (stall : (u.printer q).stall = (s.printer q).stall) (port : u.fport = s.fport)
    (settings : u.settings = s.settings) (tag : x.tag = j.tag)
    (body : x.declaredCounts = j.declaredCounts ∧ x.media = j.media ∧ x.received = j.received) : StreamBegun s t q j := by
  unfold StreamBegun at h ⊢
  simp only [control, cfg, stall, port, settings, tag, body.1, body.2.1, body.2.2] at h
  exact h

/-- R68, R72: a job with a target and the quota is released there. -/
theorem State.examine_released {p q : Nat} {j : Job} (ht : s.target p j = some q)
    (hc : (s.account j.account).covers (s.priceAt q j) = true)
    (hr : (s.account j.account).reserved + s.priceAt q j ≤ 16777215) : s.examine p j =
      { state := (s.toldReleased q j).startStream q, entry := j.answerEntry (s.priceAt q j) .released, target := some q } := by
  unfold State.examine
  rw [ht]
  dsimp only
  rw [State.releaseJob_some hc hr]
  rfl

theorem State.examine_noQuota {p q : Nat} {j : Job} (ht : s.target p j = some q)
    (h : (s.account j.account).covers (s.priceAt q j) = false ∨ 16777215 < (s.account j.account).reserved + s.priceAt q j) :
    s.examine p j = { state := s, entry := j.answerEntry (s.priceAt q j) .skippedQuota, target := none } := by
  unfold State.examine
  rw [ht]
  dsimp only
  rw [State.releaseJob_none h]

theorem State.examine_noTarget {p : Nat} {j : Job} (ht : s.target p j = none) :
    s.examine p j = { state := s, entry := j.answerEntry (s.priceAt p j) (s.skipReason p j), target := none } := by
  unfold State.examine
  rw [ht]

/-- Settles O25: no target, no quota, or a release, whose stream starts in an idle queue. -/
theorem examineJob : Obligations.ExamineJob := by
  intro s p j job held
  refine ⟨State.examine_noTarget, fun q ht => ⟨State.examine_noQuota ht, fun hc hr fresh out idle => ?_⟩⟩
  have eligible := State.target_spec ht
  have room := PrinterOf.queue_of_eligible eligible
  let v := s.toldReleased q j
  have changes : ChangesOnly _ s v := State.toldReleased_changes (j := j) room
  have printers (i : Nat) : v.printer i = _ := State.toldReleased_printer i
  have accounts (i : Nat) : v.account i = _ := (State.jobStatus_account _ _ _ _ _ _ i).trans (s.placedAt_account q j i)
  have jobs (g : Nat) : v.job g = _ := State.toldReleased_job job g
  have sent := State.toldReleased_sent (j := j) room (by omega)
  have clock : v.clock.core = { s.clock.core with mode := if s.clock.mode = .settling then .running else s.clock.mode } :=
    ((State.jobStatus_moves ..).changesOnly .clock (by decide)).trans (State.abandonSettling_core _)
  have port : v.fport = s.fport := changes.fport
  have other (busy : ∃ g ∈ (s.printer q).queue, ∃ x, s.job g = some x ∧ x.state = .printing) : v.startStream q = v := by
    obtain ⟨g, hg, x, hx, printing⟩ := busy
    refine State.startStream_idle (.inr (.inl fun none => ?_))
    refine (State.firstIn_none_iff v q .printing).1 none g ?_ x ?_ printing
    · rw [printers, if_pos rfl]
      exact List.mem_append_left _ hg
    · rw [jobs, if_neg (fun e : g = j.tag => fresh (e ▸ hg)), hx]
  by_cases busy : ∃ g ∈ (s.printer q).queue, ∃ x, s.job g = some x ∧ x.state = .printing
  · refine ⟨v, ?_, by rw [accounts, if_pos rfl], fun _ => ⟨by rw [jobs, if_pos rfl]; rfl, by rw [printers, if_pos rfl], port, sent⟩,
      fun no => absurd busy no, fun g hg => by rw [jobs, if_neg hg], fun i hi => by rw [accounts, if_neg hi],
      fun i hi => by rw [printers, if_neg hi], clock, changes.mono (by decide)⟩
    rw [State.examine_released ht hc hr, other busy]
  · have idle := State.toldReleased_first job fresh fun g hg x hx =>
      ⟨fun printing => busy ⟨g, hg, x, hx, printing⟩, idle busy g hg x hx⟩
    have standing : (v.printer q).standing = Standing.none := by
      rw [printers, if_pos rfl]
      exact (PrinterOf.eligible_iff.1 eligible).2.2.1
    obtain ⟨begunJob, begunOthers, begun, entry, begunPrinters, told, frame⟩ :=
      State.startStream_begun standing idle.1 idle.2
    have outgoing : v.jobs.outgoing.length ≤ _ := State.toldReleased_outgoing (j := j) room
    have settings : v.settings = s.settings := changes .settings (by decide)
    refine ⟨v.startStream q, State.examine_released ht hc hr, ?_, fun yes => absurd yes busy, fun _ => ⟨begunJob, ?_, ?_, ?_⟩,
      fun g hg => ?_, fun i hi => ?_, fun i hi => ?_, ?_, ?_⟩
    · rw [State.account_congr (frame .accounts (by decide)), accounts, if_pos rfl]
    · rw [entry]
      show (v.printer q).queue = _
      rw [printers, if_pos rfl]
    · refine begun.after ?_ ?_ ?_ port settings rfl ⟨rfl, rfl, rfl⟩ <;> rw [printers, if_pos rfl]
    · have last := told (by omega)
      rw [statusOf_congr settings] at last
      exact sent.trans last
    · rw [begunOthers g hg, jobs, if_neg hg]
    · rw [State.account_congr (frame .accounts (by decide)), accounts, if_neg hi]
    · rw [begunPrinters i hi, printers, if_neg hi]
    · rw [frame .clock (by decide)]; exact clock
    · exact (changes.mono (by decide)).trans (frame.mono (by decide))

end Sys2Proof.Machine

/-! PROOFS. The walk over Held jobs (R72, R73). -/

namespace Sys2Proof.Machine

set_option Elab.async false

variable {s t u v : State}

/-! ### The first redirection (R73) -/

/-- R73: only the asking printer is a target. -/
theorem firstRedirect_none_iff (p : Nat) (ts : List (Option Nat)) :
    firstRedirect p ts = none ↔ ∀ q, some q ∈ ts → q = p := by
  rw [firstRedirect, List.find?_eq_none]
  simp [List.mem_filterMap]

/-- R73: the first target that is another printer. -/
theorem firstRedirect_some_iff (p : Nat) (ts : List (Option Nat)) (q : Nat) :
    firstRedirect p ts = some q ↔
      q ≠ p ∧ ∃ before after, ts = before ++ some q :: after ∧ ∀ x, some x ∈ before → x = p := by
  rw [firstRedirect, List.find?_filterMap]
  constructor
  · intro h
    obtain ⟨a, found, rfl⟩ := Option.bind_eq_some_iff.1 h
    obtain ⟨other, before, after, split, skipped⟩ := List.find?_eq_some_iff_append.1 found
    refine ⟨by simpa using other, before, after, split, fun x hx => ?_⟩
    simpa using skipped _ hx
  · rintro ⟨other, before, after, split, skipped⟩
    refine Option.bind_eq_some_iff.2 ⟨some q, List.find?_eq_some_iff_append.2 ⟨by simpa using other, before, after, split,
      fun a ha => ?_⟩, rfl⟩
    cases a with
    | none => rfl
    | some x => simpa using skipped x ha

/-! ### One examination (R72) -/

/-- R89: the start of a stream leaves the Held jobs. -/
theorem State.startStream_held {p g : Nat} {j : Job} (job : s.job g = some j) (held : j.state = .held) :
    (s.startStream p).job g = some j := by
  by_cases h : (s.printer p).standing ≠ Standing.none ∨ s.firstIn p .printing ≠ none ∨ s.firstIn p .released = none
  · rw [State.startStream_idle h, job]
  · rw [not_or, not_or, not_not, not_not] at h
    obtain ⟨standing, printing, released⟩ := h
    obtain ⟨x, hx⟩ := Option.ne_none_iff_exists'.1 released
    obtain ⟨named, state, -⟩ := State.firstIn_job hx
    have other : g ≠ x.tag := by
      rintro rfl
      rw [named] at job
      cases job
      rw [held] at state
      exact nomatch state
    rw [(State.startStream_begun standing printing hx).2.1 g other, job]

theorem State.skipReason_skips (s : State) (p : Nat) (j : Job) : s.skipReason p j ≠ .released := by
  unfold State.skipReason
  split <;> exact nofun

/-- R72: what an examination tells: the job, whether it was released, and that other Held jobs stay. -/
theorem State.examine_spec (s : State) (p : Nat) {j : Job} (job : s.job j.tag = some j) :
    (s.examine p j).entry.tag = j.tag ∧ ((s.examine p j).entry.fate = .released ↔ ∃ q, (s.examine p j).target = some q) ∧
    ((s.examine p j).target = none → (s.examine p j).state = s) ∧
    (∀ g x, g ≠ j.tag → s.job g = some x → x.state = .held → (s.examine p j).state.job g = some x) := by
  cases ht : s.target p j with
  | none =>
    rw [State.examine_noTarget ht]
    exact ⟨rfl, ⟨fun h => absurd h (s.skipReason_skips p j), fun ⟨q, h⟩ => nomatch h⟩, fun _ => rfl, fun g x _ hx _ => hx⟩
  | some q =>
    by_cases h : (s.account j.account).covers (s.priceAt q j) = false ∨ 16777215 < (s.account j.account).reserved + s.priceAt q j
    · rw [State.examine_noQuota ht h]
      exact ⟨rfl, ⟨fun h => (nomatch h), fun ⟨q, h⟩ => nomatch h⟩, fun _ => rfl, fun g x _ hx _ => hx⟩
    · rw [not_or, Bool.not_eq_false, Nat.not_lt] at h
      rw [State.examine_released ht h.1 h.2]
      refine ⟨rfl, ⟨fun _ => ⟨q, rfl⟩, fun _ => rfl⟩, nofun, fun g x hg hx held => State.startStream_held ?_ held⟩
      rw [State.toldReleased_job job, if_neg hg, hx]

/-! ### The walk (R73) -/

theorem State.walk_stops {p n : Nat} {tags : List Nat} (h : tags = [] ∨ 8 ≤ n) : State.walk p tags n s = (s, [], []) := by
  cases tags with
  | nil => rfl
  | cons g rest => exact if_pos (h.resolve_left nofun)

theorem State.walk_cons {p n g : Nat} {rest : List Nat} {j : Job} (hn : n < 8) (job : s.job g = some j) :
    State.walk p (g :: rest) n s =
      let r := State.walk p rest (if (s.examine p j).target = none then n else n + 1) (s.examine p j).state
      (r.1, (s.examine p j).entry :: r.2.1, (s.examine p j).target :: r.2.2) := by
  have more : ¬Config.releaseLimit ≤ n := Nat.not_le.2 hn
  rw [State.walk, if_neg more, job]
  dsimp only
  have count : (if (s.examine p j).target.isSome = true then n + 1 else n) =
      if (s.examine p j).target = none then n else n + 1 := by
    cases (s.examine p j).target <;> rfl
  rw [count]

/-- Whether an entry tells of a release. -/
abbrev AnswerEntry.isReleased (e : AnswerEntry) : Bool := decide (e.fate = .released)

/-- R72, R73: what a walk over Held jobs leaves, `n` jobs having been released before it. -/
structure Walked (s t : State) (n : Nat) (tags : List Nat) (es : List AnswerEntry) (ts : List (Option Nat)) : Prop where
  listed : es.map AnswerEntry.tag <+: tags
  paired : ts.length = es.length
  fates : ∀ (i : Nat) (e : AnswerEntry), es[i]? = some e → (e.fate = .released ↔ ∃ q, ts[i]? = some (some q))
  bounded : n + (es.filter AnswerEntry.isReleased).length ≤ 8
  stopped : es.length < tags.length → n + (es.filter AnswerEntry.isReleased).length = 8
  skipped : ∀ g, (∀ e ∈ es, e.tag = g → e.fate ≠ .released) → ∀ j, s.job g = some j → j.state = .held → t.job g = some j

theorem Walked.start {n : Nat} {tags : List Nat} (hn : n ≤ 8) (h : tags = [] ∨ 8 ≤ n) : Walked s s n tags [] [] :=
  ⟨List.nil_prefix, rfl, nofun, hn, fun more => by
    rcases h with rfl | h
    · exact absurd more (by simp)
    · exact Nat.le_antisymm hn h, fun _ _ _ hj _ => hj⟩

/-- R73: one examination, and then the walk over the rest. -/
theorem Walked.cons {p n g : Nat} {rest : List Nat} {j : Job} {es : List AnswerEntry} {ts : List (Option Nat)}
    (job : s.job g = some j)
    (h : Walked (s.examine p j).state t (if (s.examine p j).target = none then n else n + 1) rest es ts) :
    Walked s t n (g :: rest) ((s.examine p j).entry :: es) ((s.examine p j).target :: ts) := by
  have tag : j.tag = g := s.tag_of_job job
  obtain ⟨entry, fate, same, others⟩ := s.examine_spec p (tag ▸ job)
  have counted : n + (((s.examine p j).entry :: es).filter AnswerEntry.isReleased).length =
      (if (s.examine p j).target = none then n else n + 1) + (es.filter AnswerEntry.isReleased).length := by
    cases hx : (s.examine p j).target with
    | none =>
      have skipped : ((s.examine p j).entry.isReleased) = false := decide_eq_false fun c => by
        obtain ⟨q, hq⟩ := fate.1 c
        rw [hx] at hq
        exact nomatch hq
      rw [List.filter_cons, skipped]
      simp
    | some q =>
      have released : ((s.examine p j).entry.isReleased) = true := decide_eq_true (fate.2 ⟨q, hx⟩)
      rw [List.filter_cons, released]
      simp
      omega
  refine ⟨?_, by simp [h.paired], fun i e he => ?_, by rw [counted]; exact h.bounded, fun more => ?_, fun x hx y hy held => ?_⟩
  · rw [List.map_cons, entry, tag]
    exact List.cons_prefix_cons.2 ⟨rfl, h.listed⟩
  · cases i with
    | zero =>
      simp only [List.getElem?_cons_zero, Option.some.injEq] at he ⊢
      exact he ▸ fate
    | succ i =>
      simp only [List.getElem?_cons_succ] at he ⊢
      exact h.fates i e he
  · rw [counted]
    exact h.stopped (by simpa using more)
  · by_cases e : x = j.tag
    · have skipped : (s.examine p j).target = none := by
        cases ht : (s.examine p j).target with
        | none => rfl
        | some q => exact absurd (fate.2 ⟨q, ht⟩) (hx _ (List.mem_cons_self ..) (entry.trans e.symm))
      refine h.skipped x (fun e he => hx e (List.mem_cons_of_mem _ he)) y ?_ held
      rw [same skipped]
      exact hy
    · exact h.skipped x (fun e he => hx e (List.mem_cons_of_mem _ he)) y (others x y e hy held) held

/-- R72, R73: a walk over Held jobs. -/
theorem State.walk_walked (p : Nat) : ∀ (tags : List Nat) (n : Nat) (s : State), n ≤ 8 → tags.Nodup →
    (∀ g ∈ tags, ∃ j, s.job g = some j ∧ j.state = .held) →
    ∃ t es ts, State.walk p tags n s = (t, es, ts) ∧ Walked s t n tags es ts
  | [], n, s, hn, _, _ => ⟨s, [], [], rfl, Walked.start hn (.inl rfl)⟩
  | g :: rest, n, s, hn, distinct, held => by
    by_cases stop : 8 ≤ n
    · exact ⟨s, [], [], State.walk_stops (.inr stop), Walked.start hn (.inr stop)⟩
    · obtain ⟨fresh, distinct⟩ := List.nodup_cons.1 distinct
      obtain ⟨j, job, -⟩ := held g (List.mem_cons_self ..)
      have tag : j.tag = g := s.tag_of_job job
      obtain ⟨-, -, -, others⟩ := s.examine_spec p (tag ▸ job)
      obtain ⟨t, es, ts, walk, walked⟩ := State.walk_walked p rest (if (s.examine p j).target = none then n else n + 1)
        (s.examine p j).state (by split <;> omega) distinct fun x hx => by
          obtain ⟨y, named, state⟩ := held x (List.mem_cons_of_mem _ hx)
          exact ⟨y, others x y (by rintro rfl; exact fresh (tag ▸ hx)) named state, state⟩
      refine ⟨t, _, _, ?_, walked.cons job⟩
      rw [State.walk_cons (Nat.lt_of_not_le stop) job, walk]

/-- Settles O26: one examination at a time, and what the walk over Held jobs leaves. -/
theorem walkReleasesAtMostEight : Obligations.WalkReleasesAtMostEight := by
  refine ⟨fun s p n tags h => State.walk_stops h, fun s p n g rest j hn job => ?_, fun s p tags distinct held => ?_,
    fun p ts => ⟨firstRedirect_none_iff p ts, firstRedirect_some_iff p ts⟩⟩
  · exact ⟨_, _, _, rfl, State.walk_cons hn job⟩
  · obtain ⟨t, es, ts, walk, walked⟩ := State.walk_walked p tags 0 s (by omega) distinct held
    refine ⟨t, es, ts, walk, walked.listed, walked.paired, walked.fates, ?_, fun more => ?_, walked.skipped⟩
    · exact (Nat.zero_add _).symm.trans_le walked.bounded
    · exact (Nat.zero_add _).symm.trans (walked.stopped more)

end Sys2Proof.Machine

/-! PROOFS. What the panel requests of an authenticated holder answer: LIST (R70, R71), RELEASE_ALL, RELEASE_ONE and DELETE_ONE (R72
to R75). -/

namespace Sys2Proof.Machine

set_option Elab.async false

variable {s t u v : State}

/-! ### The holder authenticated (R27, R121) -/

/-- R27, R121: the state once the frame is taken and the holder authenticated. -/
def State.authedAt (s : State) (p k : Nat) : State :=
  if (s.account k).cfg.pin.isSome && (s.account k).failures != 0 then
    (s.frameFrom p).setBalance k { s.account k with failures := 0 }
  else s.frameFrom p

theorem State.authedAt_authenticated {p k : Nat} (hs : Present s p) (awake : s.asleep = false) :
    Authenticated [] s (s.authedAt p k) p k := by
  have heard := State.frameFrom_heard hs awake
  have accounts (i : Nat) : (s.frameFrom p).account i = s.account i := State.account_congr (heard.rest .accounts (by decide)) i
  unfold State.authedAt
  split
  next h =>
    have set : ChangesOnly [Piece.accounts, .storeWriting] (s.frameFrom p) ((s.frameFrom p).setBalance k _) :=
      (s.frameFrom p).setBalance_changes k { s.account k with failures := 0 }
    have printers (i : Nat) := State.printer_congr (set .printers (by decide)) i
    refine ⟨?_, fun i hi => ?_, (printers p).trans heard.printer, fun i hi => (printers i).trans (heard.printers i hi), ?_⟩
    · rw [State.setBalance_account, if_pos rfl, Account.authed, if_pos ((Bool.and_eq_true _ _).mp h).1]
    · rw [State.setBalance_account, if_neg hi, accounts]
    · exact (heard.rest.mono (by decide)).trans (set.mono (by decide))
  next h =>
    refine ⟨?_, fun i _ => accounts i, heard.printer, heard.printers, heard.rest.mono (by decide)⟩
    rw [accounts, Account.authed]
    split
    next pin =>
      have zero : (s.account k).failures = 0 := by
        by_contra c
        exact h (by rw [pin]; simpa using c)
      rw [← zero]
    next => rfl

/-- R62: a panel request of an authenticated holder. -/
theorem panelRequest_authed {h : Hdr} {ask : AskBody} {p k : Nat} {f : Nat → Nat → State → PanelAnswer}
    (hr : PanelReady h ask p k s) (hs : Present s p) :
    panelRequest h (some ask) (some f) s =
      .next ((f p k (s.authedAt p k)).state.answerPanel h 0 (f p k (s.authedAt p k)).result (f p k (s.authedAt p k)).target
        (f p k (s.authedAt p k)).entries).finish := by
  obtain ⟨q, shape, -, e⟩ := panelRequest_next (f := f) hr.toPrinterReady hs hr.noAnswer
  have accounts : (s.frameFrom p).accounts = s.accounts := by rw [shape]
  rw [e, State.authenticate_ready hr accounts]
  rfl

theorem Authenticated.settings {l : List Piece} {p k : Nat} (h : Authenticated l s t p k)
    (hl : Piece.settings ∉ l := by decide) : t.settings = s.settings := h.rest .settings (by simp [hl])

/-- R63, R64: a panel request of an authenticated holder is answered with what its rule gives. -/
theorem panelRequest_answered {h : Hdr} {ask : AskBody} {p k : Nat} {f : Nat → Nat → State → PanelAnswer}
    (hr : PanelReady h ask p k s) (hs : Present s p) {r : Result} {x : Option Nat} {es : List AnswerEntry}
    (hf : f p k (s.authedAt p k) = { state := v, result := r, target := x, entries := es }) {l : List Piece}
    (hm : Moves l (s.authedAt p k) v) (hl : Piece.fleetOther ∉ l ∧ Piece.settings ∉ l := by decide) :
    panelRequest h (some ask) (some f) s = .next (v.answerPanel h 0 r x es).finish ∧
      PanelAnswered s (v.answerPanel h 0 r x es).finish h r x es ∧
      Moves ([Piece.fleetOwn, .answer] ++ endOfStep) v (v.answerPanel h 0 r x es).finish := by
  have authed := State.authedAt_authenticated (k := k) hs hr.awake
  obtain ⟨y, hy⟩ := hm.fleetOwn_grows hl.1
  refine ⟨by rw [panelRequest_authed hr hs, hf], State.panelAnswered_answerPanel ?_ (x := y) ?_,
    (State.answerPanel_moves ..).mono.next (State.finish_moves _)⟩
  · rw [hm.changesOnly .settings hl.2, authed.settings]
  · rw [hy, authed.rest .fleetOwn (by decide)]

/-! ### LIST (R70, R71) -/

theorem State.printer_funext (h : t.printers = s.printers) : t.printer = s.printer := funext (State.printer_congr h)

theorem State.groupOf_congr (h : t.printers = s.printers) (a : Nat) : t.groupOf a = s.groupOf a := by
  unfold State.groupOf State.configured
  rw [State.printer_funext h, h]

theorem State.target_congr (h : t.printers = s.printers) (a : Nat) (j : Job) : t.target a j = s.target a j := by
  have shorter : t.shorter = s.shorter := by
    funext best p
    unfold State.shorter
    rw [State.printer_funext h]
  unfold State.target State.partner
  rw [State.groupOf_congr h, State.printer_funext h, shorter]

theorem State.skipReason_congr (h : t.printers = s.printers) (a : Nat) (j : Job) : t.skipReason a j = s.skipReason a j := by
  unfold State.skipReason
  rw [State.groupOf_congr h, State.printer_funext h]

theorem State.priceAt_congr (printers : t.printers = s.printers) (accounts : t.accounts = s.accounts)
    (tariff : t.tariff = s.tariff) (p : Nat) (j : Job) : t.priceAt p j = s.priceAt p j := by
  unfold State.priceAt State.ratesAt
  rw [State.printer_funext printers, State.account_congr accounts, tariff]

theorem State.listFate_congr (printers : t.printers = s.printers) (accounts : t.accounts = s.accounts)
    (tariff : t.tariff = s.tariff) (a : Nat) (j : Job) : t.listFate a j = s.listFate a j := by
  unfold State.listFate
  simp only [State.target_congr printers, State.skipReason_congr printers, State.priceAt_congr printers accounts tariff,
    State.account_congr accounts]

/-- R71: a target is told with the outcome Released alone. -/
theorem State.listFate_target (s : State) (a : Nat) (j : Job) :
    (s.listFate a j).2 = if (s.listFate a j).1 = .released then s.target a j else none := by
  unfold State.listFate
  cases ht : s.target a j with
  | none => rw [if_neg (s.skipReason_skips a j)]
  | some q =>
    dsimp only
    split
    · rw [if_pos rfl]
    · rw [if_neg (by decide)]

theorem State.listFate_fate (s : State) (a : Nat) (j : Job) : (s.listFate a j).1 = match s.target a j with
    | none => s.skipReason a j
    | some q => if (s.account j.account).covers (s.priceAt q j) then .released else .skippedQuota := by
  unfold State.listFate
  cases s.target a j with
  | none => rfl
  | some q => dsimp only; split <;> rfl

/-- Settles O27: the entries of LIST are those of the state that it leaves. -/
theorem listAnswers : Obligations.ListAnswers := by
  intro h ask p k s hr hs
  let w := s.authedAt p k
  have authed := State.authedAt_authenticated (k := k) hs hr.awake
  obtain ⟨e, answered, moves⟩ := panelRequest_answered (f := listRule) (v := w) (r := .ok)
    (x := firstRedirect p ((w.listEntries p k).map Prod.snd)) (es := (w.listEntries p k).map Prod.fst) hr hs rfl (Moves.refl _) (l := [])
  refine ⟨_, e, ?_, ?_⟩
  · generalize (w.answerPanel h 0 .ok (firstRedirect p ((w.listEntries p k).map Prod.snd))
      ((w.listEntries p k).map Prod.fst)).finish = t at answered moves
    have frame := moves.changesOnly
    have fates (j : Job) : t.listFate p j = w.listFate p j :=
      State.listFate_congr (frame .printers (by decide)) (frame .accounts (by decide)) (frame .tariff (by decide)) p j
    have prices (j : Job) : t.priceAt p j = w.priceAt p j :=
      State.priceAt_congr (frame .printers (by decide)) (frame .accounts (by decide)) (frame .tariff (by decide)) p j
    have held : (w.account k).held = (s.account k).held := by
      rw [authed.account, Account.authed]
      split <;> rfl
    have jobs : w.job = s.job := funext fun g => State.job_congr (authed.rest .jobRecords (by decide)) g
    have listed : w.listEntries p k = (((s.account k).held.take 16).filterMap s.job).map (fun j =>
        (j.answerEntry (t.priceAt p j) (t.listFate p j).1,
          if (t.listFate p j).1 = .released then t.target p j else none)) := by
      unfold State.listEntries
      rw [held, jobs]
      refine List.map_congr_left fun j _ => ?_
      rw [fates, prices, State.listFate_target, State.target_congr (frame .printers (by decide))]
    rw [listed, List.map_map, List.map_map] at answered
    simp only [firstRedirect, List.filterMap_map, Function.comp_def, State.listFate_fate] at answered
    exact answered
  · have after := moves.changesOnly
    exact ⟨(State.account_congr (after .accounts (by decide)) k).trans authed.account,
      fun i hi => (State.account_congr (after .accounts (by decide)) i).trans (authed.accounts i hi),
      (State.printer_congr (after .printers (by decide)) p).trans authed.printer,
      fun i hi => (State.printer_congr (after .printers (by decide)) i).trans (authed.printers i hi),
      (authed.rest.mono (by decide)).trans (after.mono (by decide))⟩

/-! ### RELEASE_ALL, RELEASE_ONE and DELETE_ONE (R72 to R75) -/

theorem State.heldJob_some {k g : Nat} {j : Job} (job : s.job g = some j) (account : j.account = k) (held : j.state = .held) :
    s.heldJob k g = some j := by
  unfold State.heldJob
  rw [job]
  simp [account, held]

theorem State.heldJob_none {k g : Nat} (h : ∀ j, s.job g = some j → j.account ≠ k ∨ j.state ≠ .held) : s.heldJob k g = none := by
  unfold State.heldJob
  cases e : s.job g with
  | none => rfl
  | some j =>
    have := h j e
    simp only [ite_eq_right_iff, reduceCtorEq, imp_false, Bool.and_eq_true, decide_eq_true_eq, beq_iff_eq, not_and_or]
    exact this

/-- R75: DELETE_ONE of a Held job of the holder. -/
theorem deleteOne_done {h : Hdr} {ask : AskBody} {p k : Nat} {j : Job} (hr : PanelReady h ask p k s) (hs : Present s p)
    (job : s.job h.jobTag = some j) (account : j.account = k) (held : j.state = .held) (room : s.jobs.outgoing.length < 4096) :
    ∃ t, exec (.deleteOne h (some ask)) s = .next t ∧ JobEnded s t j ∧
      PanelAnswered s t h .ok none [j.answerEntry 0 .deleted] ∧
      t.account k = { (s.account k).authed with held := (s.account k).held.filter (· ≠ j.tag) } ∧
      OtherAccounts k s t ∧ t.printer p = (s.printer p).heard ∧ OtherPrinters p s t ∧
      JobSent s t [statusOf s j .ended none (some .userCancelled) j.charged] ∧
      ChangesOnly ([Piece.jobRecords, .contexts, .freeSegments, .promises, .spoolLow, .accounts, .printers, .fleetOwn,
        .answer] ++ jobTraffic ++ noticeTraffic ++ endOfStep) s t := by
  let w := s.authedAt p k
  have authed : Authenticated [] s w p k := State.authedAt_authenticated hs hr.awake
  have named : w.job h.jobTag = some j := (State.job_congr (authed.rest .jobRecords (by decide)) _).trans job
  have tag : j.tag = h.jobTag := s.tag_of_job job
  have rule : deleteOneRule h.jobTag k w =
      { state := w.endJob j .userCancelled, result := .ok, target := none, entries := [j.answerEntry 0 .deleted] } := by
    unfold deleteOneRule
    rw [State.heldJob_some named account held]
  have ends := State.endJob_moves w j .userCancelled (by rw [tag]; exact named)
  obtain ⟨e, answered, later⟩ := panelRequest_answered (f := fun _ k t => deleteOneRule h.jobTag k t) hr hs rule ends
  obtain ⟨entry, others, frame⟩ := w.endJob_held .userCancelled held
  rw [account] at entry others
  have after := later.changesOnly
  have printers (i : Nat) := (State.printer_congr (after .printers (by decide)) i).trans
    (State.printer_congr (frame .printers (by decide)) i)
  have prelude : Prelude s w j.tag :=
    ⟨by rw [authed.rest .jobRecords (by decide)], authed.rest .contexts (by decide), by
      obtain ⟨free, promises, low, mem⟩ : _ ∧ _ ∧ _ ∧ _ := ⟨authed.rest .freeSegments (by decide), authed.rest .promises (by decide),
        authed.rest .spoolLow (by decide), authed.rest .spoolBytes (by decide)⟩
      cases e : w.spool
      cases e' : s.spool
      simp_all [Piece.same], ⟨[], by rw [authed.rest .officeOwn (by decide), List.append_nil]⟩,
      ⟨[], by rw [authed.rest .notices (by decide), List.append_nil]⟩, authed.settings⟩
  refine ⟨_, e, ?_, answered, ?_, fun i hi => ?_, (printers p).trans authed.printer,
    fun i hi => (printers i).trans (authed.printers i hi), ?_, ?_⟩
  · exact ((w.endJob_ended j .userCancelled).after prelude).later later
  · rw [State.account_congr (after .accounts (by decide)), entry, authed.account]
    unfold Account.authed
    split <;> rfl
  · rw [State.account_congr (after .accounts (by decide)), others i hi, authed.accounts i hi]
  · have sent := w.endJob_sent (j := j) .userCancelled (by rw [authed.rest .outgoing (by decide)]; exact room)
    rw [held, statusOf_congr authed.settings] at sent
    have before := sent.after (s := s) (authed.rest .officeOwn (by decide)) (authed.rest .outgoing (by decide))
    rw [JobSent, State.jobMessages_congr (after .officeOwn (by decide)) (after .outgoing (by decide))]
    exact before
  · exact ((authed.rest.mono (by decide)).trans (frame.mono (by decide))).trans (after.mono (by decide))

/-- Settles O28: the three requests on the state that authentication leaves. -/
theorem releaseRequests : Obligations.ReleaseRequests := by
  intro h ask p k s hr hs
  let w := s.authedAt p k
  have authed : Authenticated [] s w p k := State.authedAt_authenticated hs hr.awake
  have held : (w.account k).held = (s.account k).held := by
    rw [authed.account, Account.authed]
    split <;> rfl
  have jobs (g : Nat) : w.job g = s.job g := State.job_congr (authed.rest .jobRecords (by decide)) g
  refine ⟨w, authed, ?_, fun j job account state => ⟨?_, fun room => deleteOne_done hr hs job account state room⟩, fun none c hc => ?_⟩
  · let r := State.walk p ((s.account k).held.take 16) 0 w
    have rule : releaseAllRule p k w =
        { state := r.1, result := .ok, target := firstRedirect p r.2.2, entries := r.2.1 } := by
      unfold releaseAllRule
      simp only [r]
      rw [← held]
      rfl
    obtain ⟨e, answered, later⟩ := panelRequest_answered (f := releaseAllRule) hr hs rule (State.walk_moves _ p _ 0)
    exact ⟨_, e, answered, later.changesOnly⟩
  · let x := w.examine p j
    have rule : releaseOneRule h.jobTag p k w =
        { state := x.state, result := .ok, target := x.target.filter (fun q => q ≠ p), entries := [x.entry] } := by
      unfold releaseOneRule
      rw [State.heldJob_some ((jobs _).trans job) account state]
      have redirect (x : Option Nat) : firstRedirect p [x] = x.filter (fun q => q ≠ p) := by
        cases x with
        | none => rfl
        | some q => by_cases e : q = p <;> simp [firstRedirect, Option.filter, e]
      simp only [redirect, x]
    obtain ⟨e, answered, later⟩ := panelRequest_answered (f := releaseOneRule h.jobTag) hr hs rule (w.examine_moves p j)
    exact ⟨_, e, answered, later.changesOnly⟩
  · have noJob : w.heldJob k h.jobTag = Option.none := State.heldJob_none fun j hj => none j (by rw [← jobs]; exact hj)
    simp only [List.mem_cons, List.not_mem_nil, or_false] at hc
    rcases hc with rfl | rfl
    · have rule : releaseOneRule h.jobTag p k w = { state := w, result := .noSuchJob, target := Option.none, entries := [] } := by
        unfold releaseOneRule
        rw [noJob]
      obtain ⟨e, answered, later⟩ := panelRequest_answered (f := releaseOneRule h.jobTag) hr hs rule (Moves.refl _) (l := [])
      exact ⟨_, e, answered, later.changesOnly⟩
    · have rule : deleteOneRule h.jobTag k w = { state := w, result := .noSuchJob, target := Option.none, entries := [] } := by
        unfold deleteOneRule
        rw [noJob]
      obtain ⟨e, answered, later⟩ := panelRequest_answered (f := fun _ k t => deleteOneRule h.jobTag k t) hr hs rule (Moves.refl _)
        (l := [])
      exact ⟨_, e, answered, later.changesOnly⟩

end Sys2Proof.Machine

/-! PROOFS. What a message passes before its own block acts on it: job and printer messages (R121, R160, R182, R183, R185), and a
RELEASE_ASK before its holder is authenticated (R62, R64, R161). -/

namespace Sys2Proof.Machine

set_option Elab.async false

variable {s t u v : State}

theorem noOperand_isSome (fit : Bool) : (noOperand fit).isSome = fit := by cases fit <;> rfl

/-! ### Job messages (R182, R183, R185) -/

/-- Each job message passes the gates of job messages. -/
theorem exec_jobMessage {c : Instr} {h : Hdr} {fit : Bool} (hc : jobMessageOf c = some (h, fit)) :
    ∃ (α : Type) (b : Option α) (act : α → State → State), (∀ s, exec c s = jobMessage h b act s) ∧ b.isSome = fit := by
  cases c <;> simp only [jobMessageOf, Option.some.injEq, Prod.mk.injEq, reduceCtorEq] at hc
  case jobOpen h b => obtain ⟨rfl, rfl⟩ := hc; exact ⟨_, b, openJob h, fun _ => rfl, rfl⟩
  case jobData h b => obtain ⟨rfl, rfl⟩ := hc; exact ⟨_, b, takeData h, fun _ => rfl, rfl⟩
  case jobClose h b => obtain ⟨rfl, rfl⟩ := hc; exact ⟨_, b, closeJob h, fun _ => rfl, rfl⟩
  case jobCancel h f =>
    obtain ⟨rfl, rfl⟩ := hc
    exact ⟨_, noOperand f, fun _ => cancelJob h, fun _ => rfl, noOperand_isSome f⟩

theorem jobMessage_discarded {α : Type} {h : Hdr} {b : Option α} {act : α → State → State} (up : s.phase = .up)
    (hd : h.port = .fleet ∨ 32 ≤ s.jobs.outgoing.length) : jobMessage h b act s = .next s.finish := by
  have discard : (decide (h.port = .fleet) || decide (Config.outgoingBusy ≤ s.jobs.outgoing.length)) = true := by
    rcases hd with hp | ho
    · simp [hp]
    · have : Config.outgoingBusy ≤ s.jobs.outgoing.length := ho
      simp [this]
  rw [jobMessage, State.whenUp_up _ up]
  rw [if_pos discard]

theorem jobMessage_unfit {α : Type} {h : Hdr} {b : Option α} {act : α → State → State} (up : s.phase = .up)
    (port : h.port = .office) (room : s.jobs.outgoing.length < 32) (unfit : b.isSome = false) :
    jobMessage h b act s = .next (s.jobReply h h.jobTag .badLength 0).finish := by
  have take : ¬Config.outgoingBusy ≤ s.jobs.outgoing.length := Nat.not_le.2 room
  obtain rfl := Option.not_isSome_iff_eq_none.1 (Bool.eq_false_iff.1 unfit)
  simp [jobMessage, State.whenUp_up _ up, port, take]

/-! ### Printer messages (R121, R160, R182, R183) -/

/-- Each printer message is taken as one of the entry that its source names. -/
theorem exec_printerMessage {c : Instr} {h : Hdr} (hc : printerMessageOf c = some h) :
    ∃ act : Nat → State → State, ∀ s, exec c s = printerMessage h act s := by
  cases c <;> simp only [printerMessageOf, Option.some.injEq, reduceCtorEq] at hc <;> subst hc <;> exact ⟨_, fun _ => rfl⟩

theorem printerMessage_stray {h : Hdr} {act : Nat → State → State} (up : s.phase = .up)
    (stray : h.port = .office ∨ s.printerOf h.src = none) : printerMessage h act s = .next s.stray.finish := by
  rw [printerMessage, State.whenUp_up _ up]
  rcases stray with hp | hn
  · simp only [hp, if_true]
  · simp only [hn]
    split <;> rfl

theorem printerMessage_taken {h : Hdr} {p : Nat} {act : Nat → State → State} (up : s.phase = .up) (port : h.port = .fleet)
    (station : s.printerOf h.src = some p) : printerMessage h act s = .next (act p s).finish := by
  rw [printerMessage, State.whenUp_up _ up]
  simp [port, station]

/-- R160, R183: the reports of printers, and a FAULT that does not fit, are discarded asleep. -/
theorem deliveryMessage_asleep {α : Type} {h : Hdr} {p : Nat} {b : Option α} {act : α → Nat → State → State}
    (up : s.phase = .up) (port : h.port = .fleet) (station : s.printerOf h.src = some p) (asleep : s.asleep = true) :
    deliveryMessage h b act s = .next s.finish := by
  rw [deliveryMessage, printerMessage_taken up port station, asleep]
  rfl

/-- R183: awake, a body that does not fit its kind is a frame for presence alone. -/
theorem deliveryMessage_unfit {α : Type} {h : Hdr} {p : Nat} {act : α → Nat → State → State}
    (up : s.phase = .up) (port : h.port = .fleet) (station : s.printerOf h.src = some p) (awake : s.asleep = false) :
    deliveryMessage h none act s = .next (s.frameFrom p).finish := by
  rw [deliveryMessage, printerMessage_taken up port station, awake]
  rfl

/-- R160, R183: a FAULT that does not fit. -/
theorem fault_unfit {h : Hdr} {p : Nat} (up : s.phase = .up) (port : h.port = .fleet) (station : s.printerOf h.src = some p) :
    exec (.fault h none) s = .next (if s.asleep then s else s.frameFrom p).finish := by
  show execFault h none s = _
  rw [execFault, printerMessage_taken up port station]

/-- R182: the configured entry that holds a station. -/
theorem State.printerOf_iff (h : s.TablesCanonical) (station : Nat) :
    (∀ p, s.printerOf station = some p → (s.printer p).service ≠ .unused ∧ (s.printer p).cfg.station = some station) ∧
    (s.printerOf station = none → ∀ p, (s.printer p).service = .unused ∨ (s.printer p).cfg.station ≠ some station) := by
  have rising := (Tbl.wf_iff.1 h.printers).1
  refine ⟨fun p hp => ?_, fun none p => ?_⟩
  · have found := ((Tbl.find_iff (d := printerFactory)
      (f := fun _ (e : Printer) => e.service ≠ .unused && e.cfg.station == some station) rising (fun _ => rfl) p).1 hp).1
    simpa [State.printer] using found
  · have all := (Tbl.find_none_iff (d := printerFactory)
      (f := fun _ (e : Printer) => e.service ≠ .unused && e.cfg.station == some station) rising (fun _ => rfl)).1 none p
    simp only [Bool.and_eq_false_iff, decide_eq_false_iff_not, not_not, beq_eq_false_iff_ne, ne_eq] at all
    exact all

/-- Settles O31: the gates of job messages and of printer messages. -/
theorem messageGates : Obligations.MessageGates := by
  refine ⟨fun c h fit s hc up => ?_, fun c h s hc up stray => ?_, fun h p s up port station => ⟨fun asleep c hc => ?_,
    fun awake hs c hc => ?_⟩, fun s station hw => State.printerOf_iff hw station⟩
  · obtain ⟨α, b, act, e, isFit⟩ := exec_jobMessage hc
    refine ⟨fun hd => ⟨_, (e s).trans (jobMessage_discarded up hd), State.finish_changes _⟩, fun port room unfit => ?_⟩
    refine ⟨_, (e s).trans (jobMessage_unfit up port room (isFit.trans unfit)), (s.jobReply_sent h _ _ _).finish, ?_⟩
    exact ((s.jobReply_moves h h.jobTag .badLength 0 (by omega)).mono.next (State.finish_moves _)).changesOnly
  · obtain ⟨act, e⟩ := exec_printerMessage hc
    refine ⟨_, (e s).trans (printerMessage_stray up stray), by rw [State.finish_console]; rfl, ?_⟩
    exact (s.stray_moves.mono.next (State.finish_moves _)).changesOnly
  · refine ⟨s.finish, ?_, State.finish_changes _⟩
    rcases hc with ⟨b, rfl⟩ | ⟨b, rfl⟩ | ⟨b, rfl⟩ | rfl
    · exact deliveryMessage_asleep (act := grantRule h) up port station asleep
    · exact deliveryMessage_asleep (act := pageReportRule h) up port station asleep
    · exact deliveryMessage_asleep (act := statusRule) up port station asleep
    · rw [fault_unfit up port station, if_pos asleep]
  · refine ⟨s.frameFrom p, (s.frameFrom p).finish, State.frameFrom_heard hs awake, ?_, State.finish_changes _⟩
    simp only [List.mem_cons, List.not_mem_nil, or_false] at hc
    rcases hc with rfl | rfl | rfl | rfl
    · exact deliveryMessage_unfit (act := grantRule h) up port station awake
    · exact deliveryMessage_unfit (act := pageReportRule h) up port station awake
    · exact deliveryMessage_unfit (act := statusRule) up port station awake
    · rw [fault_unfit up port station, if_neg (by rw [awake]; decide)]

end Sys2Proof.Machine

/-! PROOFS. What a RELEASE_ASK passes before its holder is authenticated, and a JOB_OPEN asleep (R62, R64, R121, R161, R183). -/

namespace Sys2Proof.Machine

set_option Elab.async false

variable {s t u v : State}

/-- R121: the presence timer of an entry whose frame is taken, awake or asleep. -/
def PrinterOf.framed (e : Printer) (asleep : Bool) : Printer :=
  if e.cfg.mode = .silent then e
  else { e with presence := if asleep then .suspended e.cfg.presenceInterval else .running e.cfg.presenceInterval }

/-- R121: the frame of a Present printer, awake or asleep, touches its entry alone. -/
theorem State.frameFrom_framed {p : Nat} (hs : Present s p) :
    (s.frameFrom p).printer p = (s.printer p).framed s.asleep ∧ OtherPrinters p s (s.frameFrom p) ∧
      ChangesOnly [Piece.printers] s (s.frameFrom p) := by
  have present : s.becomePresent p = s := by
    unfold State.becomePresent
    rw [show (s.printer p).standing.unreachable = false from hs]
    rfl
  unfold State.frameFrom PrinterOf.framed
  rw [present]
  dsimp only
  split
  · exact ⟨rfl, fun i _ => rfl, ChangesOnly.refl _ _⟩
  · refine ⟨?_, fun i hi => by rw [State.printer_updPrinter, if_neg hi], (State.updPrinter_moves s p _).changesOnly⟩
    rw [State.printer_updPrinter, if_pos rfl]
    rfl

/-- Each RELEASE_ASK passes the gates of panel requests. -/
theorem exec_panelRequest {c : Instr} {h : Hdr} {b : Option AskBody} (hc : panelOf c = some (h, b)) :
    ∃ act : Option (Nat → Nat → State → PanelAnswer), ∀ s, exec c s = panelRequest h b act s := by
  cases c <;> simp only [panelOf, Option.some.injEq, Prod.mk.injEq, reduceCtorEq] at hc
  case list g x => obtain ⟨rfl, rfl⟩ := hc; exact ⟨some listRule, fun _ => rfl⟩
  case releaseAll g x => obtain ⟨rfl, rfl⟩ := hc; exact ⟨some releaseAllRule, fun _ => rfl⟩
  case releaseOne g x => obtain ⟨rfl, rfl⟩ := hc; exact ⟨some (releaseOneRule g.jobTag), fun _ => rfl⟩
  case deleteOne g x => obtain ⟨rfl, rfl⟩ := hc; exact ⟨some fun _ k t => deleteOneRule g.jobTag k t, fun _ => rfl⟩
  case unknownReleaseRequest g x => obtain ⟨rfl, rfl⟩ := hc; exact ⟨none, fun _ => rfl⟩

/-- R64: the answer is placed, or waits. -/
theorem State.answerPanel_placed (v : State) (h : Hdr) (g : Nat) (r : Result) (x : Option Nat) (es : List AnswerEntry) :
    let m := v.form h.src g h.reqTag (.releaseAnswer r x es)
    if v.fport.own.length < 32 then
      (v.answerPanel h g r x es).fport.own = v.fport.own ++ [m] ∧ (v.answerPanel h g r x es).answer = v.answer
    else (v.answerPanel h g r x es).fport.own = v.fport.own ∧ (v.answerPanel h g r x es).answer = some m := by
  intro m
  have room : v.fport.room = decide (v.fport.own.length < 32) := rfl
  unfold State.answerPanel State.sendAnswer
  rw [room]
  by_cases c : v.fport.own.length < 32
  · rw [if_pos c, decide_eq_true c]; exact ⟨rfl, rfl⟩
  · rw [if_neg c, decide_eq_false c]; exact ⟨rfl, rfl⟩

/-- R161: a wake source in Standby begins Waking. -/
theorem State.wake_core (s : State) :
    s.wake.clock.core = { s.clock.core with mode := if s.clock.mode = .standby then .waking else s.clock.mode } := by
  unfold State.wake
  split <;> rfl

/-- R62, R64, R161, R183: what becomes of a RELEASE_ASK before its holder is authenticated. -/
def State.askGate (s : State) (h : Hdr) : Option AskBody → State
  | none => if s.answer.isSome then s else s.answerPanel h h.jobTag .badLength none []
  | some _ =>
    if s.asleep then (if s.answer.isSome then s.wake else s.wake.answerPanel h 0 .waking none []) else s

theorem State.wake_answer (s : State) : s.wake.answer = s.answer := s.wake_moves.changesOnly .answer (by decide)

theorem panelRequest_gate {h : Hdr} {b : Option AskBody} {p : Nat} {act : Option (Nat → Nat → State → PanelAnswer)}
    (up : s.phase = .up) (port : h.port = .fleet) (station : s.printerOf h.src = some p) (hs : Present s p)
    (gate : b = none ∨ s.asleep = true ∨ s.answer ≠ none) :
    panelRequest h b act s = .next ((s.frameFrom p).askGate h b).finish := by
  obtain ⟨-, -, frame⟩ := State.frameFrom_framed hs
  have asleep : (s.frameFrom p).asleep = s.asleep := by
    have core : (s.frameFrom p).clock.core = s.clock.core := frame .clock (by decide)
    have mode : (s.frameFrom p).clock.mode = s.clock.mode := (congrArg Clock.mode core :)
    unfold State.asleep
    rw [mode]
  have answer : (s.frameFrom p).answer = s.answer := frame .answer (by decide)
  rw [panelRequest, printerMessage_taken up port station]
  unfold State.askGate
  cases b with
  | none => rfl
  | some ask =>
    by_cases sleeps : s.asleep = true
    · simp only [State.wake_answer, asleep, sleeps, if_true]
    · have waits : (s.frameFrom p).answer.isSome = true := by
        rw [answer, Option.isSome_iff_ne_none]
        exact (gate.resolve_left nofun).resolve_left sleeps
      simp only [asleep, sleeps, waits, if_true, Bool.false_eq_true, if_false]

theorem State.askGate_moves (s : State) (h : Hdr) (b : Option AskBody) :
    Moves [.fleetOwn, .answer, .clock] s (s.askGate h b) := by
  unfold State.askGate
  cases b with
  | none =>
    dsimp only
    split
    · exact Moves.refl _
    · exact (State.answerPanel_moves ..).mono
  | some ask =>
    dsimp only
    split
    · split
      · exact (State.wake_moves _).mono
      · exact (State.wake_moves _).mono.next (State.answerPanel_moves ..)
    · exact Moves.refl _

/-- R161: the clock at the gates. -/
theorem State.askGate_core (s : State) (h : Hdr) (b : Option AskBody) : (s.askGate h b).clock.core =
    { s.clock.core with mode := if b ≠ none ∧ s.clock.mode = .standby then .waking else s.clock.mode } := by
  unfold State.askGate
  cases b with
  | none =>
    dsimp only
    have same : (if s.answer.isSome = true then s else s.answerPanel h h.jobTag .badLength none []).clock.core = s.clock.core := by
      split
      · rfl
      · exact (State.answerPanel_moves ..).changesOnly .clock (by decide)
    rw [same, if_neg fun c => c.1 rfl]
    rfl
  | some ask =>
    dsimp only
    split
    next sleeps =>
      have same : (if s.answer.isSome = true then s.wake else s.wake.answerPanel h 0 .waking none []).clock.core =
          s.wake.clock.core := by
        split
        · rfl
        · exact (State.answerPanel_moves ..).changesOnly .clock (by decide)
      rw [same, State.wake_core]
      simp
    next awake =>
      rw [if_neg fun c => (State.mode_of_awake (Bool.eq_false_iff.2 awake)).1 c.2]
      rfl

/-- R62 to R64: the answers at the gates. -/
theorem State.askGate_answer (s : State) (h : Hdr) (b : Option AskBody) :
    (s.answer ≠ none → (s.askGate h b).fport = s.fport ∧ (s.askGate h b).answer = s.answer) ∧
    (s.answer = none → b = none → s.askGate h b = s.answerPanel h h.jobTag .badLength none []) ∧
    (s.answer = none → b ≠ none → s.asleep = true → s.askGate h b = s.wake.answerPanel h 0 .waking none []) := by
  unfold State.askGate
  refine ⟨fun ha => ?_, fun ha hb => ?_, fun ha hb hs => ?_⟩
  · have waits : s.answer.isSome = true := Option.isSome_iff_ne_none.2 ha
    have woken : s.wake.fport = s.fport ∧ s.wake.answer = s.answer :=
      ⟨s.wake_moves.changesOnly.fport, s.wake_answer⟩
    cases b with
    | none => rw [waits]; exact ⟨rfl, rfl⟩
    | some ask =>
      dsimp only
      rw [waits]
      split
      · exact woken
      · exact ⟨rfl, rfl⟩
  · subst hb
    rw [ha]
    rfl
  · obtain ⟨ask, rfl⟩ := Option.ne_none_iff_exists'.1 hb
    rw [ha, hs]
    rfl

/-- R62, R64, R161, R183: a RELEASE_ASK of a Present printer at its gates. -/
theorem askGate_done {c : Instr} {h : Hdr} {b : Option AskBody} {p : Nat} (hc : panelOf c = some (h, b)) (up : s.phase = .up)
    (port : h.port = .fleet) (station : s.printerOf h.src = some p) (hs : Present s p)
    (gate : b = none ∨ s.asleep = true ∨ s.answer ≠ none) :
    ∃ t, exec c s = .next t ∧ t.printer p = (s.printer p).framed s.asleep ∧ OtherPrinters p s t ∧
      t.clock.core = { s.clock.core with mode := if b ≠ none ∧ s.clock.mode = .standby then .waking else s.clock.mode } ∧
      ChangesOnly ([Piece.printers, .fleetOwn, .answer, .clock] ++ endOfStep) s t ∧
      (s.answer ≠ none → t.fport = s.fport ∧ t.answer = s.answer) ∧
      (s.answer = none → b = none →
        let m : OwnMsg := { etherType := s.settings.frameType, src := s.settings.ownStation, dst := h.src, jobTag := h.jobTag
                            reqTag := h.reqTag, body := .releaseAnswer .badLength none [] }
        if s.fport.own.length < 32 then t.fport.own = s.fport.own ++ [m] ∧ t.answer = none
        else t.fport.own = s.fport.own ∧ t.answer = some m) ∧
      (s.answer = none → b ≠ none → s.asleep = true → PanelAnswered s t h .waking none []) := by
  obtain ⟨act, e⟩ := exec_panelRequest hc
  let f := s.frameFrom p
  obtain ⟨entry, others, frame⟩ : f.printer p = _ ∧ OtherPrinters p s f ∧ ChangesOnly [Piece.printers] s f :=
    State.frameFrom_framed hs
  have core : f.clock.core = s.clock.core := frame .clock (by decide)
  have mode : f.clock.mode = s.clock.mode := (congrArg Clock.mode core :)
  have asleep : f.asleep = s.asleep := by
    unfold State.asleep
    rw [mode]
  have answer : f.answer = s.answer := frame .answer (by decide)
  have settings : f.settings = s.settings := frame .settings (by decide)
  have moved := (f.askGate_moves h b).changesOnly
  obtain ⟨waits, unfit, wakes⟩ := f.askGate_answer h b
  have last : Moves endOfStep (f.askGate h b) (f.askGate h b).finish := State.finish_moves _
  have after := last.changesOnly
  refine ⟨(f.askGate h b).finish, (e s).trans (panelRequest_gate up port station hs gate), ?_, fun i hi => ?_, ?_, ?_,
    fun ha => ?_, fun ha hb => ?_, fun ha hb hz => ?_⟩
  · rw [State.printer_congr (after .printers (by decide)), State.printer_congr (moved .printers (by decide)), entry]
  · rw [State.printer_congr (after .printers (by decide)), State.printer_congr (moved .printers (by decide)), others i hi]
  · rw [after .clock (by decide), f.askGate_core h b, core, mode]
  · exact ((frame.mono (by decide)).trans (moved.mono (by decide))).trans (after.mono (by decide))
  · obtain ⟨port, kept⟩ := waits (by rw [answer]; exact ha)
    rw [State.finish_fport, State.finish_answer]
    exact ⟨port.trans frame.fport, kept.trans answer⟩
  · rw [State.finish_fport, State.finish_answer, unfit (answer.trans ha) hb]
    have placed := f.answerPanel_placed h h.jobTag .badLength none []
    dsimp only at placed ⊢
    rw [frame.fport, answer, ha, State.form, settings] at placed
    exact placed
  · rw [wakes (answer.trans ha) hb (asleep.trans hz)]
    have woken := f.wake_moves.changesOnly
    exact State.panelAnswered_answerPanel ((woken .settings (by decide)).trans settings) (x := [])
      (by rw [List.append_nil, woken .fleetOwn (by decide), frame .fleetOwn (by decide)])

/-- R62 step 2: a request that is none of the four. -/
theorem unknownRelease_done {h : Hdr} {ask : AskBody} {p : Nat} (hr : PrinterReady h p s) (hs : Present s p)
    (ha : s.answer = none) :
    ∃ t, exec (.unknownReleaseRequest h (some ask)) s = .next t ∧ PanelAnswered s t h .unknownRequest none [] ∧
      t.printer p = (s.printer p).heard ∧ OtherPrinters p s t ∧
      ChangesOnly ([Piece.printers, .fleetOwn, .answer] ++ endOfStep) s t := by
  have heard := State.frameFrom_heard hs hr.awake
  obtain ⟨q, shape, -⟩ := State.frameFrom_present hs hr.awake
  have awake : (s.frameFrom p).asleep = false := by rw [shape]; exact hr.awake
  have none : (s.frameFrom p).answer.isSome = false := by rw [shape]; simp [ha]
  have e : exec (.unknownReleaseRequest h (some ask)) s =
      .next ((s.frameFrom p).answerPanel h 0 .unknownRequest Option.none []).finish := by
    show execUnknownReleaseRequest h (some ask) s = _
    rw [execUnknownReleaseRequest, panelRequest, printerMessage_ready hr]
    simp only [awake, none, Bool.false_eq_true, if_false]
  have after : ChangesOnly ([Piece.fleetOwn, .answer] ++ endOfStep) (s.frameFrom p)
      ((s.frameFrom p).answerPanel h 0 .unknownRequest Option.none []).finish :=
    ((State.answerPanel_moves ..).mono.next (State.finish_moves _)).changesOnly
  refine ⟨_, e, State.answerPanel_answered (heard.rest .settings (by decide)) (heard.rest .fleetOwn (by decide)), ?_,
    fun i hi => ?_, (heard.rest.mono (by decide)).trans (after.mono (by decide))⟩
  · rw [State.printer_congr (after .printers (by decide)), heard.printer]
  · rw [State.printer_congr (after .printers (by decide)), heard.printers i hi]

/-- R161: a JOB_OPEN asleep is answered, and wakes the part. -/
theorem jobOpen_asleep {h : Hdr} {b : JobOpenBody} (hr : JobReady h s) (asleep : s.asleep = true) :
    ∃ t, exec (.jobOpen h (some b)) s = .next t ∧ JobSent s t [jobReplyTo s h 0 .waking 0] ∧
      t.clock.core = { s.clock.core with mode := .waking } ∧ ChangesOnly ([Piece.clock] ++ jobTraffic ++ endOfStep) s t := by
  have woken := s.wake_moves.changesOnly
  have room : s.wake.jobs.outgoing.length < 4096 := by
    rw [woken .outgoing (by decide)]
    exact hr.room.trans (by decide)
  have replies := s.wake.jobReply_moves h 0 .waking 0 room
  have after := (replies.mono.next (State.finish_moves _) (l := jobTraffic ++ endOfStep)).changesOnly
  refine ⟨(s.wake.jobReply h 0 .waking 0).finish, ?_, ?_, ?_, (woken.mono (by decide)).trans (after.mono (by decide))⟩
  · have rule : openJob h b s = s.wake.jobReply h 0 .waking 0 := if_pos asleep
    rw [← rule]
    exact jobMessage_ready (act := openJob h) hr
  · have sent := (s.wake.jobReply_sent h 0 .waking 0).finish
    rw [jobReplyTo_congr (woken .settings (by decide))] at sent
    exact sent.after (woken .officeOwn (by decide)) (woken .outgoing (by decide))
  · rw [after .clock (by decide), State.wake_core]
    have mode : s.clock.mode = .standby ∨ s.clock.mode = .waking := by
      unfold State.asleep at asleep
      simpa using asleep
    rcases mode with m | m <;> simp [m]

/-- Settles O30: the gates of panel requests, a request of no kind, and a JOB_OPEN asleep. -/
theorem requestGates : Obligations.RequestGates := by
  refine ⟨fun c h b p s hc up port station hs => ?_, fun h ask p s hr hs ha => unknownRelease_done hr hs ha,
    fun h b s hr asleep => jobOpen_asleep hr asleep⟩
  by_cases gate : b = none ∨ s.asleep = true ∨ s.answer ≠ none
  · obtain ⟨t, e, entry, others, core, frame, waits, unfit, wakes⟩ := askGate_done hc up port station hs gate
    exact ⟨t, e, fun _ => ⟨entry, others, core, frame⟩, waits, unfit, wakes⟩
  · obtain ⟨act, e⟩ := exec_panelRequest hc
    refine ⟨_, (e s).trans (printerMessage_taken up port station), fun c => absurd c gate, fun ha => absurd (.inr (.inr ha)) gate,
      fun _ hb => absurd (.inl hb) gate, fun _ _ hz => absurd (.inr (.inl hz)) gate⟩

end Sys2Proof.Machine

/-! PROOFS. What a MGMT_REQUEST passes before its own rule, and the idle timer that it starts again (R158, R161, R172, R174,
R175, R182, R183). -/

namespace Sys2Proof.Machine

set_option Elab.async false

variable {s t u v : State}

/-! ### What a request does to the idle timer before the step ends (R158) -/

/-- The idle timer is as it was, or the part has left Running. -/
def IdleKept (s v : State) : Prop := v.clock.idle = s.clock.idle ∨ v.clock.mode ≠ .running

theorem Moves.keepsIdle {l : List Piece} (h : Moves l s v) (hl : Piece.idleTimer ∉ l := by decide) : IdleKept s v :=
  .inl (h.changesOnly .idleTimer hl)

theorem State.takeHour_idle (s : State) : s.takeHour.clock.idle = s.clock.idle := by
  unfold State.takeHour
  split
  · exact (State.hourDecay_moves (s := { s with clock := { s.clock with hourRaised := false } })).changesOnly .idleTimer
      (by decide)
  · rfl

theorem State.dayRoll_idle (s : State) : s.dayRoll.clock.idle = s.clock.idle :=
  s.dayRoll_moves.changesOnly .idleTimer (by decide)

theorem State.periodRoll_idle (s : State) (d : Nat) (b : Bool) : (s.periodRoll d b).clock.idle = s.clock.idle :=
  (s.periodRoll_moves d b).changesOnly .idleTimer (by decide)

theorem State.midnightRolls_idle (s : State) (d : Nat) : (s.midnightRolls d).clock.idle = s.clock.idle := by
  unfold State.midnightRolls
  dsimp only
  split
  · rw [State.periodRoll_idle, State.dayRoll_idle]
  · exact s.dayRoll_idle

theorem State.midnight_idle (s : State) : s.midnight.clock.idle = s.clock.idle := by
  unfold State.midnight
  split
  · rfl
  · split
    · rfl
    · dsimp only
      split
      · rfl
      · exact State.midnightRolls_idle _ _

theorem State.takeRaised_idle (s : State) : s.takeRaised.clock.idle = s.clock.idle := by
  unfold State.takeRaised State.takeMidnight
  split
  · rw [State.midnight_idle]
    exact s.takeHour_idle
  · exact s.takeHour_idle

theorem State.clockRolls_idle (s : State) (before : Option Calendar) (d : Nat) :
    (s.clockRolls before d).clock.idle = s.clock.idle := by
  have dayRolled : ∀ later : Bool, (if later then s.dayRoll else s).clock.idle = s.clock.idle := by
    intro later
    cases later
    · rfl
    · exact s.dayRoll_idle
  have rolled : ∀ (early : Bool) (t : State), t.clock.idle = s.clock.idle →
      (if early then t.periodRoll t.nextRollCaught true else t).clock.idle = s.clock.idle := by
    intro early t ht
    cases early
    · exact ht
    · exact (t.periodRoll_idle t.nextRollCaught true).trans ht
  exact rolled _ _ (dayRolled _)

theorem setClockRule_idle (b : Nat × Nat) (s : State) : IdleKept s (setClockRule b s).state := by
  unfold setClockRule
  split
  · exact .inl rfl
  · exact .inl ((State.clockRolls_idle _ _ _).trans s.takeRaised_idle)

theorem State.enterSettling_leaves (s : State) : s.enterSettling.clock.mode ≠ .running := by
  unfold State.enterSettling
  dsimp only
  split
  · show Mode.standby ≠ .running
    decide
  · have core := (State.checkpointOccasion_moves
      { s with clock := { s.clock with mode := .settling, idle := .stopped } }).changesOnly .clock (by decide)
    exact fun h => absurd ((congrArg Clock.mode core).symm.trans h) (show Mode.settling ≠ .running by decide)

theorem standbyRule_idle (s : State) : IdleKept s (standbyRule s).state := by
  unfold standbyRule
  split
  · exact .inl rfl
  · split
    · exact .inr (State.enterSettling_leaves _)
    · exact .inl rfl

/-- R158: no request touches the idle timer by its own rule, but one that leaves Running. -/
theorem exec_management {c : Instr} {h : Hdr} {fit : Bool} (hc : managementOf c = some (h, fit)) :
    ∃ (α : Type) (b : Option α) (act : α → State → Reply), (∀ s, exec c s = mgmtRequest h b act s) ∧ b.isSome = fit ∧
      ∀ x s, IdleKept s (act x s).state := by
  cases c <;> simp only [managementOf, Option.some.injEq, Prod.mk.injEq, reduceCtorEq] at hc <;> obtain ⟨rfl, rfl⟩ := hc
  case tableRead g b =>
    refine ⟨_, b, readRule, fun _ => rfl, rfl, fun x s => .inl ?_⟩
    unfold readRule
    repeat' split
    all_goals rfl
  case settingsWrite g b =>
    exact ⟨_, b, settingsRule, fun _ => rfl, rfl, fun x s => (settingsRule_moves s x).keepsIdle⟩
  case classifierWrite g b =>
    exact ⟨_, b, classifierRule, fun _ => rfl, rfl, fun x s => (classifierRule_moves s x).keepsIdle⟩
  case tariffWrite g b => exact ⟨_, b, tariffRule, fun _ => rfl, rfl, fun x s => (tariffRule_moves s x).keepsIdle⟩
  case accountWrite g b => exact ⟨_, b, accountRule, fun _ => rfl, rfl, fun x s => (accountRule_moves s x).keepsIdle⟩
  case printerWrite g b => exact ⟨_, b, printerRule, fun _ => rfl, rfl, fun x s => (printerRule_moves s x).keepsIdle⟩
  case tableWrite g b => exact ⟨_, b, closedRule, fun _ => rfl, rfl, fun x s => .inl rfl⟩
  case query g b => exact ⟨_, b, queryRule, fun _ => rfl, rfl, fun x s => (queryRule_moves s x).keepsIdle⟩
  case rollPeriod g fit =>
    exact ⟨_, noOperand fit, fun _ => rollRule true, fun _ => rfl, noOperand_isSome fit, fun _ s =>
      (rollRule_moves s true).keepsIdle⟩
  case forceRoll g fit =>
    exact ⟨_, noOperand fit, fun _ => rollRule false, fun _ => rfl, noOperand_isSome fit, fun _ s =>
      (rollRule_moves s false).keepsIdle⟩
  case setClock g b => exact ⟨_, b, setClockRule, fun _ => rfl, rfl, setClockRule_idle⟩
  case standby g fit =>
    exact ⟨_, noOperand fit, fun _ => standbyRule, fun _ => rfl, noOperand_isSome fit, fun _ => standbyRule_idle⟩
  case restart g fit =>
    exact ⟨_, noOperand fit, fun _ => restartRule, fun _ => rfl, noOperand_isSome fit, fun _ s => (restartRule_moves s).keepsIdle⟩
  case checkpoint g fit =>
    exact ⟨_, noOperand fit, fun _ => checkpointRule, fun _ => rfl, noOperand_isSome fit, fun _ s =>
      (checkpointRule_moves s).keepsIdle⟩
  case park g b =>
    exact ⟨_, b, onPrinter parkRule, fun _ => rfl, rfl, fun x s => (onPrinter_moves (parkRule_moves s x)).keepsIdle⟩
  case unpark g b =>
    exact ⟨_, b, onPrinter unparkRule, fun _ => rfl, rfl, fun x s => (onPrinter_moves (unparkRule_moves s x)).keepsIdle⟩
  case parkNow g b =>
    exact ⟨_, b, onPrinter parkNowRule, fun _ => rfl, rfl, fun x s => (onPrinter_moves (parkNowRule_moves s x)).keepsIdle⟩
  case withdraw g b =>
    exact ⟨_, b, onPrinter withdrawRule, fun _ => rfl, rfl, fun x s => (onPrinter_moves (withdrawRule_moves s x)).keepsIdle⟩
  case reinstate g b =>
    exact ⟨_, b, onPrinter reinstateRule, fun _ => rfl, rfl, fun x s => (onPrinter_moves (reinstateRule_moves s x)).keepsIdle⟩
  case ackCallout g b =>
    exact ⟨_, b, ackRule, fun _ => rfl, rfl, fun x s => (ackRule_moves s x).keepsIdle⟩
  case closeCallout g b =>
    exact ⟨_, b, closeCalloutRule, fun _ => rfl, rfl, fun x s => (closeCalloutRule_moves s x).keepsIdle⟩
  case confirmOrder g b =>
    exact ⟨_, b, onColorant confirmRule, fun _ => rfl, rfl, fun x s =>
      (onColorant_moves (confirmRule_moves s x.1 x.2)).keepsIdle⟩
  case cancelOrder g b =>
    exact ⟨_, b, onColorant cancelRule, fun _ => rfl, rfl, fun x s =>
      (onColorant_moves (cancelRule_moves s x.1 x.2)).keepsIdle⟩
  case cartridgeReplaced g b =>
    exact ⟨_, b, onColorant cartridgeRule, fun _ => rfl, rfl, fun x s =>
      (onColorant_moves (cartridgeRule_moves s x.1 x.2)).keepsIdle⟩
  case adjustAccount g b => exact ⟨_, b, adjustRule, fun _ => rfl, rfl, fun x s => (adjustRule_moves s x).keepsIdle⟩
  case unlockAccount g b =>
    exact ⟨_, b, onAccount unlockRule, fun _ => rfl, rfl, fun x s => (onAccount_moves (unlockRule_moves s x)).keepsIdle⟩
  case suspend g b =>
    exact ⟨_, b, onAccount suspendRule, fun _ => rfl, rfl, fun x s => (onAccount_moves (suspendRule_moves s x)).keepsIdle⟩
  case resume g b =>
    exact ⟨_, b, onAccount resumeRule, fun _ => rfl, rfl, fun x s => (onAccount_moves (resumeRule_moves s x)).keepsIdle⟩
  case purgeJob g b => exact ⟨_, b, purgeRule, fun _ => rfl, rfl, fun x s => (purgeRule_moves s x).keepsIdle⟩
  case unknownMgmtRequest g fit =>
    exact ⟨_, noOperand fit, fun _ s => Reply.refuse s .unknownRequest, fun _ => rfl, noOperand_isSome fit, fun _ s => .inl rfl⟩

/-! ### The steps of a request (R174, R175) -/

theorem State.reply_clock (s : State) (h : Hdr) (g : Nat) (r : Result) (b : ReplyBody) : (s.reply h g r b).clock = s.clock := by
  unfold State.reply State.sendReply
  split <;> rfl

theorem mgmtRequest_discarded {α : Type} {h : Hdr} {b : Option α} {act : α → State → Reply} (up : s.phase = .up)
    (hd : h.port = .fleet ∨ s.console.reply ≠ none) : mgmtRequest h b act s = .next s.finish := by
  have discard : (decide (h.port = .fleet) || s.console.reply.isSome) = true := by
    rcases hd with hp | hr
    · simp [hp]
    · simp [Option.isSome_iff_ne_none, hr]
  rw [mgmtRequest, State.whenUp_up _ up]
  rw [if_pos discard]

/-- R174: what a request that is not discarded comes to. -/
theorem mgmtRequest_taken {α : Type} {h : Hdr} {b : Option α} {act : α → State → Reply} (up : s.phase = .up)
    (port : h.port = .office) (idle : s.console.reply = none) :
    mgmtRequest h b act s = .next (match b with
      | none => s.restartIdle.reply h h.jobTag .badLength .none
      | some x =>
        if (s.classEntry (s.hit h.src)).rights = false then s.restartIdle.reply h 0 .notPermitted .none
        else if s.asleep = true then s.restartIdle.wake.reply h 0 .waking .none
        else if s.restartPending = true then s.restartIdle.reply h 0 .busy .none
        else (act x s.restartIdle).state.reply h 0 (act x s.restartIdle).result (act x s.restartIdle).body).finish := by
  rw [mgmtRequest, State.whenUp_up _ up]
  cases b <;> simp [port, idle]

/-- R158: the conditions under which the idle timer runs. -/
def State.Idles (s : State) : Prop :=
  s.clock.mode = .running ∧ s.restartPending = false ∧ s.settings.idleTime ≠ 0 ∧ s.idleCondition = true

theorem State.idleService_idles (s : State) : s.idleService.Idles ↔ s.Idles := by
  unfold State.idleService
  split
  · split <;> exact Iff.rfl
  · exact Iff.rfl

/-- R158: the end of a step keeps a running idle timer exactly while the part idles. -/
theorem State.finish_idle {n : Nat} (h : v.clock.mode = .running → v.clock.idle = .running n) :
    v.finish.clock.idle = if v.finish.clock.mode = .running ∧ v.finish.restartPending = false ∧
      v.finish.settings.idleTime ≠ 0 ∧ v.finish.idleCondition = true then .running n else .stopped := by
  have begun : v.beginProgram.clock = v.clock := by
    unfold State.beginProgram
    split
    · exact (State.fillQueue_eq _).elim fun _ e => (congrArg State.clock e).trans rfl
    · rfl
  have same : v.finish.Idles ↔ v.beginProgram.Idles := v.beginProgram.idleService_idles
  by_cases idles : v.beginProgram.Idles
  · refine Eq.trans ?_ (if_pos (same.2 idles)).symm
    obtain ⟨mode, steady, time, idle⟩ := idles
    rw [begun] at mode
    unfold State.finish State.idleService
    simp [begun, mode, steady, time, idle, h mode, Timer.runs]
  · refine Eq.trans ?_ (if_neg (idles ∘ same.1)).symm
    unfold State.finish State.idleService
    rw [if_neg]
    intro c
    simp at c
    exact idles ⟨c.1.1.1, c.1.1.2, c.1.2, c.2⟩

/-- R158: a request that is taken starts the running idle timer again. -/
theorem mgmtRequest_idle {α : Type} {h : Hdr} {b : Option α} {act : α → State → Reply} (up : s.phase = .up)
    (port : h.port = .office) (idle : s.console.reply = none) (mode : s.clock.mode = .running)
    (runs : s.clock.idle.runs = true) (kept : ∀ x s, IdleKept s (act x s).state) :
    ∃ t, mgmtRequest h b act s = .next t ∧
      t.clock.idle = if t.clock.mode = .running ∧ t.restartPending = false ∧ t.settings.idleTime ≠ 0 ∧ t.idleCondition = true
        then .running s.settings.idleTime else .stopped := by
  have awake : s.asleep = false := by simp [State.asleep, mode]
  have restarted : s.restartIdle.clock.idle = .running s.settings.idleTime := by
    simp [State.restartIdle, mode, runs]
  refine ⟨_, mgmtRequest_taken up port idle, State.finish_idle fun running => ?_⟩
  cases b with
  | none => exact (congrArg Clock.idle (State.reply_clock ..)).trans restarted
  | some x =>
    dsimp only at running ⊢
    rw [awake] at running ⊢
    split
    · exact (congrArg Clock.idle (State.reply_clock ..)).trans restarted
    next rights =>
      rw [if_neg rights] at running
      simp only [Bool.false_eq_true, if_false] at running ⊢
      split
      · exact (congrArg Clock.idle (State.reply_clock ..)).trans restarted
      next steady =>
        rw [if_neg steady, State.reply_clock] at running
        rw [State.reply_clock]
        rcases kept x s.restartIdle with same | left
        · exact same.trans restarted
        · exact absurd running left

/-- R174: an answer given before any rule of a request acts. -/
theorem replied_early {h : Hdr} {r : Result} (idle : s.console.reply = none) (hm : Moves [.clock, .idleTimer] s v) :
    Replied s (v.reply h 0 r .none).finish h r .none ∧ (v.reply h 0 r .none).finish.clock.core = v.clock.core ∧
      ChangesOnly ([Piece.clock] ++ replyTraffic) s (v.reply h 0 r .none).finish := by
  have frame := hm.changesOnly
  have after : ChangesOnly replyTraffic v (v.reply h 0 r .none).finish :=
    ((v.reply_moves h 0 r .none).mono.next (State.finish_moves _)).changesOnly
  refine ⟨State.replied_reply ((frame .reply (by decide)).trans idle) (x := [])
    (by rw [List.append_nil, frame .officeOwn (by decide)]), ?_, (frame.mono (by decide)).trans (after.mono (by decide))⟩
  exact after .clock (by decide)

theorem State.restartIdle_core (s : State) : s.restartIdle.clock.core = s.clock.core :=
  s.restartIdle_moves.changesOnly .clock (by decide)

/-- R174 steps 2 to 4: the first gate that refuses answers. -/
theorem mgmtRequest_gate {α : Type} {h : Hdr} {x : α} {act : α → State → Reply} {r : Result} (up : s.phase = .up)
    (port : h.port = .office) (idle : s.console.reply = none)
    (first : FirstOf [((s.classEntry (s.hit h.src)).rights = false, .notPermitted), (s.asleep = true, .waking),
      (s.restartPending = true, .busy)] r) :
    ∃ t, mgmtRequest h (some x) act s = .next t ∧ Replied s t h r .none ∧
      t.clock.core = { s.clock.core with
        mode := if r = .waking ∧ s.clock.mode = .standby then .waking else s.clock.mode } ∧
      ChangesOnly ([Piece.clock] ++ replyTraffic) s t := by
  have stays : Moves [.clock, .idleTimer] s s.restartIdle := s.restartIdle_moves.mono
  have taken := mgmtRequest_taken (b := some x) (act := act) up port idle
  dsimp only at taken
  rcases (FirstOf.cons_iff _ _ _ _).1 first with ⟨rights, rfl⟩ | ⟨rights, first⟩
  · obtain ⟨answer, core, frame⟩ := replied_early (r := .notPermitted) (h := h) idle stays
    exact ⟨_, by rw [taken, if_pos rights], answer, core.trans s.restartIdle_core, frame⟩
  rcases (FirstOf.cons_iff _ _ _ _).1 first with ⟨asleep, rfl⟩ | ⟨asleep, first⟩
  · obtain ⟨answer, core, frame⟩ := replied_early (r := .waking) (h := h) idle
      (stays.next (State.wake_moves _))
    refine ⟨_, by rw [taken, if_neg rights, if_pos asleep], answer, core.trans ?_, frame⟩
    have mode : s.restartIdle.clock.mode = s.clock.mode := (congrArg Clock.mode s.restartIdle_core :)
    rw [State.wake_core, State.restartIdle_core, mode]
    simp
  rcases (FirstOf.cons_iff _ _ _ _).1 first with ⟨busy, rfl⟩ | ⟨-, first⟩
  · obtain ⟨answer, core, frame⟩ := replied_early (r := .busy) (h := h) idle stays
    exact ⟨_, by rw [taken, if_neg rights, if_neg asleep, if_pos busy], answer, core.trans s.restartIdle_core, frame⟩
  · exact absurd first (FirstOf.nil_iff _).1

/-- R174 step 1: a request that does not fit is answered with its own job tag. -/
theorem mgmtRequest_unfit {α : Type} {h : Hdr} {act : α → State → Reply} (up : s.phase = .up)
    (port : h.port = .office) (idle : s.console.reply = none) :
    let m : OwnMsg := { etherType := s.settings.frameType, src := s.settings.ownStation, dst := h.src, jobTag := h.jobTag
                        reqTag := h.reqTag, body := .mgmtReply .badLength .none }
    ∃ t, mgmtRequest h none act s = .next t ∧
      (if s.oport.own.length < 32 then t.oport.own = s.oport.own ++ [m] ∧ t.console.reply = none
        else t.oport.own = s.oport.own ∧ t.console.reply = some m) ∧ ChangesOnly replyTraffic s t := by
  intro m
  refine ⟨_, mgmtRequest_taken up port idle, ?_, ?_⟩
  · rw [State.finish_oport, State.finish_console]
    have stays := s.restartIdle_moves.changesOnly
    have own : s.restartIdle.oport = s.oport := stays.oport
    have console : s.restartIdle.console = s.console := stays.console
    have formed : s.restartIdle.form h.src h.jobTag h.reqTag (.mgmtReply .badLength .none) = m := by
      unfold State.form
      rw [State.restartIdle_settings]
    have room : s.oport.room = decide (s.oport.own.length < 32) := rfl
    dsimp only
    unfold State.reply State.sendReply
    rw [formed, own, room]
    by_cases c : s.oport.own.length < 32
    · rw [if_pos c, decide_eq_true c]
      exact ⟨rfl, by rw [if_pos rfl, console, idle]⟩
    · rw [if_neg c, decide_eq_false c]
      exact ⟨own ▸ rfl, rfl⟩
  · exact ((s.restartIdle_moves.mono.next (State.reply_moves ..)).next (State.finish_moves _)).changesOnly

/-- Settles O29: the gates of a MGMT_REQUEST, the idle timer, and the requests that name nothing defined. -/
theorem managementGates : Obligations.ManagementGates := by
  refine ⟨fun c h fit s hc up => ?_, fun h s hr => ⟨?_, fun x i => ?_⟩⟩
  · obtain ⟨α, b, act, e, isFit, kept⟩ := exec_management hc
    refine ⟨fun hd => ⟨_, (e s).trans (mgmtRequest_discarded up hd), State.finish_changes _⟩, fun port idle unfit => ?_,
      fun port idle fits r first => ?_, fun port idle mode runs => ?_⟩
    · obtain rfl : b = none := Option.not_isSome_iff_eq_none.1 (Bool.eq_false_iff.1 (isFit.trans unfit))
      rw [e s]
      exact mgmtRequest_unfit up port idle
    · obtain ⟨x, rfl⟩ := Option.isSome_iff_exists.1 (isFit.trans fits)
      rw [e s]
      exact mgmtRequest_gate up port idle first
    · rw [e s]
      exact mgmtRequest_idle up port idle mode runs kept
  · exact mgmt_unchanged hr (x := ()) (act := fun _ s => Reply.refuse s .unknownRequest) rfl rfl
  · refine mgmt_unchanged hr (x := (x, i)) (act := closedRule) rfl ?_
    have result : ∀ n : Nat, (if n < i then Result.badIndex else .notPermitted) = if i ≤ n then .notPermitted else .badIndex := by
      intro n
      by_cases within : i ≤ n
      · rw [if_pos within, if_neg (Nat.not_lt.2 within)]
      · rw [if_neg within, if_pos (Nat.lt_of_not_le within)]
    exact congrArg (Reply.refuse s.restartIdle) (by cases x <;> exact result _)

end Sys2Proof.Machine

/-! PROOFS. The Callout Table (R125, R128, R129): a callout raised, the closing of a record, the offer of a freed one, and the
close test. -/

namespace Sys2Proof.Machine

set_option Elab.async false

variable {s t u v : State}

/-! ### The records (R124) -/

/-- R124: the record of a printer that is open, of lowest index. -/
theorem State.calloutOf_iff (h : s.TablesCanonical) (p i : Nat) : s.calloutOf p = some i ↔
    (∃ r, s.callout i = some r ∧ r.printer = p) ∧ ∀ x < i, ∀ r, s.callout x = some r → r.printer ≠ p := by
  have found := Tbl.find_iff (d := none) (f := fun _ (e : Option Callout) => match e with
    | some c => c.printer == p
    | none => false) (Tbl.wf_iff.1 h.callouts).1 (fun _ => rfl) i
  refine found.trans (and_congr ?_ (forall₂_congr fun x _ => ?_))
  · show _ = true ↔ ∃ r, Tbl.get none s.callouts i = some r ∧ _
    cases Tbl.get none s.callouts i <;> simp
  · show _ = false ↔ ∀ r, Tbl.get none s.callouts x = some r → _
    cases Tbl.get none s.callouts x <;> simp

theorem State.calloutOf_none_iff (h : s.TablesCanonical) (p : Nat) :
    s.calloutOf p = none ↔ ∀ i r, s.callout i = some r → r.printer ≠ p := by
  have none := Tbl.find_none_iff (d := none) (f := fun _ (e : Option Callout) => match e with
    | some c => c.printer == p
    | none => false) (Tbl.wf_iff.1 h.callouts).1 (fun _ => rfl)
  refine none.trans (forall_congr' fun x => ?_)
  show _ = false ↔ ∀ r, Tbl.get Option.none s.callouts x = some r → _
  cases Tbl.get Option.none s.callouts x <;> simp

/-- The free record of lowest index. -/
theorem lowestFree_some {α : Type} {t : Tbl (Option α)} {n i : Nat} (hi : i < n) (free : Tbl.get none t i = none)
    (before : ∀ x < i, Tbl.get none t x ≠ none) : lowestFree t n = some i := by
  unfold lowestFree
  refine List.find?_range_eq_some.2 ⟨by rw [free]; rfl, List.mem_range.2 hi, fun x hx => ?_⟩
  simpa [Option.isSome_iff_ne_none] using before x hx

theorem lowestFree_none {α : Type} {t : Tbl (Option α)} {n : Nat} (full : ∀ x < n, Tbl.get none t x ≠ none) :
    lowestFree t n = none := by
  unfold lowestFree
  simpa [Option.isNone_iff_eq_none] using full

theorem State.mark_callout (s : State) (n i : Nat) : (s.mark n).callout i = s.callout i :=
  State.callout_congr ((s.mark_moves n).changesOnly .callouts (by decide)) i

theorem State.notify_callout (s : State) (n : Notice) (i : Nat) : (s.notify n).callout i = s.callout i :=
  State.callout_congr ((s.notify_moves n).changesOnly .callouts (by decide)) i

/-- R124: a record is replaced, marked and told of. -/
def State.putCallout (s : State) (i : Nat) (c : Option Callout) (n : Notice) : State :=
  ((s.setCallout i c).mark (calloutSlot i)).notify n

theorem State.putCallout_moves (s : State) (i : Nat) (c : Option Callout) (n : Notice) :
    Moves ([.callouts, .storeWriting] ++ noticeTraffic) s (s.putCallout i c n) :=
  ((Moves.one (.callout s i c)).mono.next (State.mark_moves _ _)).next (State.notify_moves _ _)

theorem State.putCallout_becomes (s : State) (i : Nat) (c : Option Callout) (n : Notice) :
    CalloutBecomes [] s (s.putCallout i c n) i c := by
  have record (x : Nat) : (s.putCallout i c n).callout x = if x = i then c else s.callout x := by
    rw [State.putCallout, State.notify_callout, State.mark_callout, State.callout_setCallout]
  refine ⟨by rw [record, if_pos rfl], fun x hx => by rw [record, if_neg hx], ?_, (s.putCallout_moves i c n).changesOnly⟩
  have kept := ((s.setCallout i c).mark (calloutSlot i)).notify_moves n
  rw [State.putCallout, (kept.changesOnly .storeWriting (by decide)).1]
  exact State.mem_mark _

theorem State.putCallout_notice (s : State) (i : Nat) (c : Option Callout) (n : Notice) :
    NoticeFormed s (s.putCallout i c n) n := by
  have marked := ((s.setCallout i c).mark_moves (calloutSlot i)).changesOnly
  exact (State.notify_formed (s := (s.setCallout i c).mark (calloutSlot i)) n).between
    ⟨marked.oport, marked.console, marked .settings (by decide)⟩ ⟨rfl, rfl⟩

theorem State.putCallout_printer (s : State) (i : Nat) (c : Option Callout) (n : Notice) (p : Nat) :
    (s.putCallout i c n).printer p = s.printer p := by
  rw [State.putCallout, State.notify_printer, State.mark_printer]
  rfl

/-! ### A callout raised (R125) -/

theorem State.openCallout_eq (s : State) (p : Nat) (k : CalloutKind) (c : CalloutCause) (i : Nat) :
    s.openCallout p k c i = (s.setOwed p none).putCallout i (some (s.newCallout p k c))
      (.callout i (s.newCallout p k c) .opened) := rfl

/-- R125 step 3: a record opened for a printer, which then owes none. -/
theorem State.openCallout_opened (s : State) (p : Nat) (k : CalloutKind) (c : CalloutCause) (i : Nat) :
    CalloutBecomes [Piece.printers] s (s.openCallout p k c i) i (some (s.newCallout p k c)) ∧
      (s.openCallout p k c i).printer p = { s.printer p with owed := none } ∧
      OtherPrinters p s (s.openCallout p k c i) ∧
      NoticeFormed s (s.openCallout p k c i) (.callout i (s.newCallout p k c) .opened) := by
  rw [State.openCallout_eq]
  have put := (s.setOwed p none).putCallout_becomes i (some (s.newCallout p k c)) (.callout i (s.newCallout p k c) .opened)
  have owed (x : Nat) := (s.printer_updPrinter p (fun e => { e with owed := none }) x)
  refine ⟨⟨put.record, put.records, put.dirty, ?_⟩, ?_, fun x hx => ?_, ?_⟩
  · exact ((s.setOwed_moves p none).changesOnly.mono (by decide)).trans (put.rest.mono (by decide))
  · rw [State.putCallout_printer]
    exact (owed p).trans (if_pos rfl)
  · rw [State.putCallout_printer]
    exact (owed x).trans (if_neg hx)
  · have notice := (s.setOwed p none).putCallout_notice i (some (s.newCallout p k c)) (.callout i (s.newCallout p k c) .opened)
    have before := (s.setOwed_moves p none).changesOnly
    exact notice.between ⟨before.oport, before.console, before .settings (by decide)⟩ ⟨rfl, rfl⟩

theorem State.raiseCallout_open {p i : Nat} {r : Callout} (k : CalloutKind) (c : CalloutCause) (open_ : s.calloutOf p = some i)
    (record : s.callout i = some r) : s.raiseCallout p k c =
      let u : Callout := { r with kind := k, cause := c, acknowledged := false, count := 0, timer := (s.newCallout p k c).timer }
      if r.kind.rank < k.rank then s.putCallout i (some u) (.callout i u .upgraded) else s := by
  unfold State.raiseCallout
  rw [open_]
  dsimp only
  rw [record]
  rfl

theorem State.raiseCallout_free {p i : Nat} (k : CalloutKind) (c : CalloutCause) (none : s.calloutOf p = none)
    (free : lowestFree s.callouts 32 = some i) : s.raiseCallout p k c = s.openCallout p k c i := by
  unfold State.raiseCallout
  rw [none]
  dsimp only
  rw [show lowestFree s.callouts Config.callouts = some i from free]

theorem State.raiseCallout_full {p : Nat} (k : CalloutKind) (c : CalloutCause) (none : s.calloutOf p = none)
    (full : lowestFree s.callouts 32 = Option.none) :
    ((∀ k0 c0, (s.printer p).owed = some (k0, c0) → k0.rank < k.rank) → s.raiseCallout p k c = s.setOwed p (some (k, c))) ∧
    (∀ k0 c0, (s.printer p).owed = some (k0, c0) → k.rank ≤ k0.rank → s.raiseCallout p k c = s) := by
  unfold State.raiseCallout
  rw [none]
  dsimp only
  rw [show lowestFree s.callouts Config.callouts = Option.none from full]
  dsimp only
  refine ⟨fun lower => ?_, fun k0 c0 owed higher => ?_⟩
  · cases h : (s.printer p).owed with
    | none => rfl
    | some x => exact if_pos (lower x.1 x.2 h)
  · rw [owed]
    exact if_neg (Nat.not_lt.2 higher)

/-- R125: owing replaced at the entry. -/
theorem State.setOwed_entry (s : State) (p : Nat) (o : Option (CalloutKind × CalloutCause)) :
    EntryBecomes [] s (s.setOwed p o) p { s.printer p with owed := o } :=
  ⟨(s.printer_updPrinter p _ p).trans (if_pos rfl), fun x hx => (s.printer_updPrinter p _ x).trans (if_neg hx),
    (s.setOwed_moves p o).changesOnly⟩

theorem raiseCallout_spec (hw : s.TablesCanonical) (p : Nat) (k : CalloutKind) (c : CalloutCause) :
    (∀ i, s.calloutOf p = some i → ∃ r, s.callout i = some r ∧ r.printer = p ∧
      (r.kind.rank < k.rank →
        let u : Callout := { r with
          kind := k, cause := c, acknowledged := false, count := 0, timer := (s.newCallout p k c).timer }
        CalloutBecomes [] s (s.raiseCallout p k c) i (some u) ∧
          NoticeFormed s (s.raiseCallout p k c) (.callout i u .upgraded)) ∧
      (k.rank ≤ r.kind.rank → s.raiseCallout p k c = s)) ∧
    (s.calloutOf p = none →
      (∀ i < 32, s.callout i = none → (∀ x < i, s.callout x ≠ none) →
        CalloutBecomes [Piece.printers] s (s.raiseCallout p k c) i (some (s.newCallout p k c)) ∧
          (s.raiseCallout p k c).printer p = { s.printer p with owed := none } ∧
          OtherPrinters p s (s.raiseCallout p k c) ∧
          NoticeFormed s (s.raiseCallout p k c) (.callout i (s.newCallout p k c) .opened)) ∧
      ((∀ i < 32, s.callout i ≠ none) →
        ((∀ k0 c0, (s.printer p).owed = some (k0, c0) → k0.rank < k.rank) →
          EntryBecomes [] s (s.raiseCallout p k c) p { s.printer p with owed := some (k, c) }) ∧
        (∀ k0 c0, (s.printer p).owed = some (k0, c0) → k.rank ≤ k0.rank → s.raiseCallout p k c = s))) := by
  refine ⟨fun i hi => ?_, fun none => ⟨fun i hi free before => ?_, fun full => ?_⟩⟩
  · obtain ⟨⟨r, record, printer⟩, -⟩ := (State.calloutOf_iff hw p i).1 hi
    have raised := State.raiseCallout_open k c hi record
    refine ⟨r, record, printer, fun lower => ?_, fun higher => ?_⟩
    · rw [raised]
      dsimp only
      rw [if_pos lower]
      exact ⟨State.putCallout_becomes _ _ _ _, State.putCallout_notice _ _ _ _⟩
    · rw [raised]
      exact if_neg (Nat.not_lt.2 higher)
  · rw [State.raiseCallout_free k c none (lowestFree_some hi free before)]
    exact s.openCallout_opened p k c i
  · obtain ⟨replaced, stands⟩ := State.raiseCallout_full k c none (lowestFree_none full)
    exact ⟨fun lower => replaced lower ▸ s.setOwed_entry p (some (k, c)), stands⟩

/-! ### The close test, the closing of a record, and its offer (R128, R129) -/

theorem PrinterOf.passesClose_iff (e : Printer) :
    e.passesClose = true ↔ e.standing = Standing.none ∧ (e.health = .active ∨ e.health = .watch) := by
  unfold PrinterOf.passesClose
  rw [Bool.and_eq_true, Standing.isEmpty_iff]
  cases e.health <;> simp [Health.well]

theorem State.closeRecord_closed {i : Nat} {r : Callout} (why : CloseReason) (h : s.callout i = some r) :
    CalloutBecomes [] s (s.closeRecord i why) i none ∧ NoticeFormed s (s.closeRecord i why) (.callout i r (.closed why)) := by
  have closed : s.closeRecord i why = s.putCallout i none (.callout i r (.closed why)) := by
    unfold State.closeRecord
    rw [h]
    rfl
  rw [closed]
  exact ⟨State.putCallout_becomes _ _ _ _, State.putCallout_notice _ _ _ _⟩

theorem State.offerCalloutTo_skips {q : Nat} (i : Nat) (l : List Nat) (none : (s.printer q).owed = none) :
    State.offerCalloutTo i s (q :: l) = State.offerCalloutTo i s l := by
  rw [State.offerCalloutTo, none]

theorem State.offerCalloutTo_clears {q : Nat} (i : Nat) (l : List Nat) (owes : (s.printer q).owed.isSome)
    (pass : (s.printer q).passesClose = true) :
    State.offerCalloutTo i s (q :: l) = State.offerCalloutTo i (s.setOwed q none) l := by
  obtain ⟨kc, ho⟩ := Option.isSome_iff_exists.1 owes
  rw [State.offerCalloutTo, ho]
  exact if_pos pass

theorem State.offerCalloutTo_opens {q : Nat} {k : CalloutKind} {c : CalloutCause} (i : Nat) (l : List Nat)
    (owes : (s.printer q).owed = some (k, c)) (fails : ¬(s.printer q).passesClose = true) :
    State.offerCalloutTo i s (q :: l) = s.openCallout q k c i := by
  rw [State.offerCalloutTo, owes]
  exact if_neg fails

theorem State.setOwed_printer (s : State) (q x : Nat) (o : Option (CalloutKind × CalloutCause)) :
    (s.setOwed q o).printer x = if x = q then { s.printer q with owed := o } else s.printer x := s.printer_updPrinter q _ x

/-- R129: every printer of a list that owes a callout passes the close test. -/
def State.AllPass (s : State) (l : List Nat) : Prop := ∀ q ∈ l, (s.printer q).owed.isSome → (s.printer q).passesClose = true

theorem State.AllPass.tail {q : Nat} {l : List Nat} (h : s.AllPass (q :: l)) : s.AllPass l :=
  fun x hx => h x (List.mem_cons_of_mem _ hx)

theorem State.AllPass.cleared {l : List Nat} (h : s.AllPass l) (q : Nat) : (s.setOwed q none).AllPass l := by
  intro x hx owes
  rw [State.setOwed_printer] at owes ⊢
  split at owes
  · exact absurd owes (by simp)
  next ne => rw [if_neg ne]; exact h x hx owes

/-- R129: the offer over printers that pass clears what they owe. -/
theorem State.offerCalloutTo_passed (i : Nat) (l : List Nat) : ∀ s : State, s.AllPass l →
    (∀ x, (State.offerCalloutTo i s l).printer x =
      if x ∈ l ∧ (s.printer x).owed.isSome then { s.printer x with owed := none } else s.printer x) ∧
    ChangesOnly [Piece.printers] s (State.offerCalloutTo i s l) ∧
    ∀ b, State.offerCalloutTo i s (l ++ b) = State.offerCalloutTo i (State.offerCalloutTo i s l) b := by
  induction l with
  | nil => exact fun s _ => ⟨fun x => by simp [State.offerCalloutTo], ChangesOnly.refl _ _, fun b => rfl⟩
  | cons q l ih =>
    intro s passes
    cases ho : (s.printer q).owed with
    | none =>
      obtain ⟨printers, frame, append⟩ := ih s passes.tail
      have append (b : List Nat) : State.offerCalloutTo i s (q :: l ++ b) =
          State.offerCalloutTo i (State.offerCalloutTo i s l) b :=
        (State.offerCalloutTo_skips i (l ++ b) ho).trans (append b)
      rw [State.offerCalloutTo_skips i l ho]
      refine ⟨fun x => (printers x).trans ?_, frame, append⟩
      by_cases hx : x = q
      · subst hx; simp [ho]
      · simp [hx]
    | some kc =>
      have owes : (s.printer q).owed.isSome = true := by rw [ho]; rfl
      have pass := passes q (List.mem_cons_self ..) owes
      obtain ⟨printers, frame, append⟩ := ih (s.setOwed q none) (passes.tail.cleared q)
      have append (b : List Nat) : State.offerCalloutTo i s (q :: l ++ b) =
          State.offerCalloutTo i (State.offerCalloutTo i (s.setOwed q none) l) b :=
        (State.offerCalloutTo_clears i (l ++ b) owes pass).trans (append b)
      rw [State.offerCalloutTo_clears i l owes pass]
      refine ⟨fun x => (printers x).trans ?_, (s.setOwed_moves q none).changesOnly.trans frame, append⟩
      rw [State.setOwed_printer]
      by_cases hx : x = q
      · subst hx; simp [ho]
      · simp [hx]

/-- R129: the offer of a freed record. -/
theorem offerCallout_spec (hw : s.TablesCanonical) (i : Nat) :
    let passes (e : Printer) : Prop := e.standing = Standing.none ∧ (e.health = .active ∨ e.health = .watch)
    let owing := s.configured.filter (fun q => (s.printer q).owed.isSome)
    ((∀ q ∈ owing, passes (s.printer q)) →
      (∀ q, (s.offerCallout i).printer q = if q ∈ owing then { s.printer q with owed := none } else s.printer q) ∧
        ChangesOnly [Piece.printers] s (s.offerCallout i)) ∧
    (∀ q k c, q ∈ owing → ¬passes (s.printer q) → (∀ x ∈ owing, x < q → passes (s.printer x)) →
      (s.printer q).owed = some (k, c) →
      (∀ x, (s.offerCallout i).printer x = if x ∈ owing ∧ x ≤ q then { s.printer x with owed := none } else s.printer x) ∧
        CalloutBecomes [Piece.printers] s (s.offerCallout i) i (some (s.newCallout q k c)) ∧
        NoticeFormed s (s.offerCallout i) (.callout i (s.newCallout q k c) .opened)) := by
  intro passes owing
  have owing_iff (q : Nat) : q ∈ owing ↔ q ∈ s.configured ∧ (s.printer q).owed.isSome = true := List.mem_filter
  refine ⟨fun all => ?_, fun q k c hq fails first owes => ?_⟩
  · have pass : s.AllPass s.configured := fun q hq ho =>
      (PrinterOf.passesClose_iff _).2 (all q ((owing_iff q).2 ⟨hq, ho⟩))
    obtain ⟨printers, frame, -⟩ := State.offerCalloutTo_passed i s.configured s pass
    exact ⟨fun q => by rw [State.offerCallout, printers]; simp only [owing_iff], frame⟩
  · obtain ⟨a, b, split⟩ := List.append_of_mem ((owing_iff q).1 hq).1
    have rising : (a ++ q :: b).Pairwise (· < ·) := by
      rw [← split]
      exact Tbl.indexesWhere_rising (Tbl.wf_iff.1 hw.printers).1
    obtain ⟨-, later, before⟩ := List.pairwise_append.1 rising
    have mem (x : Nat) : x ∈ s.configured ↔ x ∈ a ∨ x = q ∨ x ∈ b := by rw [split]; simp
    have below (x : Nat) (hx : x ∈ a) : x < q := before x hx q (List.mem_cons_self ..)
    have above (x : Nat) (hx : x ∈ b) : q < x := (List.pairwise_cons.1 later).1 x hx
    have pass : s.AllPass a := fun x hx ho =>
      (PrinterOf.passesClose_iff _).2 (first x ((owing_iff x).2 ⟨(mem x).2 (.inl hx), ho⟩) (below x hx))
    obtain ⟨printers, frame, append⟩ := State.offerCalloutTo_passed i a s pass
    let t := State.offerCalloutTo i s a
    have same : t.printer q = s.printer q := by
      rw [printers, if_neg fun h => absurd (below q h.1) (lt_irrefl q)]
    have opens : s.offerCallout i = t.openCallout q k c i := by
      unfold State.offerCallout
      rw [split, append]
      refine State.offerCalloutTo_opens i b (by rw [same]; exact owes) ?_
      rw [same, PrinterOf.passesClose_iff]
      exact fails
    obtain ⟨record, entry, others, notice⟩ := t.openCallout_opened q k c i
    have asNew : t.newCallout q k c = s.newCallout q k c := by
      have core : t.clock.core = s.clock.core := frame .clock (by decide)
      have settings : t.settings = s.settings := frame .settings (by decide)
      have mode : t.asleep = s.asleep := by
        unfold State.asleep
        rw [(Clock.eq_of_core core).2.2.2.2.1]
      unfold State.newCallout
      rw [mode, settings, (Clock.eq_of_core core).1]
    rw [asNew] at record notice
    rw [opens]
    refine ⟨fun x => ?_, ⟨record.record, fun x hx => ?_, record.dirty, (frame.mono (by decide)).trans record.rest⟩, ?_⟩
    · by_cases hx : x = q
      · subst hx
        rw [entry, same, if_pos ⟨hq, le_rfl⟩]
      · rw [others x hx, printers]
        refine if_congr ?_ rfl rfl
        rw [owing_iff, mem]
        constructor
        · exact fun h => ⟨⟨.inl h.1, h.2⟩, (below x h.1).le⟩
        · rintro ⟨⟨h | h | h, ho⟩, le⟩
          · exact ⟨h, ho⟩
          · exact absurd h hx
          · exact absurd (above x h) (Nat.not_lt.2 le)
    · rw [record.records x hx, State.callout_congr (frame .callouts (by decide))]
    · exact notice.between ⟨frame.oport, frame.console, frame .settings (by decide)⟩ ⟨rfl, rfl⟩

/-- R128: the close test. -/
theorem closeTest_spec (s : State) (p : Nat) :
    let passes (e : Printer) : Prop := e.standing = Standing.none ∧ (e.health = .active ∨ e.health = .watch)
    (¬passes (s.printer p) → s.closeTest p = s) ∧
    (passes (s.printer p) → ∃ u, EntryBecomes [] u (s.closeTest p) p { u.printer p with owed := none } ∧
      (s.calloutOf p = none → u = s) ∧
      (∀ i, s.calloutOf p = some i → u = (s.closeRecord i .recovered).offerCallout i)) := by
  intro passes
  have iff : (s.printer p).passesClose = true ↔ passes (s.printer p) := PrinterOf.passesClose_iff _
  unfold State.closeTest
  refine ⟨fun fails => if_neg (iff.not.2 fails), fun pass => ?_⟩
  rw [if_pos (iff.2 pass)]
  cases h : s.calloutOf p with
  | none => exact ⟨s, s.setOwed_entry p none, fun _ => rfl, nofun⟩
  | some i =>
    exact ⟨(s.closeRecord i .recovered).offerCallout i, State.setOwed_entry _ p none, nofun,
      fun x hx => by rw [Option.some.inj hx]⟩

/-- Settles O42: a callout raised, the close test, the closing and the offer of a record. -/
theorem calloutRecords : Obligations.CalloutRecords := by
  refine ⟨fun s p k c hw => ?_, fun s p hw => ?_⟩
  · obtain ⟨isOpen, none⟩ := raiseCallout_spec hw p k c
    exact ⟨State.calloutOf_none_iff hw p, isOpen, none⟩
  · obtain ⟨fails, pass⟩ := closeTest_spec s p
    exact ⟨fails, pass, fun i r why h => State.closeRecord_closed why h, fun i => offerCallout_spec hw i⟩

end Sys2Proof.Machine

/-! PROOFS. The expiry of a renotify timer, ACK_CALLOUT and CLOSE_CALLOUT (R126, R127, R129). -/

namespace Sys2Proof.Machine

set_option Elab.async false

variable {s t u v : State}

/-! ### Notices that stay formed -/

/-- R179, R180: a notice makes the queues no shorter. -/
theorem State.notify_grows (t : State) (m : Notice) : ∃ x y, (t.notify m).oport.own = t.oport.own ++ x ∧
    (t.notify m).console.notices = t.console.notices ++ y ∧
    (t.console.noticeOverflow = true → (t.notify m).console.noticeOverflow = true) := by
  obtain ⟨x, own⟩ := (t.notify_moves m).officeOwn_grows
  have notices : ∃ y, (t.notify m).console.notices = t.console.notices ++ y ∧
      (t.console.noticeOverflow = true → (t.notify m).console.noticeOverflow = true) := by
    unfold State.notify State.offer
    split
    · split
      · exact ⟨[], by simp, id⟩
      · split
        · exact ⟨_, rfl, id⟩
        · exact ⟨[], by simp, fun _ => rfl⟩
    · exact ⟨[], by simp, id⟩
  obtain ⟨y, list, overflow⟩ := notices
  exact ⟨x, y, own, list, overflow⟩

/-- R179: a notice stays formed when another is formed after it. -/
theorem NoticeFormed.notified {n : Notice} (h : NoticeFormed s t n) (m : Notice) : NoticeFormed s (t.notify m) n := by
  obtain ⟨x, y, own, list, overflow⟩ := t.notify_grows m
  exact h.later own list overflow

/-- R179: a notice formed after another is formed from before it. -/
theorem NoticeFormed.of_notified {n m : Notice} (h : NoticeFormed (s.notify m) t n) : NoticeFormed s t n := by
  obtain ⟨x, y, own, list, -⟩ := s.notify_grows m
  exact h.earlier own list (s.notify_settings m)

/-! ### The renotify timer (R126) -/

/-- R126: a record that is renotified. -/
def State.renotified (s : State) (r : Callout) : Callout :=
  { r with count := r.count + 1, timer := s.startTimer s.settings.renotify }

/-- R126: the record once its third renotification has escalated it. -/
def State.escalated (s : State) (r : Callout) : Callout := { s.renotified r with count := 0, kind := r.kind.next }

/-- R126: the record that a renotification leaves. -/
def State.afterRenotify (s : State) (r : Callout) : Callout := if r.count + 1 < 3 then s.renotified r else s.escalated r

theorem State.renotifyCallout_idle {i : Nat} (h : ∀ r, s.callout i = some r → r.acknowledged = true ∨ r.timer.runs = false) :
    s.renotifyCallout i = s := by
  unfold State.renotifyCallout
  cases hr : s.callout i with
  | none => rfl
  | some r =>
    refine if_pos ?_
    rcases h r hr with h | h <;> simp [h]

theorem State.renotifyCallout_told {i : Nat} {r : Callout} (record : s.callout i = some r) (open_ : r.acknowledged = false)
    (runs : r.timer.runs = true) : s.renotifyCallout i =
      if r.count + 1 < 3 ∨ r.kind = .urgent then
        (s.notify (.callout i (s.renotified r) .renotified)).setCallout i (some (s.afterRenotify r))
      else (s.notify (.callout i (s.renotified r) .renotified)).putCallout i (some (s.afterRenotify r))
        (.callout i (s.afterRenotify r) .escalated) := by
  unfold State.renotifyCallout State.afterRenotify
  rw [record]
  have taken : ¬(r.acknowledged || !r.timer.runs) = true := by rw [open_, runs]; decide
  dsimp only
  rw [if_neg taken]
  by_cases few : r.count + 1 < 3
  · simp only [few, true_or, if_true]; rfl
  · by_cases urgent : r.kind = .urgent
    · simp only [few, eq_true urgent, or_true, if_true, if_false]
      rfl
    · simp only [few, urgent, or_self, if_false]; rfl

/-- R126: what the renotification of a record comes to. -/
theorem State.renotifyCallout_done {i : Nat} {r : Callout} (record : s.callout i = some r) (open_ : r.acknowledged = false)
    (runs : r.timer.runs = true) :
    NoticeFormed s (s.renotifyCallout i) (.callout i (s.renotified r) .renotified) ∧
      (∀ x, (s.renotifyCallout i).callout x = if x = i then some (s.afterRenotify r) else s.callout x) ∧
      (3 ≤ r.count + 1 → r.kind ≠ .urgent →
        NoticeFormed s (s.renotifyCallout i) (.callout i (s.afterRenotify r) .escalated) ∧
        calloutSlot i ∈ (s.renotifyCallout i).store.dirty) ∧
      ChangesOnly ([Piece.callouts, .storeWriting] ++ noticeTraffic) s (s.renotifyCallout i) := by
  let told := s.notify (.callout i (s.renotified r) .renotified)
  have frame : ChangesOnly noticeTraffic s told := (s.notify_moves _).changesOnly
  have first : NoticeFormed s told (.callout i (s.renotified r) .renotified) := State.notify_formed _
  rw [State.renotifyCallout_told record open_ runs]
  split
  next stays =>
    refine ⟨first.between ⟨rfl, rfl, rfl⟩ ⟨rfl, rfl⟩, fun x => ?_, fun many other => ?_, ?_⟩
    · rw [State.callout_setCallout, State.notify_callout]
    · exact absurd stays (by simp only [not_or]; exact ⟨by omega, other⟩)
    · exact (frame.mono (by decide)).trans ((Moves.one (.callout told i _)).changesOnly.mono (by decide))
  next =>
    have put := told.putCallout_becomes i (some (s.afterRenotify r)) (.callout i (s.afterRenotify r) .escalated)
    refine ⟨?_, fun x => ?_, fun _ _ => ⟨?_, put.dirty⟩, (frame.mono (by decide)).trans (put.rest.mono (by decide))⟩
    · have marked := ((told.setCallout i (some (s.afterRenotify r))).mark_moves (calloutSlot i)).changesOnly
      exact (first.between ⟨rfl, rfl, rfl⟩ ⟨marked.oport, marked.console⟩).notified _
    · by_cases hx : x = i
      · rw [hx, if_pos rfl]; exact put.record
      · rw [if_neg hx, put.records x hx]; exact s.notify_callout _ x
    · exact (told.putCallout_notice i _ _).of_notified

/-- R126: the expiry of a renotify timer. -/
theorem renotifyTimer_expires {i : Nat} (up : s.phase = .up) (awake : s.asleep = false) :
    (∀ r, s.callout i = some r → r.acknowledged = false → r.timer.runs = true →
      let told : Callout := { r with count := r.count + 1, timer := .running s.settings.renotify }
      let kept : Callout := if r.count + 1 < 3 then told
        else { told with count := 0, kind := match r.kind with | .attention => .service | _ => .urgent }
      ∃ t, exec (.renotifyTimerExpiry i) s = .next t ∧ NoticeFormed s t (.callout i told .renotified) ∧
        t.callout i = some kept ∧ (∀ x, x ≠ i → t.callout x = s.callout x) ∧
        (3 ≤ r.count + 1 → r.kind ≠ .urgent → NoticeFormed s t (.callout i kept .escalated) ∧ Written t (calloutSlot i)) ∧
        ChangesOnly ([Piece.callouts] ++ noticeTraffic ++ endOfStep) s t) ∧
    ((∀ r, s.callout i = some r → r.acknowledged = true ∨ r.timer.runs = false) →
      ∃ t, exec (.renotifyTimerExpiry i) s = .next t ∧ ChangesOnly endOfStep s t) := by
  have e : exec (.renotifyTimerExpiry i) s = .next (s.renotifyCallout i).finish := by
    show execRenotifyTimerExpiry i s = _
    rw [execRenotifyTimerExpiry, State.whenUp_up _ up]
  have started : s.startTimer s.settings.renotify = .running s.settings.renotify := by
    unfold State.startTimer
    rw [awake]
    rfl
  refine ⟨fun r record open_ runs => ?_, fun idle => ⟨_, e, by rw [State.renotifyCallout_idle idle]; exact State.finish_changes s⟩⟩
  intro told kept
  have isTold : s.renotified r = told := by rw [State.renotified, started]
  have isKept : s.afterRenotify r = kept := by
    unfold State.afterRenotify State.escalated
    rw [isTold]
    refine if_congr Iff.rfl rfl ?_
    cases r.kind <;> rfl
  obtain ⟨first, records, escalates, frame⟩ := State.renotifyCallout_done record open_ runs
  rw [isTold] at first
  rw [isKept] at records escalates
  refine ⟨_, e, first.finish, ?_, fun x hx => ?_, fun many other => ?_, (frame.mono (by decide)).trans
    ((State.finish_changes _).mono (by decide))⟩
  · rw [State.finish_callout, records, if_pos rfl]
  · rw [State.finish_callout, records, if_neg hx]
  · obtain ⟨second, dirty⟩ := escalates many other
    exact ⟨second.finish, State.written_of_dirty dirty⟩

/-! ### ACK_CALLOUT and CLOSE_CALLOUT (R127, R129) -/

theorem exec_ackCallout (h : Hdr) (p : Nat) (s : State) :
    exec (.ackCallout h (some p)) s = mgmtRequest h (some p) ackRule s := rfl

theorem exec_closeCallout (h : Hdr) (p : Nat) (s : State) :
    exec (.closeCallout h (some p)) s = mgmtRequest h (some p) closeCalloutRule s := rfl

theorem ackRule_none {p : Nat} (hp : p ≤ 63) (none : s.calloutOf p = none) : ackRule p s = Reply.refuse s .notAccepted := by
  have within : ¬Config.printers ≤ p := Nat.not_le.2 (Nat.lt_succ_of_le hp)
  unfold ackRule
  rw [if_neg within, none]

/-- R127: the record that an acknowledgement leaves. -/
def CalloutOf.acked (c : Callout) : Callout := { c with acknowledged := true, timer := if c.acknowledged then c.timer else .stopped }

theorem ackRule_some {p i : Nat} {c : Callout} (hp : p ≤ 63) (open_ : s.calloutOf p = some i) (record : s.callout i = some c) :
    ackRule p s = { state := if c.acknowledged then s else (s.setCallout i (some (CalloutOf.acked c))).mark (calloutSlot i)
                    result := .ok } := by
  have within : ¬Config.printers ≤ p := Nat.not_le.2 (Nat.lt_succ_of_le hp)
  unfold ackRule CalloutOf.acked
  rw [if_neg within, open_]
  dsimp only
  rw [record]
  dsimp only
  split <;> rfl

/-- R127: an acknowledgement. -/
theorem ackCallout_done {h : Hdr} {p i : Nat} {c : Callout} (hr : ConsoleReady h s) (hp : p ≤ 63)
    (open_ : s.calloutOf p = some i) (record : s.callout i = some c) :
    ∃ u, u.callout i = some { c with acknowledged := true, timer := if c.acknowledged then c.timer else .stopped } ∧
      (∀ x, x ≠ i → u.callout x = s.callout x) ∧ (c.acknowledged = false → calloutSlot i ∈ u.store.dirty) ∧
      ChangesOnly [.callouts, .storeWriting, .idleTimer] s u ∧ CarriedOut (.ackCallout h (some p)) h s u .ok := by
  have rule := ackRule_some (s := s.restartIdle) hp (by rw [State.restartIdle_calloutOf]; exact open_)
    (by rw [State.restartIdle_callout]; exact record)
  have idle : ChangesOnly [Piece.callouts, .storeWriting, .idleTimer] s s.restartIdle := s.restartIdle_changes.mono (by decide)
  cases acked : c.acknowledged with
  | true =>
    rw [acked, if_pos rfl] at rule
    refine ⟨s.restartIdle, ?_, fun x _ => State.restartIdle_callout x, nofun, idle,
      carriedOut_of hr (exec_ackCallout h p s) rule (l := []) (Moves.refl _)⟩
    rw [State.restartIdle_callout, record, if_pos rfl, ← acked]
  | false =>
    rw [acked, if_neg (by decide)] at rule
    have marks : Moves [.callouts, .storeWriting] s.restartIdle
        ((s.restartIdle.setCallout i (some (CalloutOf.acked c))).mark (calloutSlot i)) :=
      (Moves.one (.callout _ i _)).mono.next (State.mark_moves _ _)
    have records (x : Nat) := s.restartIdle.callout_setCallout i (some (CalloutOf.acked c)) x
    refine ⟨_, ?_, fun x hx => ?_, fun _ => State.mem_mark _, idle.trans (marks.changesOnly.mono (by decide)),
      carriedOut_of hr (exec_ackCallout h p s) rule marks⟩
    · rw [State.mark_callout, records, if_pos rfl, CalloutOf.acked, acked]
    · rw [State.mark_callout, records, if_neg hx, State.restartIdle_callout]

theorem closeCalloutRule_open {p i : Nat} (hp : p ≤ 63) (open_ : s.calloutOf p = some i) :
    closeCalloutRule p s = { state := (s.closeRecord i .console).offerCallout i, result := .ok } := by
  have within : ¬Config.printers ≤ p := Nat.not_le.2 (Nat.lt_succ_of_le hp)
  unfold closeCalloutRule
  rw [if_neg within, open_]

theorem closeCalloutRule_none {p : Nat} (hp : p ≤ 63) (unopened : s.calloutOf p = none) :
    closeCalloutRule p s =
      if (s.printer p).owed.isSome then { state := s.setOwed p none, result := .ok } else Reply.refuse s .notAccepted := by
  have within : ¬Config.printers ≤ p := Nat.not_le.2 (Nat.lt_succ_of_le hp)
  unfold closeCalloutRule
  rw [if_neg within, unopened]

/-- R127, R129: an index that names no entry. -/
theorem calloutCommands_badIndex {h : Hdr} {p : Nat} (hr : ConsoleReady h s) (beyond : 63 < p) :
    ∀ c ∈ [Instr.ackCallout h (some p), .closeCallout h (some p)], CarriedOut c h s s .badIndex := by
  have outside : Config.printers ≤ p := beyond
  intro c hc
  simp only [List.mem_cons, List.not_mem_nil, or_false] at hc
  rcases hc with rfl | rfl
  · exact carriedOut_unchanged hr (exec_ackCallout h p s) (if_pos outside)
  · exact carriedOut_unchanged hr (exec_closeCallout h p s) (if_pos outside)

/-- Settles O43: the renotify timer, ACK_CALLOUT and CLOSE_CALLOUT. -/
theorem calloutCommands : Obligations.CalloutCommands := by
  refine ⟨fun i s up awake => renotifyTimer_expires up awake, fun h p s hr => ⟨calloutCommands_badIndex hr,
    fun hp none => ?_, fun i c hp open_ record => ⟨ackCallout_done hr hp open_ record, ?_⟩⟩⟩
  · have none : s.restartIdle.calloutOf p = Option.none := (State.restartIdle_calloutOf p).trans none
    have close := closeCalloutRule_none hp none
    rw [State.restartIdle_printer] at close
    refine ⟨carriedOut_unchanged hr (exec_ackCallout h p s) (ackRule_none hp none), fun owes => ?_, fun owes => ?_⟩
    · rw [owes] at close
      exact carriedOut_unchanged hr (exec_closeCallout h p s) close
    · rw [if_pos (Option.isSome_iff_ne_none.2 owes)] at close
      refine ⟨s.restartIdle.setOwed p Option.none, ?_, carriedOut_of hr (exec_closeCallout h p s) close (State.setOwed_moves _ _ _)⟩
      have entry := s.restartIdle.setOwed_entry p Option.none
      rw [State.restartIdle_printer] at entry
      exact (entry.wider (l := [.idleTimer]) (by simp)).of_restartIdle (by simp)
  · have close := closeCalloutRule_open hp ((State.restartIdle_calloutOf p).trans open_)
    exact ⟨s.restartIdle, s.restartIdle_changes, carriedOut_of hr (exec_closeCallout h p s) close
      ((State.closeRecord_moves _ _ _).trans (State.offerCallout_moves _ _))⟩

end Sys2Proof.Machine

/-! PROOFS. What operations keep of every printer's entry, and the health of printers: faults, the score and its bands (R112 to
R117). -/

namespace Sys2Proof.Machine

set_option Elab.async false

variable {s t u v : State}

/-! ### What is kept of every entry -/

section Keeps

variable {β : Type} {f : Printer → β}

/-- Every printer's entry gives `f` what it gave before. -/
def Keeps (f : Printer → β) (s t : State) : Prop := ∀ i, f (t.printer i) = f (s.printer i)

theorem Keeps.refl (s : State) : Keeps f s s := fun _ => rfl

theorem Keeps.trans (h : Keeps f s t) (h' : Keeps f t u) : Keeps f s u := fun i => (h' i).trans (h i)

theorem Keeps.of_printers (h : t.printers = s.printers) : Keeps f s t := fun i => by rw [State.printer_congr h]

theorem Keeps.of_frame {l : List Piece} (h : ChangesOnly l s t) (hl : Piece.printers ∉ l := by decide) : Keeps f s t :=
  .of_printers (h .printers hl)

theorem Keeps.updPrinter {g : Printer → Printer} (h : ∀ e, f (g e) = f e) (p : Nat) : Keeps f s (s.updPrinter p g) := by
  intro i
  rw [State.printer_updPrinter]
  split
  next e => rw [h, e]
  next => rfl

theorem Keeps.foldl {α : Type} {op : State → α → State} (h : ∀ s x, Keeps f s (op s x)) (l : List α) (s : State) :
    Keeps f s (l.foldl op s) := by
  induction l generalizing s with
  | nil => exact .refl s
  | cons x l ih => exact (h s x).trans (ih _)

/-- R125, R128, R129: callouts reach nothing of an entry but what is owed. -/
theorem State.closeTest_keeps (hf : ∀ e o, f { e with owed := o } = f e) (p : Nat) : Keeps f s (s.closeTest p) := by
  have owed (s : State) (q : Nat) (o : Option (CalloutKind × CalloutCause)) : Keeps f s (s.setOwed q o) :=
    .updPrinter (fun e => hf e o) q
  have close (s : State) (i : Nat) (why : CloseReason) : Keeps f s (s.closeRecord i why) := by
    unfold State.closeRecord
    split
    · exact .refl s
    · exact fun q => congrArg f (s.putCallout_printer i none _ q)
  have opens (s : State) (q : Nat) (k : CalloutKind) (c : CalloutCause) (i : Nat) : Keeps f s (s.openCallout q k c i) := by
    rw [State.openCallout_eq]
    exact (owed s q none).trans fun x => congrArg f (State.putCallout_printer _ i _ _ x)
  have offer (i : Nat) (l : List Nat) : ∀ s : State, Keeps f s (State.offerCalloutTo i s l) := by
    induction l with
    | nil => exact fun s => .refl s
    | cons q l ih =>
      intro s
      rw [State.offerCalloutTo]
      split
      · exact ih s
      · split
        · exact (owed s q none).trans (ih _)
        · exact opens s q _ _ i
  unfold State.closeTest
  split
  · dsimp only
    split
    · exact owed s p none
    · exact ((close s _ _).trans (offer _ _ _)).trans (owed _ p none)
  · exact .refl s

/-- R89: the start of a stream reaches nothing of an entry but its control list and its stall timer. -/
theorem State.startStream_keeps (hf : ∀ e c x, f { e with control := c, stall := x } = f e) (p : Nat) :
    Keeps f s (s.startStream p) := by
  by_cases idle : (s.printer p).standing ≠ Standing.none ∨ s.firstIn p .printing ≠ none ∨ s.firstIn p .released = none
  · rw [State.startStream_idle idle]
    exact .refl s
  · simp only [not_or, ne_eq, not_not] at idle
    obtain ⟨standing, printing, released⟩ := idle
    obtain ⟨j, released⟩ := Option.ne_none_iff_exists'.1 released
    obtain ⟨-, -, -, entry, others, -⟩ := State.startStream_begun standing printing released
    intro i
    by_cases hi : i = p
    · rw [hi, entry, hf]
    · rw [others i hi]

end Keeps

/-- The entry of a printer is replaced, and nothing else. -/
theorem State.updPrinter_entry (s : State) (p : Nat) (f : Printer → Printer) :
    EntryBecomes [] s (s.updPrinter p f) p (f (s.printer p)) := by
  refine ⟨(s.printer_updPrinter p f p).trans (if_pos rfl), fun i hi => (s.printer_updPrinter p f i).trans (if_neg hi), ?_⟩
  intro x hx
  cases x <;> first | exact rfl | exact ⟨rfl, rfl⟩ | exact ⟨rfl, rfl, rfl⟩ | exact ⟨rfl, rfl, rfl, rfl⟩ | exact absurd (by simp) hx

/-! ### The bands (R116, R117) -/

theorem bandOf_iff (n : Nat) : (bandOf n = .active ↔ n ≤ 159) ∧ (bandOf n = .watch ↔ 160 ≤ n ∧ n ≤ 319) ∧
    (bandOf n = .degraded ↔ 320 ≤ n ∧ n ≤ 639) ∧ (bandOf n = .withdrawn ↔ 640 ≤ n) := by
  unfold bandOf
  split
  · simp only [true_iff, reduceCtorEq, false_iff]; omega
  · split
    · simp only [true_iff, reduceCtorEq, false_iff]; omega
    · split <;> simp only [true_iff, reduceCtorEq, false_iff] <;> omega

/-- R116: the health moved to a band, with its notice. -/
def State.bandMoved (s : State) (p : Nat) (band : Health) : State :=
  (s.updPrinter p (fun e => { e with health := band })).healthChange p (s.printer p).health band

theorem State.bandMoved_entry (s : State) (p : Nat) (band : Health) :
    EntryBecomes noticeTraffic s (s.bandMoved p band) p { s.printer p with health := band } ∧
      NoticeFormed s (s.bandMoved p band) (.healthChange p (s.printer p).health band (s.printer p).score) := by
  let v := s.updPrinter p (fun e => { e with health := band })
  have entry (i : Nat) : v.printer i = if i = p then { s.printer p with health := band } else s.printer i :=
    s.printer_updPrinter p _ i
  have score : (v.printer p).score = (s.printer p).score := by rw [entry, if_pos rfl]
  have shape : s.bandMoved p band = v.notify (.healthChange p (s.printer p).health band (s.printer p).score) := by
    rw [← score]
    rfl
  rw [shape]
  have notified := (v.notify_moves (.healthChange p (s.printer p).health band (s.printer p).score)).changesOnly
  refine ⟨⟨?_, fun i hi => ?_, ?_⟩, ?_⟩
  · rw [State.notify_printer, entry, if_pos rfl]
  · rw [State.notify_printer, entry, if_neg hi]
  · exact ((s.updPrinter_entry p _).rest.mono (by decide)).trans (notified.mono (by decide))
  · exact (State.notify_formed (s := v) _).between ⟨rfl, rfl, rfl⟩ ⟨rfl, rfl⟩

theorem State.moveBand_stays {p : Nat} (h : (s.printer p).health = .withdrawn ∨ (s.printer p).health = bandOf (s.printer p).score) :
    s.moveBand p = s := by
  unfold State.moveBand
  refine if_pos ?_
  rcases h with h | h
  · rw [h]; rfl
  · simp [h]

theorem State.moveBand_moves {p : Nat} (h1 : (s.printer p).health ≠ .withdrawn)
    (h2 : (s.printer p).health ≠ bandOf (s.printer p).score) : s.moveBand p =
      let new := bandOf (s.printer p).score
      let t := s.bandMoved p new
      if new.rank < (s.printer p).health.rank then (if new.well then t.closeTest p else t)
      else match new with
        | .degraded => t.raiseCallout p .service .degraded
        | .withdrawn => ((t.raiseCallout p .urgent .withdrawn).mark (healthSlot p)).evacuate p true
        | _ => t := by
  unfold State.moveBand
  refine if_neg ?_
  simp [h1, h2]

/-- R116, R117: the health of a printer follows the band of its score. -/
theorem moveBand_spec (s : State) (p : Nat) :
    let band := bandOf (s.printer p).score
    ((s.printer p).health = .withdrawn ∨ (s.printer p).health = band → s.moveBand p = s) ∧
    ((s.printer p).health ≠ .withdrawn → (s.printer p).health ≠ band →
      ∃ u, EntryBecomes noticeTraffic s u p { s.printer p with health := band } ∧
        NoticeFormed s u (.healthChange p (s.printer p).health band (s.printer p).score) ∧
        (band = .active ∨ (band = .watch ∧ (s.printer p).health = .degraded) → s.moveBand p = u.closeTest p) ∧
        (band = .watch → (s.printer p).health = .active → s.moveBand p = u) ∧
        (band = .degraded → s.moveBand p = u.raiseCallout p .service .degraded) ∧
        (band = .withdrawn → s.moveBand p = ((u.raiseCallout p .urgent .withdrawn).mark (healthSlot p)).evacuate p true)) := by
  intro band
  refine ⟨State.moveBand_stays, fun h1 h2 => ?_⟩
  obtain ⟨entry, notice⟩ := s.bandMoved_entry p band
  have moves := State.moveBand_moves h1 h2
  refine ⟨s.bandMoved p band, entry, notice, fun better => ?_, fun watch old => ?_, fun degraded => ?_, fun withdrawn => ?_⟩
  · rw [moves]
    dsimp only
    have well : band.well = true ∧ band.rank < (s.printer p).health.rank := by
      rcases better with active | ⟨watch, old⟩
      · rw [active] at h2 ⊢
        revert h2
        cases (s.printer p).health <;> decide
      · rw [watch, old]
        decide
    rw [if_pos well.2, if_pos well.1]
  · rw [moves]
    dsimp only
    rw [show bandOf (s.printer p).score = .watch from watch, old, if_neg (by decide), watch]
  · rw [moves]
    dsimp only
    have worse : ¬band.rank < (s.printer p).health.rank := by
      rw [degraded]
      revert h1
      cases (s.printer p).health <;> decide
    rw [if_neg worse, show bandOf (s.printer p).score = .degraded from degraded, degraded]
  · rw [moves]
    dsimp only
    have worse : ¬band.rank < (s.printer p).health.rank := by
      rw [withdrawn]
      cases (s.printer p).health <;> decide
    rw [if_neg worse, show bandOf (s.printer p).score = .withdrawn from withdrawn, withdrawn]

/-- R114: the score falls by the faces handed on. -/
theorem lowerScore_spec (s : State) (p n : Nat) :
    ((s.printer p).health = .withdrawn → s.lowerScore p n = s) ∧
    ((s.printer p).health ≠ .withdrawn → ∃ u, s.lowerScore p n = u.moveBand p ∧
      EntryBecomes [] s u p { s.printer p with score := (s.printer p).score - n }) :=
  ⟨fun h => if_pos h, fun h => ⟨_, if_neg h, s.updPrinter_entry p _⟩⟩

/-- Settles O40: the score falls, and the health follows its band. -/
theorem healthFollowsTheBand : Obligations.HealthFollowsTheBand := by
  intro s p n
  obtain ⟨withdrawn, lowered⟩ := lowerScore_spec s p n
  obtain ⟨active, watch, degraded, gone⟩ := bandOf_iff (s.printer p).score
  obtain ⟨stays, moves⟩ := moveBand_spec s p
  exact ⟨withdrawn, lowered, _, active, watch, degraded, gone, stays, moves⟩

/-! ### Faults (R112, R113, R161) -/

/-- R113: a fault, and its weight. -/
theorem takeFault_spec (s : State) (p : Nat) (k : FaultKind) :
    let e : Printer := { s.printer p with lastFault := some (s.clock.uptime, k), faulted := true }
    ((s.printer p).health = .withdrawn → EntryBecomes [] s (s.takeFault p k) p e) ∧
    ((s.printer p).health ≠ .withdrawn → ∃ u, s.takeFault p k = u.moveBand p ∧
      EntryBecomes [] s u p { e with score := min 1023 ((s.printer p).score + k.weight) }) := by
  intro e
  let t := s.updPrinter p (fun e => { e with lastFault := some (s.clock.uptime, k), faulted := true })
  have marked : EntryBecomes [] s t p e := s.updPrinter_entry p _
  have health : (t.printer p).health = (s.printer p).health := by rw [marked.printer]
  refine ⟨fun h => ?_, fun h => ?_⟩
  · have stays : s.takeFault p k = t := if_pos (health.trans h)
    rw [stays]
    exact marked
  · have scored := t.updPrinter_entry p (fun e => { e with score := min Config.maxScore (e.score + k.weight) })
    refine ⟨_, if_neg (by rw [health]; exact h), by rw [scored.printer, marked.printer]; rfl, fun i hi => ?_,
      marked.rest.trans scored.rest⟩
    rw [scored.printers i hi, marked.printers i hi]

theorem exec_fault (h : Hdr) (code : Nat) (s : State) : exec (.fault h (some code)) s =
    printerMessage h (fun p t => if t.asleep then t.keepFault p code else t.takeFaultMessage p code) s := rfl

/-- R161: a FAULT while the part is asleep. -/
theorem State.keepFault_core {p code : Nat} (asleep : s.asleep = true) :
    (s.keepFault p code).clock.core = { s.clock.core with
      mode := .waking, kept := if s.clock.kept.length < 8 then s.clock.kept ++ [(p, code)] else s.clock.kept } ∧
      ChangesOnly [Piece.clock] s (s.keepFault p code) := by
  have woken : s.wake.clock.core = { s.clock.core with mode := .waking } := by
    rw [State.wake_core]
    have mode : s.clock.mode = .standby ∨ s.clock.mode = .waking := by
      unfold State.asleep at asleep
      simpa using asleep
    rcases mode with m | m <;> simp [m]
  have kept : s.wake.clock.kept = s.clock.kept := (congrArg Clock.kept woken :)
  have frame : ChangesOnly [Piece.clock] s (s.keepFault p code) := (State.keepFault_moves _ p code).changesOnly
  refine ⟨?_, frame⟩
  have bound : Config.keptFaults = 8 := rfl
  unfold State.keepFault
  dsimp only
  rw [kept, bound]
  split
  · show ({ s.wake.clock.core with kept := _ } : Clock) = _
    rw [woken]
  · exact woken

/-- R112: the fault kinds, by their codes. -/
theorem faultOfCode_eq (code : Nat) :
    faultOfCode code = [FaultKind.jam, .mediaOut, .doorOpen, .engine, .supplyFault][code]? := by
  unfold faultOfCode
  split
  case h_6 h0 h1 h2 h3 h4 =>
    refine (List.getElem?_eq_none ?_).symm
    show 5 ≤ code
    have (n : Nat) (h : code = n) : n ≠ 0 ∧ n ≠ 1 ∧ n ≠ 2 ∧ n ≠ 3 ∧ n ≠ 4 := by subst h; exact ⟨h0, h1, h2, h3, h4⟩
    have := this code rfl
    omega
  all_goals rfl

/-- Settles O39: a fault, and the FAULT message awake and asleep. -/
theorem faultsTaken : Obligations.FaultsTaken := by
  refine ⟨fun s p k => ?_, fun h code p s hr hs => ?_, fun h code p s up port station asleep => ?_⟩
  · obtain ⟨withdrawn, scored⟩ := takeFault_spec s p k
    refine ⟨withdrawn, fun h => ?_⟩
    obtain ⟨u, moves, entry⟩ := scored h
    refine ⟨u, moves, ?_⟩
    cases k <;> exact entry
  · have e : exec (.fault h (some code)) s = .next (s.takeFaultMessage p code).finish := by
      rw [exec_fault, printerMessage_ready hr, hr.awake]
      rfl
    refine ⟨s.frameFrom p, _, State.frameFrom_heard hs hr.awake, e, fun k hk => ?_, fun beyond => ?_⟩
    · have taken : s.takeFaultMessage p code = (s.frameFrom p).takeFault p k := by
        unfold State.takeFaultMessage
        rw [faultOfCode_eq, hk]
      rw [taken]
      exact State.finish_changes _
    · have taken : s.takeFaultMessage p code = s.frameFrom p := by
        unfold State.takeFaultMessage
        rw [faultOfCode_eq, List.getElem?_eq_none beyond]
      rw [taken]
      exact State.finish_changes _
  · have e : exec (.fault h (some code)) s = .next (s.keepFault p code).finish := by
      rw [exec_fault, printerMessage_taken up port station, if_pos asleep]
    obtain ⟨core, frame⟩ := State.keepFault_core (p := p) (code := code) asleep
    exact ⟨_, e, by rw [State.finish_core]; exact core, (frame.mono (by decide)).trans ((State.finish_changes _).mono (by decide))⟩

end Sys2Proof.Machine

/-! PROOFS. The standing set and its pause, presence, and the timers of both (R93, R120 to R123). -/

namespace Sys2Proof.Machine

set_option Elab.async false

variable {s t u v : State}

/-! ### The standing set replaced (R93, R120, R122) -/

theorem EntryBecomes.trans {l : List Piece} {p : Nat} {e x : Printer} (h : EntryBecomes l s t p e) (h' : EntryBecomes l t u p x) :
    EntryBecomes l s u p x :=
  ⟨h'.printer, fun i hi => (h'.printers i hi).trans (h.printers i hi), h.rest.trans h'.rest⟩

theorem EntryBecomes.finish {p : Nat} {e : Printer} (h : EntryBecomes [] s t p e) : EntryBecomes endOfStep s t.finish p e :=
  (h.wider (l := endOfStep) nofun).later (State.finish_printers) ((State.finish_changes t).mono (by decide))

/-- R122: a pause begins. -/
theorem State.beginPause_entry {p : Nat} (awake : s.asleep = false) :
    EntryBecomes [] s (s.beginPause p) p { s.printer p with
      stall := (s.printer p).stall.suspend
      limit := if (s.printer p).service = .inService ∨ (s.printer p).service = .parking
        then .running (s.printer p).cfg.standingLimit else (s.printer p).limit } := by
  let t := s.updPrinter p (fun e => { e with stall := e.stall.suspend })
  have suspended : EntryBecomes [] s t p { s.printer p with stall := (s.printer p).stall.suspend } := s.updPrinter_entry p _
  have shape : s.beginPause p = t.startLimit p := rfl
  have running : t.startTimer (s.printer p).cfg.standingLimit = .running (s.printer p).cfg.standingLimit := by
    unfold State.startTimer
    rw [show t.asleep = false from awake]
    rfl
  rw [shape]
  unfold State.startLimit
  dsimp only
  rw [suspended.printer]
  by_cases serves : (s.printer p).service = .inService ∨ (s.printer p).service = .parking
  · rw [if_pos serves, if_pos (by simpa using serves)]
    have started := t.updPrinter_entry p (fun e => { e with limit := t.startTimer e.cfg.standingLimit })
    rw [suspended.printer] at started
    dsimp only at started
    rw [running] at started
    exact suspended.trans started
  · rw [if_neg serves, if_neg (by simpa using serves)]
    exact suspended

/-- R93, R122: an entry whose pause ends. -/
def PrinterOf.unpaused (e : Printer) : Printer :=
  { e with
    limit := .stopped
    stall := match e.stall with
      | .suspended _ => .running e.cfg.stallTimeout
      | y => y }

theorem State.endPause_eq (s : State) (p : Nat) : s.endPause p = (s.updPrinter p PrinterOf.unpaused).startStream p := rfl

/-- R93, R120, R122: a standing set replaced while the part is awake; a pause that ends lets a stream start. -/
theorem State.setStanding_stood {p : Nat} (awake : s.asleep = false) (x : Standing) :
    ∃ u, EntryBecomes [] s u p ((s.printer p).stood x) ∧ s.setStanding p x =
      if (s.printer p).standing ≠ Standing.none ∧ x = Standing.none then u.startStream p else u := by
  let t := s.updPrinter p (fun e => { e with standing := x })
  have replaced : EntryBecomes [] s t p { s.printer p with standing := x } := s.updPrinter_entry p _
  have was : (s.printer p).standing.isEmpty = true ↔ (s.printer p).standing = Standing.none := Standing.isEmpty_iff
  have is : x.isEmpty = true ↔ x = Standing.none := Standing.isEmpty_iff
  unfold PrinterOf.stood State.setStanding
  dsimp only
  by_cases h1 : (s.printer p).standing = Standing.none
  · have e1 := was.2 h1
    by_cases h2 : x = Standing.none
    · have e2 := is.2 h2
      refine ⟨t, ?_, ?_⟩
      · rw [if_neg (fun c => c.2 h2), if_neg (fun c => c.1 h1)]
        exact replaced
      · refine Eq.trans ?_ (if_neg fun c => c.1 h1).symm
        rw [e1, e2]
        rfl
    · have e2 : x.isEmpty = false := Bool.eq_false_iff.2 (is.not.2 h2)
      refine ⟨t.beginPause p, ?_, ?_⟩
      · rw [if_pos ⟨h1, h2⟩]
        have begun := t.beginPause_entry (p := p) awake
        rw [replaced.printer] at begun
        exact replaced.trans begun
      · refine Eq.trans ?_ (if_neg fun c => c.1 h1).symm
        rw [e1, e2]
        rfl
  · have e1 : (s.printer p).standing.isEmpty = false := Bool.eq_false_iff.2 (was.not.2 h1)
    by_cases h2 : x = Standing.none
    · have e2 := is.2 h2
      refine ⟨t.updPrinter p PrinterOf.unpaused, ?_, ?_⟩
      · rw [if_neg (fun c => h1 c.1), if_pos ⟨h1, h2⟩]
        have ended := t.updPrinter_entry p PrinterOf.unpaused
        rw [replaced.printer] at ended
        exact replaced.trans ended
      · refine Eq.trans ?_ (if_pos ⟨h1, h2⟩).symm
        rw [e1, e2]
        rfl
    · have e2 : x.isEmpty = false := Bool.eq_false_iff.2 (is.not.2 h2)
      refine ⟨t, ?_, ?_⟩
      · rw [if_neg (fun c => h1 c.1), if_neg (fun c => h2 c.2)]
        exact replaced
      · refine Eq.trans ?_ (if_neg fun c => h2 c.2).symm
        rw [e1, e2]
        rfl

theorem PrinterOf.heard_kept (e : Printer) : e.heard.standing = e.standing ∧ e.heard.cfg = e.cfg := by
  unfold PrinterOf.heard
  split <;> exact ⟨rfl, rfl⟩

/-- R120, R138: a STATUS of a Present printer. -/
theorem status_taken {h : Hdr} {r : StatusBody} {p : Nat} (hr : PrinterReady h p s) (hs : Present s p) :
    ∃ u v t,
      let x : Standing := { jam := r.jam, mediaOut := r.mediaOut, doorOpen := r.doorOpen, unreachable := false }
      EntryBecomes [] s u p ((s.printer p).heard.stood x) ∧
      v = (if (s.printer p).standing ≠ Standing.none ∧ x = Standing.none then (u.startStream p).closeTest p
            else u.closeTest p) ∧
      exec (.status h (some r)) s = .next t ∧
      ChangesOnly endOfStep (if (s.printer p).cfg.mode = .full then v.takeReports p r.reports else v) t := by
  let f := s.frameFrom p
  have heard : Heard s f p := State.frameFrom_heard hs hr.awake
  let x : Standing := { jam := r.jam, mediaOut := r.mediaOut, doorOpen := r.doorOpen, unreachable := false }
  obtain ⟨standing, cfg⟩ := (s.printer p).heard_kept
  have core : f.clock.core = s.clock.core := heard.rest .clock (by decide)
  have awake : f.asleep = false := by
    unfold State.asleep
    rw [(Clock.eq_of_core core).2.2.2.2.1]
    exact hr.awake
  have reported : (f.printer p).standing.reported r = x := by
    rw [heard.printer, Standing.reported, standing, show (s.printer p).standing.unreachable = false from hs]
  obtain ⟨u, stood, set⟩ := State.setStanding_stood (s := f) (p := p) awake x
  rw [heard.printer, standing] at set
  rw [heard.printer] at stood
  let v := (f.setStanding p x).closeTest p
  have modes : (v.printer p).cfg = (s.printer p).cfg := by
    have first : Keeps PrinterOf.cfg u (f.setStanding p x) := by
      rw [set]
      split
      · exact State.startStream_keeps (fun _ _ _ => rfl) p
      · exact Keeps.refl _
    rw [(first.trans (State.closeTest_keeps (fun _ _ => rfl) p)) p, stood.printer]
    refine Eq.trans ?_ cfg
    unfold PrinterOf.stood
    split
    · rfl
    · split <;> rfl
  have e : exec (.status h (some r)) s = .next (statusRule r p f).finish := by
    show execStatus h (some r) s = _
    rw [execStatus, deliveryMessage_ready hr]
  have rule : statusRule r p f = if (s.printer p).cfg.mode = .full then v.takeReports p r.reports else v := by
    unfold statusRule
    dsimp only
    rw [reported]
    show (if (v.printer p).cfg.mode = .full then _ else _) = _
    rw [modes]
  refine ⟨u, v, _, ⟨stood.printer, fun i hi => (stood.printers i hi).trans (heard.printers i hi), heard.rest.trans stood.rest⟩,
    ?_, e, by rw [rule]; exact State.finish_changes _⟩
  show (f.setStanding p x).closeTest p = _
  rw [set]
  split <;> rfl

/-- R121: the expiry of a presence timer. -/
theorem presence_expires {p : Nat} (up : s.phase = .up) (awake : s.asleep = false) :
    ((s.printer p).presence.runs = true →
      ∃ t, exec (.presenceTimerExpiry p) s = .next t ∧
        EntryBecomes endOfStep s t p
          { (s.printer p).stood { (s.printer p).standing with unreachable := true } with presence := .stopped }) ∧
    ((s.printer p).presence.runs = false → ∃ t, exec (.presenceTimerExpiry p) s = .next t ∧ ChangesOnly endOfStep s t) := by
  have e (act : State) (h : execPresenceTimerExpiry p s = .next act.finish) :
      exec (.presenceTimerExpiry p) s = .next act.finish := h
  refine ⟨fun runs => ?_, fun idle => ⟨_, e s ?_, State.finish_changes s⟩⟩
  · let t := s.updPrinter p (fun e => { e with presence := .stopped })
    have stopped : EntryBecomes [] s t p { s.printer p with presence := .stopped } := s.updPrinter_entry p _
    obtain ⟨u, stood, set⟩ := State.setStanding_stood (s := t) (p := p) awake
      { (s.printer p).standing with unreachable := true }
    rw [if_neg (fun c => Bool.noConfusion (congrArg Standing.unreachable c.2))] at set
    rw [stopped.printer] at stood
    refine ⟨u.finish, e u ?_, ?_⟩
    · rw [execPresenceTimerExpiry, State.whenUp_up _ up, if_pos runs, ← set]
    · have commutes : PrinterOf.stood { s.printer p with presence := .stopped }
          { (s.printer p).standing with unreachable := true } =
          { (s.printer p).stood { (s.printer p).standing with unreachable := true } with presence := .stopped } := by
        unfold PrinterOf.stood
        dsimp only
        split
        · rfl
        · split <;> rfl
      rw [← commutes]
      exact (stopped.trans stood).finish
  · rw [execPresenceTimerExpiry, State.whenUp_up _ up, if_neg (by rw [idle]; decide)]

/-- R123: the expiry of a standing limit timer. -/
theorem limit_expires {p : Nat} (up : s.phase = .up) :
    ((s.printer p).limit.runs = true →
      ∃ u t, EntryBecomes [] s u p { s.printer p with limit := .stopped } ∧
        exec (.standingLimitExpiry p) s = .next t ∧
        ChangesOnly endOfStep ((u.evacuate p false).raiseCallout p .attention (.standingLimit (s.printer p).standing)) t) ∧
    ((s.printer p).limit.runs = false → ∃ t, exec (.standingLimitExpiry p) s = .next t ∧ ChangesOnly endOfStep s t) := by
  have e : exec (.standingLimitExpiry p) s = .next (if (s.printer p).limit.runs then
      ((s.updPrinter p (fun e => { e with limit := .stopped })).evacuate p false).raiseCallout p .attention
        (.standingLimit (s.printer p).standing) else s).finish := by
    show execStandingLimitExpiry p s = _
    rw [execStandingLimitExpiry, State.whenUp_up _ up]
  refine ⟨fun runs => ⟨_, _, s.updPrinter_entry p _, e, by rw [if_pos runs]; exact State.finish_changes _⟩, fun idle => ⟨_, e, ?_⟩⟩
  rw [idle]
  exact State.finish_changes s

end Sys2Proof.Machine

/-! PROOFS. The frame of an Absent printer, and the messages of printers that such a frame comes with (R121). -/

namespace Sys2Proof.Machine

set_option Elab.async false

variable {s t u v : State}

/-- Moves keep the tables in their canonical forms. -/
theorem Moves.keeps_tables {l : List Piece} (h : Moves l s t) (hs : s.TablesCanonical) : t.TablesCanonical := by
  induction h with
  | refl => exact hs
  | tail _ x _ ih => exact x.keeps_tables ih

theorem State.asleep_congr {l : List Piece} (h : ChangesOnly l s t) (hl : Piece.clock ∉ l := by decide) : t.asleep = s.asleep := by
  have core : t.clock.core = s.clock.core := h .clock hl
  unfold State.asleep
  rw [(Clock.eq_of_core core).2.2.2.2.1]

/-- R182: the configuration and the service of the entries say which printer a station is. -/
theorem State.printerOf_congr (hs : s.TablesCanonical) (ht : t.TablesCanonical) (cfg : Keeps PrinterOf.cfg s t)
    (service : Keeps PrinterOf.service s t) (station : Nat) : t.printerOf station = s.printerOf station := by
  have found (s : State) (h : s.TablesCanonical) := Tbl.find_iff (d := printerFactory)
    (f := fun _ (e : Printer) => e.service ≠ .unused && e.cfg.station == some station) (Tbl.wf_iff.1 h.printers).1 (fun _ => rfl)
  refine Option.ext fun p => (found t ht p).trans (Iff.trans ?_ (found s hs p).symm)
  show (((t.printer p).service ≠ .unused && (t.printer p).cfg.station == some station) = true ∧
      ∀ i < p, ((t.printer i).service ≠ .unused && (t.printer i).cfg.station == some station) = false) ↔
    ((s.printer p).service ≠ .unused && (s.printer p).cfg.station == some station) = true ∧
      ∀ i < p, ((s.printer i).service ≠ .unused && (s.printer i).cfg.station == some station) = false
  simp only [cfg _, service _]

/-! ### The frame (R121) -/

/-- R121: an entry without UNREACHABLE. -/
def PrinterOf.reached (e : Printer) : Printer := { e with standing := { e.standing with unreachable := false } }

theorem State.becomePresent_absent {p : Nat} (absent : (s.printer p).standing.unreachable = true) :
    s.becomePresent p =
      let t := (s.updPrinter p PrinterOf.reached).closeTest p
      if (s.printer p).reached.standing = Standing.none then (t.updPrinter p PrinterOf.unpaused).startStream p else t := by
  have same : s.updPrinter p (fun e => { e with standing := { (s.printer p).standing with unreachable := false } }) =
      s.updPrinter p PrinterOf.reached := rfl
  unfold State.becomePresent
  rw [if_pos absent]
  dsimp only
  rw [same]
  refine if_congr ?_ rfl rfl
  exact Standing.isEmpty_iff

theorem State.becomePresent_of_present {p : Nat} (h : Present s p) : s.becomePresent p = s := by
  unfold State.becomePresent
  exact if_neg (by rw [show (s.printer p).standing.unreachable = false from h]; decide)

/-- R121: a printer is Present once its frame has been taken. -/
theorem State.becomePresent_present (s : State) (p : Nat) : Present (s.becomePresent p) p := by
  by_cases absent : (s.printer p).standing.unreachable = true
  · rw [State.becomePresent_absent absent]
    have reached := s.updPrinter_entry p PrinterOf.reached
    have closed : (((s.updPrinter p PrinterOf.reached).closeTest p).printer p).standing = (s.printer p).reached.standing := by
      rw [State.closeTest_keeps (f := PrinterOf.standing) (fun _ _ => rfl) p p, reached.printer]
    unfold Present
    dsimp only
    split
    · rw [State.startStream_keeps (f := PrinterOf.standing) (fun _ _ _ => rfl) p p,
        Keeps.updPrinter (f := PrinterOf.standing) (g := PrinterOf.unpaused) (fun _ => rfl) p p, closed]
      rfl
    · rw [closed]
      rfl
  · have here : Present s p := Bool.eq_false_iff.2 absent
    rw [State.becomePresent_of_present here]
    exact here

/-- R121: a frame keeps the configuration and the service of every entry. -/
theorem State.frameFrom_keeps {β : Type} {f : Printer → β}
    (hf : ∀ e x stall limit control owed presence, f { e with
      standing := x, stall := stall, limit := limit, control := control, owed := owed, presence := presence } = f e)
    (s : State) (p : Nat) : Keeps f s (s.frameFrom p) := by
  have present : Keeps f s (s.becomePresent p) := by
    by_cases absent : (s.printer p).standing.unreachable = true
    · rw [State.becomePresent_absent absent]
      have first : Keeps f s (s.updPrinter p PrinterOf.reached) :=
        .updPrinter (fun e => hf e _ e.stall e.limit e.control e.owed e.presence) p
      have second := first.trans (State.closeTest_keeps (fun e o => hf e e.standing e.stall e.limit e.control o e.presence) p)
      dsimp only
      split
      · refine (second.trans (.updPrinter (fun e => hf e e.standing _ _ e.control e.owed e.presence) p)).trans
          (State.startStream_keeps (fun e c x => hf e e.standing x e.limit c e.owed e.presence) p)
      · exact second
    · rw [State.becomePresent_of_present (Bool.eq_false_iff.2 absent)]
      exact .refl s
  unfold State.frameFrom
  dsimp only
  split
  · exact present
  · exact present.trans (.updPrinter (fun e => hf e e.standing e.stall e.limit e.control e.owed _) p)

/-- R121: a second frame finds the printer as the first left it. -/
theorem State.frameFrom_twice (s : State) (p : Nat) : (s.frameFrom p).frameFrom p = s.frameFrom p := by
  have present := s.becomePresent_present p
  unfold State.frameFrom
  dsimp only
  by_cases silent : ((s.becomePresent p).printer p).cfg.mode = .silent
  · rw [if_pos silent, State.becomePresent_of_present present, if_pos silent]
  · rw [if_neg silent]
    let t := s.becomePresent p
    let w := t.updPrinter p (fun e => { e with presence := t.startTimer e.cfg.presenceInterval })
    have entry : w.printer p = { t.printer p with presence := t.startTimer (t.printer p).cfg.presenceInterval } :=
      (t.updPrinter_entry p _).printer
    have again : w.becomePresent p = w := State.becomePresent_of_present (by rw [Present, entry]; exact present)
    show (if ((w.becomePresent p).printer p).cfg.mode = .silent then w.becomePresent p else _) = w
    rw [again, if_neg (by rw [entry]; exact silent)]
    have same : w.startTimer = t.startTimer := rfl
    rw [same]
    unfold State.updPrinter
    rw [entry]
    exact State.setPrinter_setPrinter t p _ _

/-- R121: the frame of an Absent printer while the part is awake. -/
theorem absentFrame {p : Nat} (absent : (s.printer p).standing.unreachable = true) (awake : s.asleep = false) :
    ∃ u v w, EntryBecomes [] s u p { s.printer p with standing := { (s.printer p).standing with unreachable := false } } ∧
      (∃ x, ((s.printer p).standing = { Standing.none with unreachable := true } →
          EntryBecomes [] (u.closeTest p) x p { (u.closeTest p).printer p with
            limit := .stopped
            stall := match ((u.closeTest p).printer p).stall with
              | .suspended _ => .running (s.printer p).cfg.stallTimeout
              | y => y } ∧ v = x.startStream p) ∧
        ((s.printer p).standing ≠ { Standing.none with unreachable := true } → v = u.closeTest p)) ∧
      ((s.printer p).cfg.mode = .silent → w = v) ∧
      ((s.printer p).cfg.mode ≠ .silent →
        EntryBecomes [] v w p { v.printer p with presence := .running (s.printer p).cfg.presenceInterval }) ∧
      s.frameFrom p = w := by
  let u := s.updPrinter p PrinterOf.reached
  let v := s.becomePresent p
  have reached : EntryBecomes [] s u p (s.printer p).reached := s.updPrinter_entry p _
  have alone : (s.printer p).standing = { Standing.none with unreachable := true } ↔
      (s.printer p).reached.standing = Standing.none := by
    unfold PrinterOf.reached
    revert absent
    rcases (s.printer p).standing with ⟨a, b, c, d⟩
    rintro rfl
    simp [Standing.none]
  have became : v = _ := State.becomePresent_absent absent
  have cfgClosed : ((u.closeTest p).printer p).cfg = (s.printer p).cfg := by
    rw [State.closeTest_keeps (f := PrinterOf.cfg) (fun _ _ => rfl) p p, reached.printer]
    rfl
  have cfg : (v.printer p).cfg = (s.printer p).cfg := by
    rw [became]
    dsimp only
    split
    · rw [State.startStream_keeps (f := PrinterOf.cfg) (fun _ _ _ => rfl) p p,
        Keeps.updPrinter (f := PrinterOf.cfg) (g := PrinterOf.unpaused) (fun _ => rfl) p p]
      exact cfgClosed
    · exact cfgClosed
  have framed : s.frameFrom p = if (s.printer p).cfg.mode = .silent then v
      else v.updPrinter p (fun e => { e with presence := v.startTimer e.cfg.presenceInterval }) := by
    rw [← cfg]
    rfl
  have started : v.startTimer (s.printer p).cfg.presenceInterval = .running (s.printer p).cfg.presenceInterval := by
    have mode : v.asleep = s.asleep := State.asleep_congr (s.becomePresent_moves p).changesOnly
    unfold State.startTimer
    rw [mode, awake]
    rfl
  refine ⟨u, v, s.frameFrom p, reached, ⟨(u.closeTest p).updPrinter p PrinterOf.unpaused, fun h => ⟨?_, ?_⟩, fun h => ?_⟩,
    fun silent => ?_, fun heard => ?_, rfl⟩
  · have entry := (u.closeTest p).updPrinter_entry p PrinterOf.unpaused
    rw [← cfgClosed]
    exact entry
  · rw [became]
    exact if_pos (alone.1 h)
  · rw [became]
    exact if_neg (alone.not.1 h)
  · rw [framed, if_pos silent]
  · have entry := v.updPrinter_entry p (fun e => { e with presence := v.startTimer e.cfg.presenceInterval })
    rw [cfg, started, ← cfg] at entry
    rw [← cfg]
    rw [framed, if_neg heard]
    exact entry

/-! ### The message that comes with the frame (R121) -/

/-- R121: every printer message begins with the frame; a panel request does so asleep too. -/
theorem exec_framed {c : Instr} {h : Hdr} (hc : printerMessageOf c = some h) (p : Nat) :
    ∃ act : Nat → State → State, (∀ s, exec c s = printerMessage h act s) ∧
      ∀ s, s.asleep = false ∨ (∃ b, panelOf c = some (h, b)) → act p s = act p (s.frameFrom p) := by
  have awake (s : State) : (s.frameFrom p).asleep = s.asleep := State.asleep_congr (s.frameFrom_moves p).changesOnly
  have twice (s : State) := s.frameFrom_twice p
  have delivery {α : Type} (b : Option α) (act : α → Nat → State → State) (s : State) (ha : s.asleep = false) :
      (if s.asleep then s else match b with
        | none => s.frameFrom p
        | some x => act x p (s.frameFrom p)) =
      (if (s.frameFrom p).asleep then s.frameFrom p else match b with
        | none => (s.frameFrom p).frameFrom p
        | some x => act x p ((s.frameFrom p).frameFrom p)) := by
    rw [awake, ha, twice]
    rfl
  cases c <;> simp only [printerMessageOf, Option.some.injEq, reduceCtorEq] at hc <;> subst hc
  case grant g b => exact ⟨_, fun _ => rfl, fun s hs => delivery b (grantRule g) s (hs.resolve_right nofun)⟩
  case pageReport g b => exact ⟨_, fun _ => rfl, fun s hs => delivery b (pageReportRule g) s (hs.resolve_right nofun)⟩
  case status g b => exact ⟨_, fun _ => rfl, fun s hs => delivery b statusRule s (hs.resolve_right nofun)⟩
  case fault g b =>
    refine ⟨_, fun _ => rfl, fun s hs => ?_⟩
    have ha : s.asleep = false := hs.resolve_right nofun
    cases b with
    | none =>
      dsimp only
      rw [awake, ha, twice]
      rfl
    | some code =>
      dsimp only
      rw [awake, ha]
      show s.takeFaultMessage p code = (s.frameFrom p).takeFaultMessage p code
      unfold State.takeFaultMessage
      rw [twice]
  all_goals exact ⟨_, fun _ => rfl, fun s _ => by rw [twice]⟩

/-- R121: a message of an Absent printer is taken as one of the Present printer that its frame leaves. -/
theorem absentMessage {c : Instr} {h : Hdr} {p : Nat} (hc : printerMessageOf c = some h) (up : s.phase = .up)
    (port : h.port = .fleet) (hw : s.TablesCanonical) (station : s.printerOf h.src = some p)
    (taken : s.asleep = false ∨ ∃ b, panelOf c = some (h, b)) :
    exec c s = exec c (s.frameFrom p) ∧ Present (s.frameFrom p) p ∧ (s.frameFrom p).printerOf h.src = some p ∧
      (s.frameFrom p).asleep = s.asleep ∧ (s.frameFrom p).phase = .up := by
  have moves := s.frameFrom_moves p
  have phase : (s.frameFrom p).phase = .up := (moves.changesOnly .phase (by decide)).trans up
  have same : (s.frameFrom p).printerOf h.src = some p := by
    rw [← station]
    exact State.printerOf_congr hw (moves.keeps_tables hw) (s.frameFrom_keeps (fun _ _ _ _ _ _ _ => rfl) p)
      (s.frameFrom_keeps (fun _ _ _ _ _ _ _ => rfl) p) h.src
  obtain ⟨act, e, framed⟩ := exec_framed hc p
  refine ⟨?_, ?_, same, State.asleep_congr moves.changesOnly, phase⟩
  · rw [e, e, printerMessage_taken up port station, printerMessage_taken phase port same, framed s taken]
  · have present := s.becomePresent_present p
    unfold State.frameFrom
    dsimp only
    split
    · exact present
    · unfold Present
      rw [((s.becomePresent p).updPrinter_entry p _).printer]
      exact present

/-- Settles O41: STATUS, the timers of presence and of the standing limit, and the frames of Absent printers. -/
theorem standingConditions : Obligations.StandingConditions :=
  ⟨⟨fun _ _ _ _ hr hs => status_taken hr hs, fun _ _ up awake => presence_expires up awake, fun _ _ up => limit_expires up⟩,
    fun _ _ absent awake => absentFrame absent awake,
    fun _ _ _ _ hc up port hw station _ taken => absentMessage hc up port hw station taken⟩

end Sys2Proof.Machine

/-! PROOFS. What a printer answers during delivery: GRANT and PAGE_REPORT (R91, R93 to R97, R100). -/

namespace Sys2Proof.Machine

set_option Elab.async false

variable {s t u v : State}

/-! ### Faces handed on by a printer whose health follows its score -/

/-- R116: the health of every entry follows its score. -/
theorem State.HealthFollowsScore.printer (h : s.HealthFollowsScore) (p : Nat) : (s.printer p).HealthSound :=
  Tbl.get_of_forall ⟨Nat.zero_le _, fun _ => rfl⟩ h p

/-- R114, R116: a score that falls moves no printer to a worse band, so that nothing is evacuated. -/
theorem State.lowerScore_mild {p : Nat} (sound : (s.printer p).HealthSound) (n : Nat) :
    ChangesOnly calloutPieces s (s.lowerScore p n) ∧ ∀ {β : Type} {f : Printer → β},
      (∀ e score health owed, f { e with score := score, health := health, owed := owed } = f e) → Keeps f s (s.lowerScore p n) := by
  obtain ⟨stays, lowers⟩ := lowerScore_spec s p n
  by_cases withdrawn : (s.printer p).health = .withdrawn
  · rw [stays withdrawn]
    exact ⟨ChangesOnly.refl _ _, fun _ => .refl s⟩
  obtain ⟨u, eq, scored⟩ := lowers withdrawn
  have first {β : Type} {f : Printer → β} (hf : ∀ e score health owed, f { e with score := score, health := health, owed := owed } =
      f e) : Keeps f s u := fun i => by
    by_cases hi : i = p
    · rw [hi, scored.printer]
      exact hf (s.printer p) _ (s.printer p).health (s.printer p).owed
    · rw [scored.printers i hi]
  have low : (s.printer p).score ≤ 639 := by
    have band := sound.band withdrawn
    by_contra high
    exact withdrawn (band.trans ((bandOf_iff _).2.2.2.2 (by omega)))
  have less : bandOf (u.printer p).score = (u.printer p).health ∨ bandOf (u.printer p).score = .active ∨
      (bandOf (u.printer p).score = .watch ∧ (u.printer p).health = .degraded) := by
    rw [scored.printer]
    dsimp only
    rw [sound.band withdrawn]
    unfold bandOf
    repeat' split
    all_goals first | (exfalso; omega) | decide
  have withdrawn : (u.printer p).health ≠ .withdrawn := by rw [scored.printer]; exact withdrawn
  obtain ⟨unmoved, moved⟩ := moveBand_spec u p
  rw [eq]
  by_cases same : (u.printer p).health = bandOf (u.printer p).score
  · rw [unmoved (.inr same)]
    exact ⟨scored.rest.mono (by decide), first⟩
  · obtain ⟨w, entry, -, better, -⟩ := moved withdrawn same
    rw [better (less.resolve_left fun c => same c.symm)]
    refine ⟨(scored.rest.mono (by decide)).trans ((entry.rest.mono (by decide)).trans (w.closeTest_moves p).changesOnly),
      fun {β f} hf => (first hf).trans (Keeps.trans (fun i => ?_)
        (State.closeTest_keeps (fun e o => hf e e.score e.health o) p))⟩
    by_cases hi : i = p
    · rw [hi, entry.printer]
      exact hf (u.printer p) (u.printer p).score _ (u.printer p).owed
    · rw [entry.printers i hi]

/-- R96, R98, R99: faces handed on reach no job and no Delivery Queue. -/
theorem State.handFaces_mild {p : Nat} (sound : (s.printer p).HealthSound) (mono colour : Nat) :
    ChangesOnly calloutPieces s (s.handFaces p mono colour) ∧ Keeps PrinterOf.queue s (s.handFaces p mono colour) := by
  unfold State.handFaces
  split
  · exact ⟨ChangesOnly.refl _ _, .refl s⟩
  · let u := s.supplyFaces p mono colour
    have entry (i : Nat) : u.printer i = if i = p then (s.printer p).counted mono colour else s.printer i :=
      s.supplyFaces_printer p mono colour i
    have soundU : (u.printer p).HealthSound := by
      rw [entry, if_pos rfl]
      exact ⟨sound.score, sound.band⟩
    have queues : Keeps PrinterOf.queue s u := fun i => by
      rw [entry]
      split
      next e => rw [e]; rfl
      next => rfl
    obtain ⟨frame, keeps⟩ := State.lowerScore_mild soundU (mono + colour)
    have counted := (s.supplyFaces_moves p mono colour).changesOnly
    have last (w : State) (g : Printer → Printer) (hg : ∀ e, (g e).queue = e.queue) :
        ChangesOnly calloutPieces w (w.updPrinter p g) ∧ Keeps PrinterOf.queue w (w.updPrinter p g) :=
      ⟨(w.updPrinter_entry p g).rest.mono (by decide), .updPrinter hg p⟩
    obtain ⟨rest, kept⟩ := last (u.lowerScore p (mono + colour)) (fun e =>
      { e with lifeMono := min Config.maxLifetime (e.lifeMono + mono)
               lifeColour := min Config.maxLifetime (e.lifeColour + colour) }) (fun _ => rfl)
    exact ⟨((counted.mono (by decide)).trans frame).trans rest, (queues.trans (keeps fun _ _ _ _ => rfl)).trans kept⟩

/-! ### GRANT (R91, R93, R94) -/

theorem PrinterOf.heard_queue (e : Printer) : e.heard.queue = e.queue := by
  unfold PrinterOf.heard
  split <;> rfl

theorem PrinterOf.heard_stallFull (e : Printer) : e.heard.stallFull = e.stallFull := by
  unfold PrinterOf.stallFull
  rw [e.heard_kept.1, e.heard_kept.2]

theorem State.restartStall_entry (s : State) (p : Nat) :
    EntryBecomes [] s (s.restartStall p) p { s.printer p with stall := (s.printer p).stallFull } := by
  rw [← PrinterOf.stallFromFull_eq]
  exact s.updPrinter_entry p _

theorem exec_grant {h : Hdr} {n p : Nat} (hr : PrinterReady h p s) :
    exec (.grant h (some n)) s = .next (grantRule h n p (s.frameFrom p)).finish :=
  deliveryMessage_ready hr

theorem grantRule_stray {h : Hdr} {n p : Nat} (stray : h.jobTag ∉ (s.printer p).queue) :
    grantRule h n p s = s.takeFault p .streamError := by
  unfold grantRule
  exact if_pos (by simpa using stray)

theorem grantRule_named {h : Hdr} {n p : Nat} {j : Job} (named : h.jobTag ∈ (s.printer p).queue)
    (job : s.job h.jobTag = some j) : grantRule h n p s =
      if j.state = .printing ∧ j.allowed < n then (s.updJob j.tag (fun x => { x with allowed := n })).restartStall p else s := by
  unfold grantRule
  rw [if_neg (by simpa using named), job]
  simp only [Bool.and_eq_true, decide_eq_true_eq]

/-- R91, R94: a GRANT for a job of the queue. -/
theorem grant_named {h : Hdr} {n p : Nat} {j : Job} (hr : PrinterReady h p s) (hs : Present s p)
    (named : h.jobTag ∈ (s.printer p).queue) (job : s.job h.jobTag = some j) :
    ∃ t, exec (.grant h (some n)) s = .next t ∧ OtherPrinters p s t ∧ OtherJobs h.jobTag s t ∧
      (j.state = .printing → j.allowed < n → t.job h.jobTag = some { j with allowed := n } ∧
        t.printer p = { (s.printer p).heard with stall := (s.printer p).stallFull } ∧
        ChangesOnly ([Piece.jobRecords, .printers] ++ endOfStep) s t) ∧
      (j.state ≠ .printing ∨ n ≤ j.allowed → t.printer p = (s.printer p).heard ∧
        ChangesOnly ([Piece.printers] ++ endOfStep) s t) := by
  let f := s.frameFrom p
  have heard : Heard s f p := State.frameFrom_heard hs hr.awake
  have jobs (g : Nat) : f.job g = s.job g := State.job_congr (heard.rest .jobRecords (by decide)) g
  have tag : j.tag = h.jobTag := s.tag_of_job job
  have rule := grantRule_named (s := f) (n := n) (p := p) (by rw [heard.printer, PrinterOf.heard_queue]; exact named)
    ((jobs _).trans job)
  have e := exec_grant (n := n) hr
  by_cases raises : j.state = .printing ∧ j.allowed < n
  · rw [if_pos raises] at rule
    let g := f.updJob j.tag (fun x => { x with allowed := n })
    have records (x : Nat) : g.job x = if x = j.tag then (f.job x).map (fun x => { x with allowed := n }) else f.job x :=
      State.job_updJob _ j.tag (fun x => { x with allowed := n }) (fun _ => rfl) x
    have stall := g.restartStall_entry p
    have later (x : Nat) : (g.restartStall p).job x = g.job x := State.job_congr (stall.rest .jobRecords (by decide)) x
    refine ⟨_, e, fun i hi => ?_, fun x hx => ?_, fun _ _ => ⟨?_, ?_, ?_⟩, fun c => absurd raises fun r => ?_⟩
    · rw [State.finish_printer, rule, stall.printers i hi]
      exact heard.printers i hi
    · rw [State.finish_job, rule, later, records, if_neg (by rw [tag]; exact hx), jobs]
    · rw [State.finish_job, rule, later, records, if_pos tag.symm, jobs, job]
      rfl
    · rw [State.finish_printer, rule, stall.printer]
      show { f.printer p with stall := (f.printer p).stallFull } = _
      rw [heard.printer, PrinterOf.heard_stallFull]
    · rw [rule]
      have changed : ChangesOnly [Piece.jobRecords] f g := (State.updJob_moves _ _ _).changesOnly
      exact (((heard.rest.mono (by decide)).trans (changed.mono (by decide))).trans (stall.rest.mono (by decide))).trans
        ((State.finish_changes _).mono (by decide))
    · rcases c with c | c
      · exact c r.1
      · exact Nat.not_lt.2 c r.2
  · rw [if_neg raises] at rule
    refine ⟨_, e, fun i hi => ?_, fun x hx => ?_, fun a b => absurd ⟨a, b⟩ raises, fun _ => ⟨?_, ?_⟩⟩
    · rw [State.finish_printer, rule]
      exact heard.printers i hi
    · rw [State.finish_job, rule, jobs]
    · rw [State.finish_printer, rule, heard.printer]
    · rw [rule]
      exact (heard.rest.mono (by decide)).trans ((State.finish_changes _).mono (by decide))

/-- Settles O32: a GRANT that raises the chunks allowed, one that does not, and one that names no job of the queue. -/
theorem grantTaken : Obligations.GrantTaken := by
  intro h n p s hr hs
  refine ⟨fun j named job => grant_named hr hs named job, fun stray => ?_⟩
  have heard : Heard s (s.frameFrom p) p := State.frameFrom_heard hs hr.awake
  refine ⟨s.frameFrom p, _, heard.printer, heard.printers, heard.rest, exec_grant hr, ?_⟩
  rw [grantRule_stray (by rw [heard.printer, PrinterOf.heard_queue]; exact stray)]
  exact State.finish_changes _

end Sys2Proof.Machine

/-! PROOFS. PAGE_REPORT, not final and final (R95 to R97, R100). -/

namespace Sys2Proof.Machine

set_option Elab.async false

variable {s t u v : State}

/-! ### A report taken (R96) -/

/-- R96 steps 1 to 3: what a report makes of the state in which its frame has been taken. -/
def State.tallied (s : State) (p : Nat) (j : Job) (r : PageReportBody) : State :=
  (s.updJob j.tag (fun x => { x with reported := some (j.raised r) })).handFaces p
    ((j.raised r).tm - j.reportedOrZero.tm) ((j.raised r).tc - j.reportedOrZero.tc)

/-- R96 step 3: the stall timer or the finish timer starts again. -/
def State.timed (s : State) (p : Nat) (j : Job) : State :=
  if j.state = .printing then s.restartStall p
  else s.updJob j.tag (fun x => { x with finish := .running Config.finishSeconds })

theorem State.takePageReport_eq (s : State) (p : Nat) (j : Job) (r : PageReportBody) : s.takePageReport p j r =
    if r.final then ((s.tallied p j r).timed p j).finalReport p j (j.raised r) r.cancelled else (s.tallied p j r).timed p j := rfl

theorem reportTaken {p : Nat} {j : Job} (r : PageReportBody) (job : s.job j.tag = some j) (heard : Heard s u p) :
    ReportTaken s ((u.tallied p j r).timed p j) p j r := by
  let w := u.updJob j.tag (fun x => { x with reported := some (j.raised r) })
  have changed : ChangesOnly [Piece.jobRecords] u w := (State.updJob_moves _ _ _).changesOnly
  have records (g : Nat) : w.job g = if g = j.tag then (u.job g).map (fun x => { x with reported := some (j.raised r) })
      else u.job g := State.job_updJob _ j.tag (fun x => { x with reported := some (j.raised r) }) (fun _ => rfl) g
  have before (g : Nat) : u.job g = s.job g := State.job_congr (heard.rest .jobRecords (by decide)) g
  refine ⟨w, u.tallied p j r, ?_, fun g hg => ?_, ?_, fun i hi => ?_,
    (heard.rest.mono (by decide)).trans (changed.mono (by decide)), State.handFaces_handed _ _ _ _, ?_⟩
  · rw [records, if_pos rfl, before, job]
    rfl
  · rw [records, if_neg hg, before]
  · rw [State.printer_congr (changed .printers (by decide)), heard.printer]
  · rw [State.printer_congr (changed .printers (by decide)), heard.printers i hi]
  · unfold State.timed
    split
    · have stall := (u.tallied p j r).restartStall_entry p
      exact ⟨stall.printer, stall.printers, stall.rest⟩
    · have again (g : Nat) := State.job_updJob (u.tallied p j r) j.tag
        (fun x => { x with finish := .running Config.finishSeconds }) (fun _ => rfl) g
      exact ⟨by rw [again, if_pos rfl]; rfl, fun g hg => by rw [again, if_neg hg], (State.updJob_moves _ _ _).changesOnly⟩

theorem exec_pageReport {h : Hdr} {r : PageReportBody} {p : Nat} (hr : PrinterReady h p s) :
    exec (.pageReport h (some r)) s = .next (pageReportRule h r p (s.frameFrom p)).finish := deliveryMessage_ready hr

theorem pageReportRule_silent {h : Hdr} {r : PageReportBody} {p : Nat} (silent : (s.printer p).cfg.mode = .silent) :
    pageReportRule h r p s = s := if_pos silent

theorem pageReportRule_stray {h : Hdr} {r : PageReportBody} {p : Nat} (speaks : (s.printer p).cfg.mode ≠ .silent)
    (stray : h.jobTag ∉ (s.printer p).queue) : pageReportRule h r p s = s.takeFault p .streamError := by
  unfold pageReportRule
  rw [if_neg speaks, if_pos (by simpa using stray)]

theorem pageReportRule_unknown {h : Hdr} {r : PageReportBody} {p : Nat} (speaks : (s.printer p).cfg.mode ≠ .silent)
    (named : h.jobTag ∈ (s.printer p).queue) (job : s.job h.jobTag = none) : pageReportRule h r p s = s := by
  unfold pageReportRule
  rw [if_neg speaks, if_neg (by simpa using named), job]

theorem pageReportRule_named {h : Hdr} {r : PageReportBody} {p : Nat} {j : Job} (speaks : (s.printer p).cfg.mode ≠ .silent)
    (named : h.jobTag ∈ (s.printer p).queue) (job : s.job h.jobTag = some j) : pageReportRule h r p s =
      if j.state = .printing ∨ j.state = .finishing then s.takePageReport p j r else s := by
  unfold pageReportRule
  rw [if_neg speaks, if_neg (by simpa using named), job]
  simp only [Bool.or_eq_true, decide_eq_true_eq]

/-- Settles O33: a report that is not final, one without effect, and one that names no job of the queue. -/
theorem pageReportTaken : Obligations.PageReportTaken := by
  intro h r p s hr hs
  have heard : Heard s (s.frameFrom p) p := State.frameFrom_heard hs hr.awake
  have queue : ((s.frameFrom p).printer p).queue = (s.printer p).queue := by rw [heard.printer, PrinterOf.heard_queue]
  have mode : ((s.frameFrom p).printer p).cfg.mode = (s.printer p).cfg.mode := by rw [heard.printer, (s.printer p).heard_kept.2]
  have jobs (g : Nat) : (s.frameFrom p).job g = s.job g := State.job_congr (heard.rest .jobRecords (by decide)) g
  refine ⟨fun j speaks named job streams notFinal => ?_, fun idle => ?_, fun speaks stray => ?_⟩
  · have tag : j.tag = h.jobTag := s.tag_of_job job
    refine ⟨_, _, reportTaken r (by rw [tag]; exact job) heard, exec_pageReport hr, ?_⟩
    rw [pageReportRule_named (by rw [mode]; exact speaks) (by rw [queue]; exact named) ((jobs _).trans job), if_pos streams,
      State.takePageReport_eq, notFinal]
    exact State.finish_changes _
  · have same : pageReportRule h r p (s.frameFrom p) = s.frameFrom p := by
      by_cases silent : (s.printer p).cfg.mode = .silent
      · exact pageReportRule_silent (mode.trans silent)
      obtain ⟨named, released⟩ := idle.resolve_left silent
      have speaks : ((s.frameFrom p).printer p).cfg.mode ≠ .silent := by rw [mode]; exact silent
      have listed : h.jobTag ∈ ((s.frameFrom p).printer p).queue := by rw [queue]; exact named
      cases job : s.job h.jobTag with
      | none => exact pageReportRule_unknown speaks listed ((jobs _).trans job)
      | some j =>
        rw [pageReportRule_named speaks listed ((jobs _).trans job)]
        exact if_neg (by rw [released j job]; decide)
    refine ⟨_, exec_pageReport hr, ?_, fun i hi => ?_, ?_⟩
    · rw [State.finish_printer, same, heard.printer]
    · rw [State.finish_printer, same, heard.printers i hi]
    · rw [same]
      exact (heard.rest.mono (by decide)).trans ((State.finish_changes _).mono (by decide))
  · refine ⟨s.frameFrom p, _, heard.printer, heard.printers, heard.rest, exec_pageReport hr, ?_⟩
    rw [pageReportRule_stray (by rw [mode]; exact speaks) (by rw [queue]; exact stray)]
    exact State.finish_changes _

/-! ### A final report (R97, R100) -/

/-- What settlement and the end of a job find of it in a state that its delivery has reached: its record, but for what was
reported, its state and its finish timer, and the Delivery Queue that holds it. -/
structure InDeliveryAt (t : State) (p : Nat) (j : Job) : Prop where
  record : ∃ reported state finish, t.job j.tag = some { j with reported := reported, state := state, finish := finish } ∧
    state.inDelivery = true
  tables : t.TablesCanonical
  queue : t.queueOf j.tag = some p

/-- What keeps the record of a job and every Delivery Queue keeps it in delivery. -/
theorem InDeliveryAt.kept {l : List Piece} {p : Nat} {j : Job} (h : InDeliveryAt t p j) (moves : Moves l t u)
    (job : u.job j.tag = t.job j.tag) (queues : Keeps PrinterOf.queue t u) : InDeliveryAt u p j :=
  ⟨by rw [job]; exact h.record, moves.keeps_tables h.tables, by
    rw [← h.queue]
    exact State.queueOf_congr h.tables (moves.keeps_tables h.tables) queues j.tag⟩

/-- So does a change of what was reported, of the state within delivery, and of the finish timer. -/
theorem InDeliveryAt.updated {p : Nat} {j : Job} (h : InDeliveryAt t p j) (f : Job → Job) (tags : ∀ x, (f x).tag = x.tag)
    (hf : ∀ x : Job, x.state.inDelivery = true → ∃ reported state finish,
      f x = { x with reported := reported, state := state, finish := finish } ∧ state.inDelivery = true) :
    InDeliveryAt (t.updJob j.tag f) p j := by
  obtain ⟨reported, state, finish, record, delivery⟩ := h.record
  obtain ⟨reported', state', finish', shape, delivery'⟩ :=
    hf { j with reported := reported, state := state, finish := finish } delivery
  refine ⟨⟨reported', state', finish', ?_, delivery'⟩, ⟨h.tables.1, h.tables.2, h.tables.3, h.tables.4, h.tables.5, h.tables.6,
    h.tables.7, h.tables.8⟩, h.queue⟩
  rw [State.job_updJob _ j.tag f tags, if_pos rfl, record, Option.map_some, shape]

/-- R97, R98, R100, R105: a job of a Delivery Queue is settled and ends. -/
theorem InDeliveryAt.settledAndEnded {p : Nat} {j : Job} (h : InDeliveryAt t p j) (n : Counts) (why : EndReason) :
    Settled t (t.settleJob j.tag n) j (j.chargeOf n) ∧
      EndedAt (t.settleJob j.tag n) ((t.settleJob j.tag n).endTag j.tag why) p j why (some (j.chargeOf n)) := by
  obtain ⟨reported, state, finish, record, delivery⟩ := h.record
  have settled : Settled t (t.settleJob j.tag n) j (j.chargeOf n) := State.settleJob_settled record rfl rfl rfl
  have moves := t.settleJob_moves j.tag n
  have queue : (t.settleJob j.tag n).queueOf j.tag = some p := by
    rw [← h.queue]
    exact State.queueOf_congr h.tables (moves.keeps_tables h.tables)
      (fun i => by rw [State.printer_congr (settled.rest .printers (by decide))]) j.tag
  have job := settled.job
  rw [record, Option.map_some] at job
  exact ⟨settled, State.endTag_endedAt why job delivery queue rfl rfl rfl⟩

theorem EntryBecomes.keeps {β : Type} {f : Printer → β} {l : List Piece} {p : Nat} {e : Printer} (h : EntryBecomes l s t p e)
    (hf : f e = f (s.printer p)) : Keeps f s t := fun i => by
  by_cases hi : i = p
  · rw [hi, h.printer, hf]
  · rw [h.printers i hi]

/-- A job of a Delivery Queue is in delivery there. -/
theorem InDeliveryAt.of_job {p : Nat} {j : Job} (hw : s.TablesCanonical) (job : s.job j.tag = some j)
    (queue : s.queueOf j.tag = some p) (delivery : j.state.inDelivery = true) : InDeliveryAt s p j :=
  ⟨⟨j.reported, j.state, j.finish, job, delivery⟩, hw, queue⟩

/-- R96: a report taken leaves its job in delivery. -/
theorem InDeliveryAt.reported {p : Nat} {j : Job} (h : InDeliveryAt t p j) (sound : (t.printer p).HealthSound) (r : PageReportBody) :
    InDeliveryAt ((t.tallied p j r).timed p j) p j := by
  have first := h.updated (fun x => { x with reported := some (j.raised r) }) (fun _ => rfl)
    fun x hx => ⟨some (j.raised r), x.state, x.finish, rfl, hx⟩
  obtain ⟨frame, queues⟩ := State.handFaces_mild (s := t.updJob j.tag (fun x => { x with reported := some (j.raised r) })) sound
    ((j.raised r).tm - j.reportedOrZero.tm) ((j.raised r).tc - j.reportedOrZero.tc)
  have second : InDeliveryAt (t.tallied p j r) p j :=
    first.kept (State.handFaces_moves _ _ _ _) (State.job_congr (frame .jobRecords (by decide)) _) queues
  unfold State.timed
  split
  · exact second.kept (State.restartStall_moves _ p) rfl ((State.restartStall_entry _ p).keeps rfl)
  · exact second.updated _ (fun _ => rfl) fun x hx => ⟨x.reported, x.state, _, rfl, hx⟩

theorem State.leavePrinting_entry (s : State) (p g : Nat) : EntryBecomes [] s (s.leavePrinting p g) p { s.printer p with
    stall := .stopped, control := (s.printer p).control.filter (fun m => !m.isBeginOf g) } := s.updPrinter_entry p _

/-- Settles O34: a final report is taken, and its job is settled and ends. -/
theorem finalReportEndsItsJob : Obligations.FinalReportEndsItsJob := by
  intro h r p j s hr hs hw health speaks queued tag job streams final
  have heard : Heard s (s.frameFrom p) p := State.frameFrom_heard hs hr.awake
  have queue : ((s.frameFrom p).printer p).queue = (s.printer p).queue := by rw [heard.printer, PrinterOf.heard_queue]
  have mode : ((s.frameFrom p).printer p).cfg.mode = (s.printer p).cfg.mode := by rw [heard.printer, (s.printer p).heard_kept.2]
  have jobs (g : Nat) : (s.frameFrom p).job g = s.job g := State.job_congr (heard.rest .jobRecords (by decide)) g
  have delivery : j.state.inDelivery = true := by rcases streams with c | c <;> rw [c] <;> rfl
  have queues : Keeps PrinterOf.queue s (s.frameFrom p) := fun i => by
    by_cases hi : i = p
    · rw [hi, queue]
    · rw [heard.printers i hi]
  have sound : ((s.frameFrom p).printer p).HealthSound := by
    rw [heard.printer]
    unfold PrinterOf.heard
    split
    · exact health.printer p
    · exact ⟨(health.printer p).score, (health.printer p).band⟩
  let u := ((s.frameFrom p).tallied p j r).timed p j
  have atU : InDeliveryAt u p j :=
    ((InDeliveryAt.of_job hw job queued delivery).kept (s.frameFrom_moves p) (jobs _) queues).reported sound r
  let v := if j.state = .printing then u.leavePrinting p j.tag else u
  have left := u.leavePrinting_entry p j.tag
  have atV : InDeliveryAt v p j := by
    show InDeliveryAt (if j.state = .printing then u.leavePrinting p j.tag else u) p j
    split
    · exact atU.kept (State.leavePrinting_moves _ p j.tag) rfl (left.keeps rfl)
    · exact atU
  obtain ⟨settled, ended⟩ := atV.settledAndEnded (j.raised r) (if r.cancelled then .printerCancelled else .printed)
  have rule : pageReportRule h r p (s.frameFrom p) = u.finalReport p j (j.raised r) r.cancelled := by
    rw [pageReportRule_named (by rw [mode]; exact speaks) (by rw [queue, tag]; exact ((State.queueOf_iff hw _ _).1 queued).1)
      (by rw [jobs, tag]; exact job), if_pos streams, State.takePageReport_eq, if_pos final]
  refine ⟨u, v, _, _, _, reportTaken r job heard, ?_, fun i hi => ?_, ?_, settled, ended, exec_pageReport hr, ?_⟩
  · show (if j.state = .printing then u.leavePrinting p j.tag else u).printer p = _
    split
    · exact left.printer
    · rfl
  · show (if j.state = .printing then u.leavePrinting p j.tag else u).printer i = _
    split
    · exact left.printers i hi
    · rfl
  · show ChangesOnly _ u (if j.state = .printing then u.leavePrinting p j.tag else u)
    split
    · exact left.rest
    · exact ChangesOnly.refl _ _
  · rw [rule]
    exact State.finish_changes _

end Sys2Proof.Machine

/-! PROOFS. The expiries of the stall timer and of a finish timer, and a JOB_CANCEL in delivery (R94, R98, R101, R102). -/

namespace Sys2Proof.Machine

set_option Elab.async false

variable {s t u v : State}

/-! ### A stream stopped and its job settled (R94, R102, R104) -/

/-- R90, R94: the stop of a stream reaches nothing of an entry but its stall timer and its control list. -/
theorem StreamStopped.keeps {β : Type} {f : Printer → β} {p : Nat} {j : Job} (h : StreamStopped s t p j)
    (hf : ∀ e stall control, f { e with stall := stall, control := control } = f e) : Keeps f s t := fun i => by
  by_cases hi : i = p
  · subst hi
    by_cases waits : ∃ m ∈ (s.printer i).control, m.isBeginOf j.tag = true
    · rw [(h.withdrawn waits).2, hf]
    · have sent := h.cancelled fun m hm => Bool.eq_false_iff.2 fun c => waits ⟨m, hm, c⟩
      dsimp only at sent
      split at sent
      · rw [sent.2]; exact hf (s.printer i) _ (s.printer i).control
      · rw [sent.2, hf]
  · rw [h.printers i hi]

/-- R94, R102, R104: the stream of the Printing job is stopped, and the job is settled on what was reported. -/
theorem State.stopped_settled {p : Nat} {j : Job} (job : s.job j.tag = some j) :
    StreamStopped s (s.cancelStream p j.tag) p j ∧
      Settled (s.cancelStream p j.tag) ((s.cancelStream p j.tag).settleJob j.tag j.reportedOrZero) j (j.chargeOf j.reportedOrZero) ∧
      ((s.cancelStream p j.tag).settleJob j.tag j.reportedOrZero).job j.tag =
        some { j with reservation := none, charged := some (j.chargeOf j.reportedOrZero) } := by
  have stopped := s.cancelStream_stopped p j
  have record : (s.cancelStream p j.tag).job j.tag = some j := by
    rw [State.job_congr (stopped.rest .jobRecords (by decide)), job]
  have settled : Settled (s.cancelStream p j.tag) ((s.cancelStream p j.tag).settleJob j.tag j.reportedOrZero) j
      (j.chargeOf j.reportedOrZero) := State.settleJob_settled record rfl rfl rfl
  exact ⟨stopped, settled, by rw [settled.job, record]; rfl⟩

/-! ### The stall timer and a finish timer (R94, R98) -/

theorem exec_stallTimer {p : Nat} (up : s.phase = .up) : exec (.stallTimerExpiry p) s =
    .next (if (s.printer p).stall.runs then s.stallExpiry p else s).finish := by
  show execStallTimerExpiry p s = _
  rw [execStallTimerExpiry, State.whenUp_up _ up]

/-- R94: the stall timer of a Printing job expires. -/
theorem stallTimer_expires {p : Nat} {j : Job} (up : s.phase = .up) (printing : s.firstIn p .printing = some j)
    (runs : (s.printer p).stall.runs = true) :
    ∃ u v w t, StreamStopped s u p j ∧ Settled u v j (j.chargeOf j.reportedOrZero) ∧ ReturnedToHold v w p j ∧
      exec (.stallTimerExpiry p) s = .next t ∧ ChangesOnly endOfStep ((w.takeFault p .stall).startStream p) t := by
  obtain ⟨job, -, -⟩ := State.firstIn_job printing
  obtain ⟨stopped, settled, record⟩ := State.stopped_settled (p := p) job
  have rule : s.stallExpiry p = (((((s.cancelStream p j.tag).settleJob j.tag j.reportedOrZero).returnToHold p j.tag).takeFault p
      .stall).startStream p) := by
    unfold State.stallExpiry
    rw [printing]
  refine ⟨_, _, _, _, stopped, settled, State.returnToHold_returned record rfl, exec_stallTimer up, ?_⟩
  rw [if_pos runs, rule]
  exact State.finish_changes _

theorem exec_finishTimer {g p : Nat} {j : Job} (up : s.phase = .up) (job : s.job g = some j) (queued : s.queueOf g = some p) :
    exec (.finishTimerExpiry g) s =
      .next (if j.state = .finishing && j.finish.runs then s.finishExpiry p j else s).finish := by
  show execFinishTimerExpiry g s = _
  rw [execFinishTimerExpiry, State.whenUp_up _ up, job, queued]

theorem exec_finishTimer_unknown {g : Nat} (up : s.phase = .up) (unknown : s.job g = none ∨ s.queueOf g = none) :
    exec (.finishTimerExpiry g) s = .next s.finish := by
  show execFinishTimerExpiry g s = _
  rw [execFinishTimerExpiry, State.whenUp_up _ up]
  rcases unknown with none | none
  · rw [none]
  · rw [none]
    cases s.job g <;> rfl

/-- R98: the finish timer of a Finishing job expires. -/
theorem finishTimer_expires {p : Nat} {j : Job} (up : s.phase = .up) (hw : s.TablesCanonical) (health : s.HealthFollowsScore)
    (queued : s.queueOf j.tag = some p) (job : s.job j.tag = some j) (finishing : j.state = .finishing)
    (runs : j.finish.runs = true) :
    ∃ u v w t, FacesHanded s u p (j.declaredCounts.tm - j.reportedOrZero.tm) (j.declaredCounts.tc - j.reportedOrZero.tc) ∧
      Settled u v j (j.chargeOf j.declaredCounts) ∧ EndedAt v w p j .printed (some (j.chargeOf j.declaredCounts)) ∧
      exec (.finishTimerExpiry j.tag) s = .next t ∧ ChangesOnly endOfStep (w.takeFault p .reportMissing) t := by
  let tm := j.declaredCounts.tm - j.reportedOrZero.tm
  let tc := j.declaredCounts.tc - j.reportedOrZero.tc
  obtain ⟨frame, queues⟩ := State.handFaces_mild (health.printer p) tm tc
  have delivery : j.state.inDelivery = true := by rw [finishing]; rfl
  have atU : InDeliveryAt (s.handFaces p tm tc) p j := (InDeliveryAt.of_job hw job queued delivery).kept
    (s.handFaces_moves p tm tc) (State.job_congr (frame .jobRecords (by decide)) _) queues
  obtain ⟨settled, ended⟩ := atU.settledAndEnded j.declaredCounts .printed
  refine ⟨_, _, _, _, s.handFaces_handed p tm tc, settled, ended,
    exec_finishTimer up job queued, ?_⟩
  rw [if_pos (by rw [finishing, runs]; rfl)]
  exact State.finish_changes _

/-- Settles O35: the timers that run, and those that do not. -/
theorem deliveryTimersExpire : Obligations.DeliveryTimersExpire := by
  refine ⟨fun p j s up hw health => ⟨fun printing runs => stallTimer_expires up printing runs,
    fun queued job finishing runs => finishTimer_expires up hw health queued job finishing runs⟩,
    fun s up => ⟨fun p idle => ⟨_, exec_stallTimer up, ?_⟩, fun g idle => ?_⟩⟩
  · have same : (if (s.printer p).stall.runs then s.stallExpiry p else s) = s := by
      rcases idle with none | stopped
      · have rule : s.stallExpiry p = s := by
          unfold State.stallExpiry
          rw [none]
        rw [rule, ite_self]
      · rw [if_neg (by rw [stopped]; decide)]
    rw [same]
    exact State.finish_changes s
  · have nothing : exec (.finishTimerExpiry g) s = .next s.finish := by
      cases job : s.job g with
      | none => exact exec_finishTimer_unknown up (.inl job)
      | some j =>
        cases queued : s.queueOf g with
        | none => exact exec_finishTimer_unknown up (.inr queued)
        | some p =>
          rw [exec_finishTimer up job queued, if_neg]
          intro c
          simp only [Bool.and_eq_true, decide_eq_true_eq] at c
          rcases idle.resolve_left (by rw [queued]; exact nofun) j job with h | h
          · exact h c.1
          · exact absurd c.2 (by rw [h]; decide)
    exact ⟨_, nothing, State.finish_changes s⟩

/-! ### A JOB_CANCEL in delivery (R101, R102) -/

theorem exec_jobCancel {h : Hdr} (hr : JobReady h s) : exec (.jobCancel h true) s = .next (cancelJob h s).finish :=
  jobMessage_ready (x := ()) (act := fun _ => cancelJob h) hr

/-- R101: a JOB_CANCEL of a Released job. -/
theorem jobCancel_released {h : Hdr} {p : Nat} {j : Job} (hr : JobReady h s) (hw : s.TablesCanonical)
    (job : s.job j.tag = some j) (tag : h.jobTag = j.tag) (origin : j.origin = h.src) (queued : s.queueOf j.tag = some p)
    (released : j.state = .released) :
    ∃ u v t, u.account j.account = { s.account j.account with
        reserved := (s.account j.account).reserved - j.reservation.getD 0 } ∧
      OtherAccounts j.account s u ∧ JobSent s u [jobReplyTo s h j.tag .ok 0] ∧
      u.job j.tag = some { j with reservation := none } ∧ OtherJobs j.tag s u ∧
      ChangesOnly ([Piece.jobRecords, .accounts] ++ jobTraffic) s u ∧
      EndedAt u v p j .userCancelled j.charged ∧
      exec (.jobCancel h true) s = .next t ∧ ChangesOnly endOfStep v t := by
  let a := s.unreserve j.account (j.reservation.getD 0)
  let b := a.updJob j.tag (fun x => { x with reservation := none })
  let u := b.jobReply h h.jobTag .ok 0
  have room : b.jobs.outgoing.length < 4096 := hr.outgoing
  have replied := (b.jobReply_moves h h.jobTag .ok 0 room)
  have before : ChangesOnly [Piece.jobRecords, .accounts] s b :=
    ((s.unreserve_moves _ _).mono.next (State.updJob_moves _ _ _)).changesOnly
  have moves : Moves ([.jobRecords, .accounts] ++ jobTraffic) s u :=
    ((s.unreserve_moves _ _).mono.next (State.updJob_moves _ _ _)).next replied
  have accounts (k : Nat) : u.account k = if k = j.account then
      { s.account j.account with reserved := (s.account j.account).reserved - j.reservation.getD 0 } else s.account k := by
    rw [State.account_congr (replied.changesOnly .accounts (by decide))]
    exact State.account_setAccount _ _ _ _
  have jobs (g : Nat) : u.job g = if g = j.tag then (s.job g).map (fun x => { x with reservation := none }) else s.job g := by
    rw [State.job_congr (replied.changesOnly .jobRecords (by decide)),
      State.job_updJob _ j.tag (fun x => { x with reservation := none }) (fun _ => rfl)]
    rfl
  have record : u.job j.tag = some { j with reservation := none } := by rw [jobs, if_pos rfl, job]; rfl
  have place : u.queueOf j.tag = some p := by
    rw [← queued]
    exact State.queueOf_congr hw (moves.keeps_tables hw) (Keeps.of_frame (f := PrinterOf.queue) moves.changesOnly) _
  have sent : JobSent s u [jobReplyTo s h j.tag .ok 0] := by
    have sent := b.jobReply_sent h h.jobTag .ok 0
    rw [← tag]
    exact sent.after (before .officeOwn (by decide)) (before .outgoing (by decide))
  have ended : EndedAt u (u.endTag j.tag .userCancelled) p j .userCancelled j.charged :=
    State.endTag_endedAt (x := { j with reservation := none }) .userCancelled record (by rw [released]; rfl) place rfl rfl rfl
  refine ⟨u, _, _, by rw [accounts, if_pos rfl], fun k hk => by rw [accounts, if_neg hk], sent, record,
    fun g hg => by rw [jobs, if_neg hg], moves.changesOnly, ended, exec_jobCancel hr, ?_⟩
  have rule : cancelJob h s = u.endTag j.tag .userCancelled := by
    unfold cancelJob
    rw [State.jobFrom_eq (by rw [tag]; exact job) origin]
    simp only [released]
    rfl
  rw [rule]
  exact State.finish_changes _

/-- R102: a JOB_CANCEL of the Printing job. -/
theorem jobCancel_printing {h : Hdr} {p : Nat} {j : Job} (hr : JobReady h s) (hw : s.TablesCanonical)
    (job : s.job j.tag = some j) (tag : h.jobTag = j.tag) (origin : j.origin = h.src) (queued : s.queueOf j.tag = some p)
    (printing : s.firstIn p .printing = some j) :
    ∃ u v w x t, StreamStopped s u p j ∧ Settled u v j (j.chargeOf j.reportedOrZero) ∧
      JobSent v w [jobReplyTo s h j.tag .ok 0] ∧ ChangesOnly jobTraffic v w ∧
      EndedAt w x p j .userCancelled (some (j.chargeOf j.reportedOrZero)) ∧
      exec (.jobCancel h true) s = .next t ∧ ChangesOnly endOfStep (x.startStream p) t := by
  obtain ⟨-, state, -⟩ := State.firstIn_job printing
  obtain ⟨stopped, settled, record⟩ := State.stopped_settled (p := p) job
  let u := s.cancelStream p j.tag
  let v := u.settleJob j.tag j.reportedOrZero
  let w := v.jobReply h h.jobTag .ok 0
  have outgoing : v.jobs.outgoing = s.jobs.outgoing :=
    (settled.rest .outgoing (by decide)).trans (stopped.rest .outgoing (by decide))
  have room : v.jobs.outgoing.length < 4096 := by rw [outgoing]; exact hr.outgoing
  have replied := v.jobReply_moves h h.jobTag .ok 0 room
  have settings : v.settings = s.settings := (settled.rest .settings (by decide)).trans (stopped.rest .settings (by decide))
  have tablesV : v.TablesCanonical := (State.settleJob_moves _ _ _).keeps_tables ((s.cancelStream_moves p j.tag).keeps_tables hw)
  have queues : Keeps PrinterOf.queue s w := ((stopped.keeps fun _ _ _ => rfl).trans (.of_frame settled.rest)).trans
    (.of_frame replied.changesOnly)
  have place : w.queueOf j.tag = some p := by
    rw [← queued]
    exact State.queueOf_congr hw (replied.keeps_tables tablesV) queues _
  have recordW : w.job j.tag = some { j with reservation := none, charged := some (j.chargeOf j.reportedOrZero) } := by
    rw [State.job_congr (replied.changesOnly .jobRecords (by decide)), record]
  have sent : JobSent v w [jobReplyTo s h j.tag .ok 0] := by
    have sent := v.jobReply_sent h h.jobTag .ok 0
    rw [jobReplyTo_congr settings] at sent
    rw [← tag]
    exact sent
  refine ⟨u, v, w, _, _, stopped, settled, sent, replied.changesOnly,
    State.endTag_endedAt .userCancelled recordW (by rw [state]; rfl) place rfl rfl rfl, exec_jobCancel hr, ?_⟩
  have rule : cancelJob h s = (w.endTag j.tag .userCancelled).startStream p := by
    unfold cancelJob
    rw [State.jobFrom_eq (by rw [tag]; exact job) origin]
    simp only [state]
    unfold State.cancelPrinting
    rw [queued]
  rw [rule]
  exact State.finish_changes _

/-- Settles O36: a JOB_CANCEL of a Released job, and of the Printing job. -/
theorem jobCancelInDelivery : Obligations.JobCancelInDelivery :=
  fun _ _ _ _ hr hw job tag origin queued =>
    ⟨fun released => jobCancel_released hr hw job tag origin queued released,
      fun printing => jobCancel_printing hr hw job tag origin queued printing⟩

end Sys2Proof.Machine

/-! PROOFS. What a printer's turn places (R89, R90, R92, R99). -/

namespace Sys2Proof.Machine

set_option Elab.async false

variable {s t u v : State}

/-! ### A stream message placed (R90) -/

theorem State.placeStream_placed (s : State) (p : Nat) (m : OwnMsg) :
    (s.placeStream p m).fport = { s.fport with own := s.fport.own ++ [m], served := 1 } ∧
      (s.placeStream p m).lastPrinter = p ∧ ChangesOnly [.printerTurn, .fleetOwn, .fleetOther] s (s.placeStream p m) := by
  refine ⟨rfl, rfl, ?_⟩
  intro x hx
  cases x <;> first | exact rfl | exact ⟨rfl, rfl⟩ | exact ⟨rfl, rfl, rfl⟩ | exact ⟨rfl, rfl, rfl, rfl⟩ | exact absurd (by simp) hx

/-- R90, R94: the head of a control list is placed. -/
theorem placeControl_placed {p : Nat} {m : OwnMsg} {rest : List OwnMsg} (control : (s.printer p).control = m :: rest) :
    (s.placeControl p).fport = { s.fport with own := s.fport.own ++ [m], served := 1 } ∧ (s.placeControl p).lastPrinter = p ∧
      (s.placeControl p).printer p = { s.printer p with
        control := rest, stall := if m.body = .streamCancel then (s.printer p).stall else (s.printer p).stallFull } ∧
      OtherPrinters p s (s.placeControl p) ∧
      ChangesOnly [Piece.printers, .printerTurn, .fleetOwn, .fleetOther] s (s.placeControl p) := by
  let v := s.placeStream p m
  let w := v.updPrinter p (fun e => { e with control := rest })
  obtain ⟨port, turn, frame⟩ := s.placeStream_placed p m
  have shorter : EntryBecomes [] v w p { s.printer p with control := rest } := v.updPrinter_entry p _
  have rule : s.placeControl p = if m.body = .streamCancel then w else w.restartStall p := by
    unfold State.placeControl
    rw [control]
  rw [rule]
  by_cases cancel : m.body = .streamCancel
  · rw [if_pos cancel, if_pos cancel]
    exact ⟨port, turn, shorter.printer, shorter.printers, (frame.mono (by decide)).trans (shorter.rest.mono (by decide))⟩
  · rw [if_neg cancel, if_neg cancel]
    have stall := w.restartStall_entry p
    rw [shorter.printer] at stall
    exact ⟨port, turn, stall.printer, fun i hi => (stall.printers i hi).trans (shorter.printers i hi),
      ((frame.mono (by decide)).trans (shorter.rest.mono (by decide))).trans (stall.rest.mono (by decide))⟩

/-- R90: a control message at a printer's turn. -/
theorem streamControl_placed {p : Nat} {m : OwnMsg} {rest : List OwnMsg} (up : s.phase = .up) (turn : s.streamTurn p = true)
    (control : (s.printer p).control = m :: rest) :
    ∃ t, exec (.streamControlPlace p) s = .next t ∧
      t.fport = { s.fport with own := s.fport.own ++ [m], served := 1 } ∧ t.lastPrinter = p ∧
      t.printer p = { s.printer p with
        control := rest, stall := if m.body = .streamCancel then (s.printer p).stall else (s.printer p).stallFull } ∧
      OtherPrinters p s t ∧ ChangesOnly ([Piece.printers, .printerTurn, .fleetOwn, .fleetOther] ++ endOfStep) s t := by
  have e : exec (.streamControlPlace p) s = .next (s.placeControl p).finish := by
    show execStreamControlPlace p s = _
    rw [execStreamControlPlace, State.whenUp_up _ up, if_pos turn]
  obtain ⟨port, served, entry, others, frame⟩ := placeControl_placed control
  refine ⟨_, e, ?_, ?_, ?_, fun i hi => ?_, (frame.mono (by decide)).trans ((State.finish_changes _).mono (by decide))⟩
  · rw [State.finish_fport, port]
  · rw [State.finish_lastPrinter, served]
  · rw [State.finish_printer, entry]
  · rw [State.finish_printer, others i hi]

/-! ### A chunk (R89, R90) -/

/-- R13: data that stand written in a chain are read from it. -/
theorem readData_written {m : List Host.Cell} {chain : List Nat} (d : List Byte) :
    ∀ k : Nat, (∀ i < d.length, ∃ a, spoolAddress chain (k + i) = some a ∧ memRead m a = d[i]?) →
      readData m chain d.length k = some d := by
  induction d with
  | nil => exact fun _ _ => rfl
  | cons b d ih =>
    intro k written
    obtain ⟨a, address, byte⟩ := written 0 (by simp)
    have rest := ih (k + 1) fun i hi => by
      obtain ⟨x, hx, hb⟩ := written (i + 1) (by simpa using hi)
      exact ⟨x, by rw [← hx]; congr 1; omega, by rw [hb]; simp⟩
    rw [Nat.add_zero] at address
    rw [List.length_cons, readData, address]
    dsimp only
    rw [byte, rest]
    rfl

/-- R90: the next chunk of the Printing job at a printer's turn. -/
theorem streamData_placed {p : Nat} {j : Job} {d : List Byte} (up : s.phase = .up) (turn : s.streamTurn p = true)
    (control : (s.printer p).control = []) (standing : (s.printer p).standing = Standing.none)
    (printing : s.firstIn p .printing = some j) (allowed : j.sent < j.allowed) (more : j.sent < ceilDiv j.received 1024)
    (size : d.length = min 1024 (j.received - j.sent * 1024))
    (written : ∀ i < d.length, ∃ a, spoolAddress j.chain (j.sent * 1024 + i) = some a ∧ memRead s.spool.mem a = d[i]?) :
    ∃ t, exec (.streamData p) s = .next t ∧
      t.fport = { s.fport with served := 1, own := s.fport.own ++
        [{ etherType := s.settings.frameType, src := s.settings.ownStation, dst := (s.printer p).cfg.station.getD 0
           jobTag := j.tag, reqTag := 0, body := .streamData j.sent d }] } ∧
      t.lastPrinter = p ∧ t.job j.tag = some { j with sent := j.sent + 1 } ∧ OtherJobs j.tag s t ∧
      ChangesOnly ([Piece.jobRecords, .printerTurn, .fleetOwn, .fleetOther] ++ endOfStep) s t := by
  have chunk : s.chunkJob p = some j := by
    have chunks : j.sent < j.chunks := more
    unfold State.chunkJob
    rw [control, Standing.isEmpty_iff.2 standing, printing]
    simp [allowed, chunks]
  have data : s.chunkData j j.sent = some d := by
    have read := readData_written (m := s.spool.mem) d (j.sent * 1024) written
    rw [size] at read
    exact read
  have e : exec (.streamData p) s = .next (s.placeChunk p j d).finish := by
    show execStreamData p s = _
    rw [execStreamData, if_pos (by rw [up, turn]; rfl), chunk]
    dsimp only
    rw [data]
    dsimp only
    rw [State.whenUp_up _ up]
  let m := s.form (s.stationOf p) j.tag 0 (.streamData j.sent d)
  obtain ⟨port, served, frame⟩ := s.placeStream_placed p m
  obtain ⟨job, -, -⟩ := State.firstIn_job printing
  have jobs (g : Nat) : (s.placeChunk p j d).job g = if g = j.tag then (s.job g).map (fun x => { x with sent := x.sent + 1 })
      else s.job g := State.job_updJob (s.placeStream p m) j.tag (fun x => { x with sent := x.sent + 1 }) (fun _ => rfl) g
  have sent : ChangesOnly [Piece.jobRecords] (s.placeStream p m) (s.placeChunk p j d) := (State.updJob_moves _ _ _).changesOnly
  refine ⟨_, e, ?_, ?_, ?_, fun g hg => ?_,
    ((frame.mono (by decide)).trans (sent.mono (by decide))).trans ((State.finish_changes _).mono (by decide))⟩
  · rw [State.finish_fport]
    exact port
  · rw [State.finish_lastPrinter]
    exact served
  · rw [State.finish_job, jobs, if_pos rfl, job]
    rfl
  · rw [State.finish_job, jobs, if_neg hg]

/-! ### STREAM_END (R92, R98, R99) -/

/-- R92, R98: what the placing of STREAM_END makes of the entry and of the job. -/
def State.streamEnded (s : State) (p : Nat) (j : Job) : State :=
  let t := (s.placeStream p (s.form (s.stationOf p) j.tag 0 (.streamEnd j.chunks))).updPrinter p (fun e =>
    { e with stall := .stopped })
  t.updJob j.tag (fun x => { x with
    state := .finishing, finish := if (s.printer p).cfg.mode = .silent then x.finish else .running 600 })

/-- R99: on a SILENT printer the job is settled and ends. -/
def State.silentlyEnded (s : State) (p : Nat) (j : Job) : State :=
  ((s.handFaces p j.declaredCounts.tm j.declaredCounts.tc).settleJob j.tag j.declaredCounts).endTag j.tag .printed

theorem State.placeEnd_eq (s : State) (p : Nat) (j : Job) : s.placeEnd p j =
    (if (s.printer p).cfg.mode = .silent then (s.streamEnded p j).silentlyEnded p j else s.streamEnded p j).startStream p := by
  have cfg : (((s.placeStream p (s.form (s.stationOf p) j.tag 0 (.streamEnd j.chunks))).updPrinter p (fun e =>
      { e with stall := .stopped })).printer p).cfg = (s.printer p).cfg := by
    rw [(State.updPrinter_entry _ p _).printer]
    rfl
  unfold State.placeEnd State.finishStream State.streamEnded State.silentlyEnded
  dsimp only
  rw [cfg]
  split <;> rfl

/-- R92, R98: STREAM_END is placed, and its job becomes Finishing. -/
theorem State.streamEnded_done {p : Nat} {j : Job} (job : s.job j.tag = some j) :
    (s.streamEnded p j).fport = { s.fport with served := 1, own := s.fport.own ++
        [{ etherType := s.settings.frameType, src := s.settings.ownStation, dst := (s.printer p).cfg.station.getD 0
           jobTag := j.tag, reqTag := 0, body := .streamEnd (ceilDiv j.received 1024) }] } ∧
      (s.streamEnded p j).lastPrinter = p ∧ (s.streamEnded p j).printer p = { s.printer p with stall := .stopped } ∧
      OtherPrinters p s (s.streamEnded p j) ∧
      (s.streamEnded p j).job j.tag = some { j with
        state := .finishing, finish := if (s.printer p).cfg.mode = .silent then j.finish else .running 600 } ∧
      OtherJobs j.tag s (s.streamEnded p j) ∧
      ChangesOnly [Piece.jobRecords, .printers, .printerTurn, .fleetOwn, .fleetOther] s (s.streamEnded p j) := by
  let v := s.placeStream p (s.form (s.stationOf p) j.tag 0 (.streamEnd j.chunks))
  let w := v.updPrinter p (fun e => { e with stall := .stopped })
  obtain ⟨port, served, frame⟩ := s.placeStream_placed p (s.form (s.stationOf p) j.tag 0 (.streamEnd j.chunks))
  have stopped : EntryBecomes [] v w p { s.printer p with stall := .stopped } := v.updPrinter_entry p _
  have jobs (g : Nat) : (s.streamEnded p j).job g = if g = j.tag then (s.job g).map (fun x => { x with
      state := .finishing, finish := if (s.printer p).cfg.mode = .silent then x.finish else .running 600 }) else s.job g :=
    State.job_updJob w j.tag (fun x => { x with
      state := .finishing, finish := if (s.printer p).cfg.mode = .silent then x.finish else .running 600 }) (fun _ => rfl) g
  have last : ChangesOnly [Piece.jobRecords] w (s.streamEnded p j) := (State.updJob_moves _ _ _).changesOnly
  exact ⟨port, served, stopped.printer, stopped.printers, by rw [jobs, if_pos rfl, job]; rfl, fun g hg => by rw [jobs, if_neg hg],
    ((frame.mono (by decide)).trans (stopped.rest.mono (by decide))).trans (last.mono (by decide))⟩

/-- R99: on a SILENT printer the faces of the job are handed on, and it is settled on its declared counts and ends. -/
theorem State.silentlyEnded_done {p : Nat} {j : Job} (at_ : InDeliveryAt u p j) (sound : (u.printer p).HealthSound) :
    ∃ w x, FacesHanded u w p j.declaredCounts.tm j.declaredCounts.tc ∧ Settled w x j (j.chargeOf j.declaredCounts) ∧
      EndedAt x (u.silentlyEnded p j) p j .printed (some (j.chargeOf j.declaredCounts)) := by
  obtain ⟨frame, queues⟩ := State.handFaces_mild sound j.declaredCounts.tm j.declaredCounts.tc
  have handed := at_.kept (u.handFaces_moves p _ _) (State.job_congr (frame .jobRecords (by decide)) _) queues
  obtain ⟨settled, ended⟩ := handed.settledAndEnded j.declaredCounts .printed
  exact ⟨_, _, u.handFaces_handed p _ _, settled, ended⟩

/-- R92, R98, R99: STREAM_END at a printer's turn. -/
theorem streamEnd_placed {p : Nat} {j : Job} (up : s.phase = .up) (turn : s.streamTurn p = true)
    (control : (s.printer p).control = []) (printing : s.firstIn p .printing = some j)
    (all : ceilDiv j.received 1024 ≤ j.sent) :
    exec (.streamEnd p) s = .next (s.placeEnd p j).finish := by
  have ending : s.endingJob p = some j := by
    have chunks : j.chunks ≤ j.sent := all
    unfold State.endingJob
    rw [control, printing]
    simp [chunks]
  show execStreamEnd p s = _
  rw [execStreamEnd, State.whenUp_up _ up, if_pos turn, ending]

/-- Settles O37: the start of a stream, and what a printer's turn places. -/
theorem streamPlacements : Obligations.StreamPlacements := by
  refine ⟨fun p s x => ⟨s.firstIn_none_iff p x, fun j => s.firstIn_iff p x j⟩,
    fun p s => ⟨State.startStream_idle, fun j standing printing released => State.startStream_begun standing printing released⟩,
    fun p s up turn => ⟨fun m rest control => streamControl_placed up turn control,
      fun j d control standing printing allowed more size written =>
        streamData_placed up turn control standing printing allowed more size written,
      fun j control printing all => ?_⟩⟩
  obtain ⟨job, state, -⟩ := State.firstIn_job printing
  obtain ⟨port, served, entry, others, record, otherJobs, frame⟩ := State.streamEnded_done (p := p) job
  refine ⟨s.streamEnded p j, if (s.printer p).cfg.mode = .silent then (s.streamEnded p j).silentlyEnded p j
    else s.streamEnded p j, _, streamEnd_placed up turn control printing all, port, served, entry, others, record, otherJobs, frame,
    fun speaks => if_neg speaks, fun silent hw health queued => ?_, ?_⟩
  · rw [if_pos silent]
    have moves : Moves [.fleetOwn, .fleetOther, .printerTurn, .printers, .jobRecords] s (s.streamEnded p j) :=
      ((s.placeStream_moves p _ turn).mono.next (State.updPrinter_moves _ p _)).next (State.updJob_moves _ _ _)
    have queues : Keeps PrinterOf.queue s (s.streamEnded p j) := fun i => by
      by_cases hi : i = p
      · rw [hi, entry]
      · rw [others i hi]
    refine State.silentlyEnded_done ⟨⟨_, _, _, record, rfl⟩, moves.keeps_tables hw, ?_⟩ ?_
    · rw [← queued]
      exact State.queueOf_congr hw (moves.keeps_tables hw) queues _
    · rw [entry]
      exact ⟨(health.printer p).score, (health.printer p).band⟩
  · rw [State.placeEnd_eq]
    exact State.finish_changes _

end Sys2Proof.Machine

/-! PROOFS. Evacuation: its steps in order, what each of them is, and when a Parking printer is Parked (R85, R103 to R106). -/

namespace Sys2Proof.Machine

set_option Elab.async false

variable {s t u v : State}

/-! ### A Parking printer that an evacuation leaves empty (R85) -/

/-- R85: the service of an entry that has been `e`: Parked once a Parking one is empty, and else as it was. -/
def ParkedWhenEmpty (e : Printer) (p : Nat) (t : State) : Prop :=
  (t.printer p).service = if e.service = .parking ∧ (t.printer p).queue = [] then .parked else e.service

section Parked

variable {e : Printer} {p : Nat}

theorem ParkedWhenEmpty.kept (h : ParkedWhenEmpty e p s) (service : (t.printer p).service = (s.printer p).service)
    (queue : (t.printer p).queue = (s.printer p).queue) : ParkedWhenEmpty e p t := by
  unfold ParkedWhenEmpty
  rw [service, queue]
  exact h

theorem ParkedWhenEmpty.framed {l : List Piece} (h : ParkedWhenEmpty e p s) (frame : ChangesOnly l s t)
    (hl : Piece.printers ∉ l := by decide) : ParkedWhenEmpty e p t :=
  h.kept (Keeps.of_frame (f := PrinterOf.service) frame hl p) (Keeps.of_frame (f := PrinterOf.queue) frame hl p)

/-- R85: a job that leaves a queue parks a Parking printer that is then empty. -/
theorem ParkedWhenEmpty.unqueued (h : ParkedWhenEmpty e p s) (q g : Nat) : ParkedWhenEmpty e p (s.unqueue q g) := by
  by_cases hq : p = q
  · subst hq
    unfold ParkedWhenEmpty at h ⊢
    rw [State.printer_unqueue_self]
    unfold PrinterOf.without
    by_cases parking : e.service = .parking
    · by_cases empty : (s.printer p).queue = []
      · rw [if_pos ⟨parking, empty⟩] at h
        rw [if_neg (fun c => by rw [h] at c; exact nomatch c.1)]
        simp [h, parking, empty]
      · rw [if_neg (fun c => empty c.2), parking] at h
        rw [parking, h]
        split
        next gone => simp
        next stays =>
          simp
    · rw [if_neg (fun c => parking c.1)] at h
      rw [if_neg (fun c => parking (h.symm.trans c.1)), if_neg (fun c => parking c.1)]
      exact h
  · have same := s.printer_unqueue q g hq
    exact h.kept (by rw [same]) (by rw [same])

theorem ParkedWhenEmpty.streamed (h : ParkedWhenEmpty e p s) (q : Nat) : ParkedWhenEmpty e p (s.startStream q) :=
  h.kept (State.startStream_keeps (f := PrinterOf.service) (fun _ _ _ => rfl) q p)
    (State.startStream_keeps (f := PrinterOf.queue) (fun _ _ _ => rfl) q p)

theorem ParkedWhenEmpty.ended (h : ParkedWhenEmpty e p s) (g : Nat) (why : EndReason) : ParkedWhenEmpty e p (s.endTag g why) := by
  unfold State.endTag
  cases job : s.job g with
  | none => exact h
  | some j =>
    have freed := h.framed (s.released_frame j)
    refine ParkedWhenEmpty.framed (s := (s.released j).leaveCollection j) ?_ (State.endJob_rest s j why).changesOnly
    unfold State.leaveCollection
    split
    · exact freed
    · exact freed.framed (State.unhold_moves _ _ _).changesOnly
    · split
      · exact freed.unqueued _ _
      · exact freed

theorem ParkedWhenEmpty.returned (h : ParkedWhenEmpty e p s) (q g : Nat) : ParkedWhenEmpty e p (s.returnToHold q g) := by
  unfold State.returnToHold
  cases job : s.job g with
  | none => exact h
  | some j =>
    let r := (s.unqueue q g).updJob g (fun x => x.returned s.clock.uptime)
    have held : ParkedWhenEmpty e p (r.setAccount j.account { r.account j.account with
        held := r.insertHeld g (r.account j.account).held }) :=
      ((h.unqueued q g).framed (State.updJob_moves _ _ _).changesOnly).framed (State.held_moves r j.account _).changesOnly
    exact held.framed (State.jobStatus_moves ..).changesOnly

theorem ParkedWhenEmpty.entered (h : ParkedWhenEmpty e p s) {q : Nat} (other : p ≠ q) (g : Nat) :
    ParkedWhenEmpty e p (s.enterQueue q g) :=
  h.kept (by rw [State.enterQueue_printer, if_neg other]) (by rw [State.enterQueue_printer, if_neg other])

theorem ParkedWhenEmpty.rerouted (h : ParkedWhenEmpty e p s) (g : Nat) : ParkedWhenEmpty e p (s.reroute p g) := by
  unfold State.reroute
  cases job : s.job g with
  | none => exact h
  | some j =>
    have unreserved := h.framed (s.unreserve_moves j.account (j.reservation.getD 0)).changesOnly
    dsimp only
    split
    · exact unreserved.returned p g
    next q partner =>
      split
      · exact unreserved.returned p g
      next w reserved =>
        have moved : ParkedWhenEmpty e p ((w.unqueue p g).updJob g (fun x => { x with
            rates := some ((s.unreserve j.account (j.reservation.getD 0)).ratesAt q j.account)
            reservation := some ((s.unreserve j.account (j.reservation.getD 0)).priceAt q j) })) :=
          ((unreserved.framed (State.reserve_moves _ reserved).changesOnly).unqueued p g).framed
            (State.updJob_moves _ _ _).changesOnly
        exact ((moved.entered (State.partner_spec partner).1.symm g).framed (State.jobStatus_moves ..).changesOnly).streamed q

theorem ParkedWhenEmpty.folded {α : Type} {op : State → α → State}
    (step : ∀ s x, ParkedWhenEmpty e p s → ParkedWhenEmpty e p (op s x)) (l : List α) (h : ParkedWhenEmpty e p s) :
    ParkedWhenEmpty e p (l.foldl op s) := by
  induction l generalizing s with
  | nil => exact h
  | cons x l ih => exact ih (step s x h)

theorem ParkedWhenEmpty.stopped (h : ParkedWhenEmpty e p s) : ParkedWhenEmpty e p (s.stopPrinting p) := by
  unfold State.stopPrinting
  split
  · exact h
  next j _ =>
    have cancelled := s.cancelStream_stopped p j
    have kept := h.kept (cancelled.keeps (f := PrinterOf.service) (fun _ _ _ => rfl) p)
      (cancelled.keeps (f := PrinterOf.queue) (fun _ _ _ => rfl) p)
    exact (kept.framed (State.settleJob_moves _ _ _).changesOnly).returned p j.tag

theorem ParkedWhenEmpty.finished (h : ParkedWhenEmpty e p s) (g : Nat) : ParkedWhenEmpty e p (s.endFinishing g) := by
  unfold State.endFinishing
  split
  · exact h
  · exact (h.framed (State.settleJob_moves _ _ _).changesOnly).ended g .printed

end Parked

/-- R103 to R106: no job of a queue that is empty is met, so an evacuation of it leaves the state. -/
theorem State.evacuate_empty {p : Nat} (empty : (s.printer p).queue = []) (full : Bool) : s.evacuate p full = s := by
  have first (x : JobState) : s.jobsIn p x = [] := by
    rw [State.jobsIn, empty]
    rfl
  have stop : s.stopPrinting p = s := by
    unfold State.stopPrinting State.firstIn
    rw [empty]
    rfl
  unfold State.evacuate
  simp only [stop, first]
  cases full <;> simp [first]

/-- R85: after an evacuation a Parking printer that had a job and has none is Parked, and else the service is as it was. -/
theorem State.evacuate_service (s : State) (p : Nat) (full : Bool) : ((s.evacuate p full).printer p).service =
    if (s.printer p).service = .parking ∧ (s.printer p).queue ≠ [] ∧ ((s.evacuate p full).printer p).queue = [] then .parked
    else (s.printer p).service := by
  by_cases empty : (s.printer p).queue = []
  · rw [State.evacuate_empty empty, if_neg (fun c => c.2.1 empty)]
  · have start : ParkedWhenEmpty (s.printer p) p s := by
      unfold ParkedWhenEmpty
      rw [if_neg (fun c => empty c.2)]
    have emptied : ParkedWhenEmpty (s.printer p) p (s.evacuate p full) := by
      unfold State.evacuate
      refine ParkedWhenEmpty.folded (fun _ g h => h.rerouted g) _ ?_
      cases full with
      | false => exact start.stopped
      | true => exact start.stopped.folded (fun _ g h => h.finished g) _
    rw [emptied]
    simp [empty]

/-- The jobs of a queue in a state, as the spec's statements list them. -/
theorem State.jobsIn_eq (s : State) (p : Nat) (x : JobState) :
    s.jobsIn p x = ((s.printer p).queue.filterMap s.job).filter (fun j => j.state = x) :=
  List.filter_congr fun j _ => beq_eq_decide j.state x

/-- R88, R158: what a job that joins a Delivery Queue reaches. -/
theorem State.enterQueue_changes (s : State) (q g : Nat) : ChangesOnly [Piece.printers, .clock] s (s.enterQueue q g) :=
  ChangesOnly.trans (l := [Piece.printers, .clock])
    (t := s.updPrinter q (fun e => { e with queue := e.queue ++ [g] }))
    ((s.updPrinter_entry q _).rest.mono (by decide))
    ((State.abandonSettling_moves _).changesOnly.mono (by decide))

/-! ### The re-route of a Released job (R106) -/

section Reroute
variable {p q : Nat} {j : Job}

/-- R106: a job re-routed from printer `p` to printer `q`, before the stream there may start. -/
def State.reroutedTo (s : State) (p q : Nat) (j : Job) : State :=
  let u := s.unreserve j.account (j.reservation.getD 0)
  let w := u.setAccount j.account { u.account j.account with reserved := (u.account j.account).reserved + u.priceAt q j }
  let moved := (w.unqueue p j.tag).updJob j.tag
    (fun x => { x with rates := some (u.ratesAt q j.account), reservation := some (u.priceAt q j) })
  (moved.enterQueue q j.tag).jobStatus j .released (some q) none none

theorem State.unreserve_account (k n : Nat) :
    (s.unreserve k n).account k = { s.account k with reserved := (s.account k).reserved - n } := by
  rw [State.unreserve, State.account_setAccount, if_pos rfl]

theorem State.unreserve_accounts (k n : Nat) : OtherAccounts k s (s.unreserve k n) := fun i hi => by
  rw [State.unreserve, State.account_setAccount, if_neg hi]

/-- R106: the job records, accounts and printers of a re-route. -/
theorem State.reroutedTo_job (job : s.job j.tag = some j) (g : Nat) : (s.reroutedTo p q j).job g = if g = j.tag then some { j with
    rates := some ((s.unreserve j.account (j.reservation.getD 0)).ratesAt q j.account)
    reservation := some ((s.unreserve j.account (j.reservation.getD 0)).priceAt q j) } else s.job g := by
  have left (r : State) : (r.unqueue p j.tag).job g = r.job g :=
    State.job_congr ((State.unqueue_moves r p j.tag).changesOnly .jobRecords (by decide)) g
  rw [State.reroutedTo, State.jobStatus_job, State.enterQueue_job, State.job_updJob _ j.tag (fun x => { x with
    rates := some ((s.unreserve j.account (j.reservation.getD 0)).ratesAt q j.account)
    reservation := some ((s.unreserve j.account (j.reservation.getD 0)).priceAt q j) }) (fun _ => rfl), left]
  by_cases hg : g = j.tag
  · rw [if_pos hg, if_pos hg, hg]
    exact congrArg (Option.map _) job
  · rw [if_neg hg, if_neg hg]
    rfl

theorem State.reroutedTo_account (i : Nat) : (s.reroutedTo p q j).account i = if i = j.account then
    let u := s.unreserve j.account (j.reservation.getD 0)
    { u.account j.account with reserved := (u.account j.account).reserved + u.priceAt q j } else s.account i := by
  rw [State.reroutedTo, State.jobStatus_account, State.enterQueue_account]
  have left (r : State) (f : Job → Job) : ((r.unqueue p j.tag).updJob j.tag f).account i = r.account i :=
    State.account_congr ((State.unqueue_moves r p j.tag).changesOnly .accounts (by decide)) i
  rw [left, State.account_setAccount]
  by_cases hi : i = j.account
  · rw [if_pos hi, if_pos hi]
  · rw [if_neg hi, if_neg hi, State.unreserve_accounts _ _ i hi]

theorem State.reroutedTo_printer (other : q ≠ p) (i : Nat) : (s.reroutedTo p q j).printer i =
    if i = q then { s.printer q with queue := (s.printer q).queue ++ [j.tag] }
    else if i = p then (s.printer p).without j.tag else s.printer i := by
  rw [State.reroutedTo, State.jobStatus_printer, State.enterQueue_printer]
  have same (r : State) (f : Job → Job) (i : Nat) : (r.updJob j.tag f).printer i = r.printer i := rfl
  have before (k n m : Nat) (a : Account) (i : Nat) : ((s.unreserve k n).setAccount m a).printer i = s.printer i := rfl
  rw [same, same, State.printer_unqueue _ _ _ other, before]
  by_cases hp : i = p
  · rw [hp, State.printer_unqueue_self, before]
    simp [other.symm]
  · rw [State.printer_unqueue _ _ _ hp, before, if_neg hp]

theorem State.reroutedTo_clock : (s.reroutedTo p q j).clock.core =
    { s.clock.core with mode := if s.clock.mode = .settling then .running else s.clock.mode } := by
  rw [State.reroutedTo, (State.jobStatus_moves ..).changesOnly .clock (by decide)]
  refine (State.abandonSettling_core _).trans ?_
  have same (r : State) (f : Job → Job) (g : Printer → Printer) :
      (((r.unqueue p j.tag).updJob j.tag f).updPrinter q g).clock.core = r.clock.core :=
    (((State.unqueue_moves r p j.tag).changesOnly .clock (by decide)))
  rw [same, (Clock.eq_of_core (same _ _ _)).2.2.2.2.1]
  rfl

/-- R106: the frame of a re-route, and its JOB_STATUS. -/
theorem State.reroutedTo_spec :
    ChangesOnly ([Piece.jobRecords, .accounts, .printers, .clock, .storeWriting] ++ jobTraffic) s (s.reroutedTo p q j) ∧
      (s.jobs.outgoing.length < 4096 → JobSent s (s.reroutedTo p q j) [statusOf s j .released (some q) none none]) := by
  let l : List Piece := [.jobRecords, .accounts, .printers, .clock, .storeWriting]
  let u := s.unreserve j.account (j.reservation.getD 0)
  let w := u.setAccount j.account { u.account j.account with reserved := (u.account j.account).reserved + u.priceAt q j }
  let moved := (w.unqueue p j.tag).updJob j.tag
    (fun x => { x with rates := some (u.ratesAt q j.account), reservation := some (u.priceAt q j) })
  let entered := moved.enterQueue q j.tag
  have reserved : ChangesOnly l s w := ((State.setAccount_changes s _ _).trans (State.setAccount_changes u _ _)).mono (by decide)
  have moves : ChangesOnly l w moved :=
    ((State.unqueue_moves w p j.tag).changesOnly.mono (by decide)).trans
      ((State.updJob_moves (w.unqueue p j.tag) j.tag _).changesOnly.mono (by decide))
  have enters : ChangesOnly l moved entered :=
    (State.enterQueue_changes moved q j.tag).mono (by decide)
  have frame : ChangesOnly l s entered := (reserved.trans moves).trans enters
  refine ⟨(frame.mono (by decide)).trans ((State.jobStatus_moves entered j _ _ _ _).changesOnly.mono (by decide)), fun room => ?_⟩
  have told := State.jobStatus_sent (s := entered) j .released (some q) none none
    (by rw [frame .outgoing (by decide)]; exact room)
  rw [statusOf_congr (frame .settings (by decide))] at told
  exact told.after (frame .officeOwn (by decide)) (frame .outgoing (by decide))

/-- R106: a Released job, unreserved, returns to hold when no printer takes it. -/
theorem State.reroute_returned (job : s.job j.tag = some j) (h : (s.unreserve j.account (j.reservation.getD 0)).partner p j = none ∨
    ∃ q, (s.unreserve j.account (j.reservation.getD 0)).partner p j = some q ∧
      (s.unreserve j.account (j.reservation.getD 0)).reserve j.account
        ((s.unreserve j.account (j.reservation.getD 0)).priceAt q j) = none) :
    ReturnedToHold (s.unreserve j.account (j.reservation.getD 0)) (s.reroute p j.tag) p j := by
  have back : s.reroute p j.tag = (s.unreserve j.account (j.reservation.getD 0)).returnToHold p j.tag := by
    unfold State.reroute
    rw [job]
    dsimp only
    rcases h with h | ⟨q, h, reserve⟩
    · rw [h]
    · rw [h]
      dsimp only
      rw [reserve]
  rw [back]
  exact State.returnToHold_returned (x := j) job rfl

/-- R106: with a printer for it and the quota, it is re-routed there, where the next stream may start. -/
theorem State.reroute_moved (job : s.job j.tag = some j) (h : (s.unreserve j.account (j.reservation.getD 0)).partner p j = some q)
    (covers : ((s.unreserve j.account (j.reservation.getD 0)).account j.account).covers
      ((s.unreserve j.account (j.reservation.getD 0)).priceAt q j) = true)
    (fits : ((s.unreserve j.account (j.reservation.getD 0)).account j.account).reserved +
      (s.unreserve j.account (j.reservation.getD 0)).priceAt q j ≤ 16777215) :
    s.reroute p j.tag = (s.reroutedTo p q j).startStream q := by
  unfold State.reroute
  rw [job]
  dsimp only
  rw [h]
  dsimp only
  rw [State.reserve_some covers fits]
  rfl

end Reroute

/-- Settles O38: the steps by definition, and each of them by the settlement, return or move that it is made of. -/
theorem evacuationSteps : Obligations.EvacuationSteps := by
  refine ⟨fun s p full => ?_, fun s p j hw job queue => ⟨fun printing => ?_, fun finishing => ?_, ?_⟩⟩
  · let u := s.stopPrinting p
    let v := if full then ((u.jobsIn p .finishing).map Job.tag).foldl State.endFinishing u else u
    refine ⟨u, v, rfl, fun none => ?_, fun part => ?_, fun whole => ?_, ?_, s.evacuate_service p full⟩
    · unfold u State.stopPrinting
      rw [none]
    · unfold v
      rw [part]
      rfl
    · unfold v
      rw [if_pos whole, List.foldl_map, State.jobsIn_eq]
    · rw [← State.jobsIn_eq, ← List.foldl_map (f := Job.tag) (g := fun w g => State.reroute w p g)]
      rfl
  · obtain ⟨stopped, settled, record⟩ := State.stopped_settled (p := p) job
    refine ⟨_, _, stopped, settled, ?_⟩
    have stop : s.stopPrinting p =
        ((s.cancelStream p j.tag).settleJob j.tag j.reportedOrZero).returnToHold p j.tag := by
      unfold State.stopPrinting
      rw [printing]
    rw [stop]
    exact State.returnToHold_returned record rfl
  · have ended : s.endFinishing j.tag = (s.settleJob j.tag j.reportedOrZero).endTag j.tag .printed := by
      unfold State.endFinishing
      rw [job]
    rw [ended]
    exact ⟨_, (InDeliveryAt.of_job hw job queue (by rw [finishing]; rfl)).settledAndEnded _ _⟩
  · let u := s.unreserve j.account (j.reservation.getD 0)
    refine ⟨u, State.unreserve_account _ _, State.unreserve_accounts _ _, State.setAccount_changes s _ _,
      fun none => State.reroute_returned job (.inl none), fun q partner => ⟨fun fails => ?_, fun covers fits => ?_⟩⟩
    · exact State.reroute_returned job (.inr ⟨q, partner, State.reserve_none fails⟩)
    · have other := (State.partner_spec partner).1
      obtain ⟨frame, told⟩ := State.reroutedTo_spec (s := s) (p := p) (q := q) (j := j)
      refine ⟨other, s.reroutedTo p q j, ?_, fun g hg => ?_, ?_, fun k hk => ?_, ?_, ?_, fun i hp hq => ?_,
        State.reroutedTo_clock, told, frame, State.reroute_moved job partner covers fits⟩
      · rw [State.reroutedTo_job job, if_pos rfl]
      · rw [State.reroutedTo_job job, if_neg hg]
      · rw [State.reroutedTo_account, if_pos rfl]
      · rw [State.reroutedTo_account, if_neg hk]
      · rw [State.reroutedTo_printer other, if_neg other.symm, if_pos rfl]
      · rw [State.reroutedTo_printer other, if_pos rfl]
      · rw [State.reroutedTo_printer other, if_neg hq, if_neg hp]

end Sys2Proof.Machine

/-! PROOFS. The console's commands on printers: PARK, UNPARK, PARK_NOW, WITHDRAW and REINSTATE (R85 to R87, R118, R119). -/

namespace Sys2Proof.Machine

set_option Elab.async false

variable {s t u v : State}

/-! ### Commands that name a printer (R146, R174) -/

/-- A dirty mark leaves an entry that has been replaced. -/
theorem EntryBecomes.marked {l : List Piece} {p : Nat} {e : Printer} (h : EntryBecomes l s t p e) (n : Nat)
    (hl : Piece.storeWriting ∈ l) : EntryBecomes l s (t.mark n) p e :=
  h.later (State.mark_printers ..) ((State.mark_moves t n).changesOnly.mono fun x hx => by
    rw [List.mem_singleton.1 hx]
    exact List.mem_append_right _ hl)

/-- A notice leaves an entry that has been replaced. -/
theorem EntryBecomes.told {l : List Piece} {p : Nat} {e : Printer} (h : EntryBecomes l s t p e) (n : Notice)
    (hl : ∀ x ∈ noticeTraffic, x ∈ l) : EntryBecomes l s (t.notify n) p e :=
  h.later ((State.notify_moves t n).changesOnly .printers (by decide))
    ((State.notify_moves t n).changesOnly.mono fun x hx => List.mem_append_right _ (hl x hx))

/-- R85: the service of an entry becomes `x`, and its health record is dirty. -/
theorem State.serviceMarked_entry (s : State) (p : Nat) (f : Printer → Printer) :
    EntryBecomes [.storeWriting] s ((s.updPrinter p f).mark (healthSlot p)) p (f (s.printer p)) :=
  ((s.updPrinter_entry p f).wider nofun).marked _ (by simp)

section Command
variable {h : Hdr} {p : Nat} {c : Instr} {rule : Nat → State → Reply}

theorem onPrinter_reached {act : Nat → State → Reply} (hp : p ≤ 63) (used : (s.printer p).service ≠ .unused) :
    onPrinter act p s = act p s := by
  unfold onPrinter
  rw [if_neg (show ¬Config.printers ≤ p from Nat.not_le.2 (Nat.lt_succ_of_le hp)), if_neg used]

theorem onPrinter_refused {act : Nat → State → Reply} {r : Result}
    (first : FirstOf [(63 < p, Result.badIndex), ((s.printer p).service = .unused, .notAccepted)] r) :
    onPrinter act p s = Reply.refuse s r := by
  unfold onPrinter
  rcases first with ⟨beyond, rfl⟩ | ⟨within, ⟨unused, rfl⟩ | ⟨-, ⟨⟩⟩⟩
  · exact if_pos beyond
  · rw [if_neg (show ¬Config.printers ≤ p from within), if_pos unused]

/-- R146, R174: a command that names an index or an entry it may not name is refused. -/
theorem printerCommand_refused {r : Result} (hr : ConsoleReady h s)
    (first : FirstOf [(63 < p, Result.badIndex), ((s.printer p).service = .unused, .notAccepted)] r)
    (hc : exec c s = mgmtRequest h (some p) (onPrinter rule) s) : CarriedOut c h s s r := by
  refine carriedOut_unchanged hr hc (onPrinter_refused ?_)
  rw [State.restartIdle_printer]
  exact first

/-- R174: a command on an entry that is not Unused carries out its rule. -/
theorem printerCommand_done {l : List Piece} {r : Result} (hr : ConsoleReady h s) (hp : p ≤ 63)
    (used : (s.printer p).service ≠ .unused) (hc : exec c s = mgmtRequest h (some p) (onPrinter rule) s)
    (done : rule p s.restartIdle = { state := u, result := r }) (moves : Moves l s.restartIdle (rule p s.restartIdle).state)
    (hl : Piece.reply ∉ l ∧ Piece.officeOther ∉ l := by decide) : CarriedOut c h s u r := by
  refine carriedOut_of hr hc ((onPrinter_reached hp ?_).trans done) (l := l) ?_ hl
  · rw [State.restartIdle_printer]
    exact used
  · rw [done] at moves
    exact moves

/-- R85 to R87, R118: a command that finds its work done answers OK. -/
theorem printerCommand_idle {r : Result} (hr : ConsoleReady h s) (hp : p ≤ 63)
    (used : (s.printer p).service ≠ .unused) (hc : exec c s = mgmtRequest h (some p) (onPrinter rule) s)
    (idle : rule p s.restartIdle = { state := s.restartIdle, result := r }) : CarriedOut c h s s r := by
  refine carriedOut_unchanged hr hc ((onPrinter_reached hp ?_).trans idle)
  rw [State.restartIdle_printer]
  exact used

end Command

/-! ### What each rule makes of the entry -/

section Rules
variable {p : Nat}

/-- R85: PARK of an entry In-service. -/
theorem parkRule_done (serves : (s.printer p).service = .inService) : ∃ u, parkRule p s = { state := u, result := .ok } ∧
    healthSlot p ∈ u.store.dirty ∧ EntryBecomes [.storeWriting] s u p
      (if (s.printer p).queue = [] then { s.printer p with service := .parked, limit := .stopped }
        else { s.printer p with service := .parking }) := by
  unfold parkRule
  rw [if_pos serves]
  by_cases empty : (s.printer p).queue = []
  · rw [if_pos empty, if_pos (by rw [empty]; rfl)]
    exact ⟨_, rfl, State.mem_mark _, s.serviceMarked_entry p _⟩
  · rw [if_neg empty, if_neg (by rwa [List.isEmpty_iff])]
    exact ⟨_, rfl, State.mem_mark _, s.serviceMarked_entry p _⟩

theorem State.startTimer_awake (awake : s.asleep = false) (n : Nat) : s.startTimer n = .running n := by
  unfold State.startTimer
  rw [awake]
  rfl

/-- R86, R122: UNPARK of a Parking or Parked entry. -/
theorem unparkRule_done (awake : s.asleep = false) (used : (s.printer p).service ≠ .unused)
    (other : (s.printer p).service ≠ .inService) : ∃ u, unparkRule p s = { state := u, result := .ok } ∧
    healthSlot p ∈ u.store.dirty ∧ EntryBecomes [.storeWriting] s u p { s.printer p with
      service := .inService
      limit := if (s.printer p).service = .parked ∧ (s.printer p).standing ≠ Standing.none
        then .running (s.printer p).cfg.standingLimit else (s.printer p).limit } := by
  let t := (s.updPrinter p (fun e => { e with service := .inService })).mark (healthSlot p)
  have back : EntryBecomes [.storeWriting] s t p { s.printer p with service := .inService } := s.serviceMarked_entry p _
  have dirty : healthSlot p ∈ t.store.dirty := State.mem_mark _
  unfold unparkRule
  cases service : (s.printer p).service with
  | unused => exact absurd service used
  | inService => exact absurd service other
  | parking => exact ⟨t, rfl, dirty, by simpa using back⟩
  | parked =>
    dsimp only
    rw [back.printer]
    by_cases empty : (s.printer p).standing = Standing.none
    · rw [if_pos (Standing.isEmpty_iff.2 empty)]
      exact ⟨t, rfl, dirty, by simpa [empty] using back⟩
    · rw [if_neg (fun c => empty (Standing.isEmpty_iff.1 c))]
      have mode : t.asleep = false := by rw [State.asleep_congr back.rest, awake]
      have started : t.startLimit p = t.updPrinter p (fun e => { e with limit := t.startTimer e.cfg.standingLimit }) := by
        unfold State.startLimit
        rw [back.printer]
        rfl
      have entry := t.updPrinter_entry p (fun e => { e with limit := t.startTimer e.cfg.standingLimit })
      rw [← started, back.printer, State.startTimer_awake mode] at entry
      refine ⟨_, rfl, ?_, ?_⟩
      · rw [(entry.rest .storeWriting (by decide)).1]
        exact dirty
      · have both := back.trans (entry.wider nofun)
        simpa [empty] using both

/-- R87: PARK_NOW of an entry that is not Parked. -/
theorem parkNowRule_done (other : (s.printer p).service ≠ .parked) :
    parkNowRule p s = { state := (s.evacuate p true).becomeParked p, result := .ok } := if_neg other

theorem State.becomeParked_entry (s : State) (p : Nat) :
    EntryBecomes [.storeWriting] s (s.becomeParked p) p { s.printer p with service := .parked, limit := .stopped } ∧
      healthSlot p ∈ (s.becomeParked p).store.dirty := ⟨s.serviceMarked_entry p _, State.mem_mark _⟩

/-- R118: WITHDRAW of an entry that is not Withdrawn, up to its evacuation. -/
theorem withdrawRule_done (other : (s.printer p).health ≠ .withdrawn) :
    ∃ u, withdrawRule p s = { state := u.evacuate p true, result := .ok } ∧
      EntryBecomes ([.storeWriting] ++ noticeTraffic) s u p { s.printer p with health := .withdrawn } ∧
      NoticeFormed s u (.healthChange p (s.printer p).health .withdrawn (s.printer p).score) ∧
      healthSlot p ∈ u.store.dirty := by
  obtain ⟨entry, notice⟩ := s.bandMoved_entry p .withdrawn
  refine ⟨(s.bandMoved p .withdrawn).mark (healthSlot p), if_neg other,
    (entry.wider (by decide)).marked _ (by simp), ?_, State.mem_mark _⟩
  exact notice.between ⟨rfl, rfl, rfl⟩ ⟨State.mark_oport .., State.mark_console ..⟩

/-- R119: REINSTATE, up to the close test. -/
theorem reinstateRule_done (s : State) (p : Nat) :
    ∃ u, reinstateRule p s = { state := u.closeTest p, result := .ok } ∧
      EntryBecomes ([.storeWriting] ++ noticeTraffic) s u p { s.printer p with score := 0, health := .active } ∧
      ((s.printer p).health ≠ .active → NoticeFormed s u (.healthChange p (s.printer p).health .active 0)) ∧
      ((s.printer p).health = .withdrawn → healthSlot p ∈ u.store.dirty) := by
  let a := s.updPrinter p (fun e => { e with score := 0, health := .active })
  have cleared : EntryBecomes ([.storeWriting] ++ noticeTraffic) s a p { s.printer p with score := 0, health := .active } :=
    (s.updPrinter_entry p _).wider nofun
  have change (old : Health) : a.healthChange p old .active = a.notify (.healthChange p old .active 0) := by
    rw [State.healthChange, cleared.printer]
  have notice (n : Notice) : NoticeFormed s (a.notify n) n :=
    (State.notify_formed (s := a) n).between ⟨rfl, rfl, rfl⟩ ⟨rfl, rfl⟩
  unfold reinstateRule
  cases health : (s.printer p).health with
  | active => exact ⟨a, rfl, cleared, fun c => absurd rfl c, nofun⟩
  | watch =>
    exact ⟨a.healthChange p .watch .active, rfl, change _ ▸ cleared.told _ (by decide), fun _ => change _ ▸ notice _, nofun⟩
  | degraded =>
    exact ⟨a.healthChange p .degraded .active, rfl, change _ ▸ cleared.told _ (by decide),
      fun _ => change _ ▸ notice _, nofun⟩
  | withdrawn =>
    refine ⟨(a.healthChange p .withdrawn .active).mark (healthSlot p), rfl, ?_, fun _ => ?_, fun _ => State.mem_mark _⟩
    · exact EntryBecomes.marked (change _ ▸ cleared.told _ (by decide)) _ (by simp)
    · rw [change]
      exact (notice _).between ⟨rfl, rfl, rfl⟩ ⟨State.mark_oport .., State.mark_console ..⟩

end Rules

/-- Settles O44: each command refuses, finds its work done, or carries out its rule. -/
theorem printerCommands : Obligations.PrinterCommands := by
  intro h p s hr
  have park : exec (.park h (some p)) s = mgmtRequest h (some p) (onPrinter parkRule) s := rfl
  have unpark : exec (.unpark h (some p)) s = mgmtRequest h (some p) (onPrinter unparkRule) s := rfl
  have parkNow : exec (.parkNow h (some p)) s = mgmtRequest h (some p) (onPrinter parkNowRule) s := rfl
  have withdraw : exec (.withdraw h (some p)) s = mgmtRequest h (some p) (onPrinter withdrawRule) s := rfl
  have reinstate : exec (.reinstate h (some p)) s = mgmtRequest h (some p) (onPrinter reinstateRule) s := rfl
  have same : s.restartIdle.printer p = s.printer p := State.restartIdle_printer p
  refine ⟨fun r first c hc => ?_, fun hp used => ?_⟩
  · simp only [List.mem_cons, List.not_mem_nil, or_false] at hc
    rcases hc with rfl | rfl | rfl | rfl | rfl
    · exact printerCommand_refused hr first park
    · exact printerCommand_refused hr first unpark
    · exact printerCommand_refused hr first parkNow
    · exact printerCommand_refused hr first withdraw
    · exact printerCommand_refused hr first reinstate
  · intro e
    have awake : s.restartIdle.asleep = false := by rw [State.restartIdle_asleep, hr.awake]
    refine ⟨fun other => ?_, fun serves => ?_, fun serves => ?_, fun other => ?_, fun parked => ?_, fun other => ?_,
      fun gone => ?_, fun other => ?_, ?_⟩
    · exact printerCommand_idle hr hp used park (if_neg (by rw [same]; exact other))
    · obtain ⟨u, done, dirty, entry⟩ := parkRule_done (s := s.restartIdle) (p := p) (by rw [same]; exact serves)
      rw [same] at entry
      exact ⟨u, dirty, printerCommand_done hr hp used park done (parkRule_moves _ p),
        (entry.wider (by decide)).of_restartIdle (by decide)⟩
    · refine printerCommand_idle hr hp used unpark ?_
      unfold unparkRule
      rw [same, show (s.printer p).service = .inService from serves]
    · obtain ⟨u, done, dirty, entry⟩ := unparkRule_done (s := s.restartIdle) (p := p) awake (by rw [same]; exact used)
        (by rw [same]; exact other)
      rw [same] at entry
      exact ⟨u, dirty, printerCommand_done hr hp used unpark done (unparkRule_moves _ p),
        (entry.wider (by decide)).of_restartIdle (by decide)⟩
    · exact printerCommand_idle hr hp used parkNow (if_pos (by rw [same]; exact parked))
    · obtain ⟨entry, dirty⟩ := (s.restartIdle.evacuate p true).becomeParked_entry p
      exact ⟨s.restartIdle, _, s.restartIdle_changes, entry, dirty,
        printerCommand_done hr hp used parkNow (parkNowRule_done (by rw [same]; exact other)) (parkNowRule_moves _ p)⟩
    · exact printerCommand_idle hr hp used withdraw (if_pos (by rw [same]; exact gone))
    · obtain ⟨u, done, entry, notice, dirty⟩ := withdrawRule_done (s := s.restartIdle) (p := p) (by rw [same]; exact other)
      rw [same] at entry notice
      exact ⟨u, (entry.wider (by decide)).of_restartIdle (by decide), notice.of_restartIdle, dirty,
        printerCommand_done hr hp used withdraw done (withdrawRule_moves _ p)⟩
    · obtain ⟨u, done, entry, notice, dirty⟩ := reinstateRule_done s.restartIdle p
      rw [same] at entry notice dirty
      exact ⟨u, (entry.wider (by decide)).of_restartIdle (by decide), fun c => (notice c).of_restartIdle, dirty,
        printerCommand_done hr hp used reinstate done (reinstateRule_moves _ p)⟩

end Sys2Proof.Machine

/-! PROOFS. The Reorder Table (R143 to R146, R150): the reorder test, an order opened, the closing of a record, and the offer of a
freed one. -/

namespace Sys2Proof.Machine

set_option Elab.async false

variable {s t u v : State}

/-! ### A colorant record replaced (R134) -/

section Supply
variable {p : Nat} {col : Colorant}

theorem PrinterOf.supply_setSupply (e : Printer) (col x : Colorant) (r : Option Supply) :
    (e.setSupply col r).supply x = if x = col then r else e.supply x := by
  cases col <;> cases x <;> rfl

theorem State.putSupply_entry (s : State) (p : Nat) (col : Colorant) (r : Option Supply) :
    EntryBecomes [] s (s.putSupply p col r) p ((s.printer p).setSupply col r) := s.updPrinter_entry p _

theorem State.setSupply_entry (s : State) (p : Nat) (col : Colorant) (r : Supply) :
    EntryBecomes [.storeWriting] s (s.setSupply p col r) p ((s.printer p).setSupply col (some r)) := by
  have put := (s.putSupply_entry p col (some r)).wider (l := [.storeWriting]) nofun
  unfold State.setSupply
  dsimp only
  split
  · exact put
  · exact put.marked _ (by decide)

/-- R134: a record whose slot changes is dirty. -/
theorem State.setSupply_dirty {r : Supply} (h : supplyImage ((s.printer p).supply col) ≠ supplyImage (some r)) :
    colorantSlot p col ∈ (s.setSupply p col r).store.dirty := by
  unfold State.setSupply
  dsimp only
  rw [if_neg h]
  exact State.mem_mark _

theorem State.setSupply_keepsDirty {n : Nat} (h : n ∈ s.store.dirty) (r : Supply) : n ∈ (s.setSupply p col r).store.dirty := by
  unfold State.setSupply
  dsimp only
  split
  · exact h
  · exact State.mem_mark_of_mem _ _ h

theorem supplyImage_armed {r x : Supply} (h : r.armed ≠ x.armed) : supplyImage (some r) ≠ supplyImage (some x) :=
  fun c => h (Image.colorant.inj c).2.2.2.1

end Supply

/-! ### The records (R145) -/

theorem State.mark_reorder (s : State) (n i : Nat) : (s.mark n).reorder i = s.reorder i :=
  State.reorder_congr ((s.mark_moves n).changesOnly .reorders (by decide)) i

theorem State.notify_reorder (s : State) (n : Notice) (i : Nat) : (s.notify n).reorder i = s.reorder i :=
  State.reorder_congr ((s.notify_moves n).changesOnly .reorders (by decide)) i

theorem State.setSupply_reorder (s : State) (p : Nat) (col : Colorant) (r : Supply) (i : Nat) :
    (s.setSupply p col r).reorder i = s.reorder i :=
  State.reorder_congr ((s.setSupply_moves p col r).changesOnly .reorders (by decide)) i

section Orders
variable {p : Nat} {col : Colorant}

/-- R145: the open record of a colorant, of lowest index. -/
theorem State.orderOf_iff (h : s.TablesCanonical) (i : Nat) : s.orderOf p col = some i ↔
    (∃ o, s.reorder i = some o ∧ o.printer = p ∧ o.colorant = col) ∧
      ∀ x < i, ∀ o, s.reorder x = some o → ¬(o.printer = p ∧ o.colorant = col) := by
  have found := Tbl.find_iff (d := none) (f := fun _ (e : Option Reorder) => match e with
    | some r => r.printer == p && r.colorant == col
    | none => false) (Tbl.wf_iff.1 h.reorders).1 (fun _ => rfl) i
  refine found.trans (and_congr ?_ (forall₂_congr fun x _ => ?_))
  · show _ = true ↔ ∃ r, Tbl.get none s.reorders i = some r ∧ _
    cases Tbl.get none s.reorders i <;> simp
  · show _ = false ↔ ∀ r, Tbl.get none s.reorders x = some r → _
    cases Tbl.get none s.reorders x <;> simp

theorem State.orderOf_none_iff (h : s.TablesCanonical) :
    s.orderOf p col = none ↔ ∀ i o, s.reorder i = some o → ¬(o.printer = p ∧ o.colorant = col) := by
  have none := Tbl.find_none_iff (d := none) (f := fun _ (e : Option Reorder) => match e with
    | some r => r.printer == p && r.colorant == col
    | none => false) (Tbl.wf_iff.1 h.reorders).1 (fun _ => rfl)
  refine none.trans (forall_congr' fun x => ?_)
  show _ = false ↔ ∀ r, Tbl.get Option.none s.reorders x = some r → _
  cases Tbl.get Option.none s.reorders x <;> simp

/-- R144, R145: an order opened for a colorant record, which is then disarmed and owes none. -/
theorem State.openReorder_opened {r : Supply} (h : (s.printer p).supply col = some r) (i : Nat) :
    OrderOpened s (s.openReorder p col i) p col r i := by
  let a := (s.setReorder i (some (s.newOrder p col r))).mark (reorderSlot i)
  let b := a.setSupply p col { r with armed := false, owed := false }
  have shape : s.openReorder p col i = b.notify (.reorder i (s.newOrder p col r) (s.newOrder p col r).level .opened) := by
    unfold State.openReorder
    rw [h]
    rfl
  have printers (x : Nat) : a.printer x = s.printer x := State.mark_printer ..
  have records (x : Nat) : b.reorder x = if x = i then some (s.newOrder p col r) else s.reorder x := by
    rw [State.setSupply_reorder, State.mark_reorder, State.reorder_setReorder]
  have entry := a.setSupply_entry p col { r with armed := false, owed := false }
  have store : (s.openReorder p col i).store.dirty = b.store.dirty := by
    rw [shape, ((b.notify_moves _).changesOnly .storeWriting (by decide)).1]
  refine ⟨?_, fun x hx => ?_, ?_, fun x hx => ?_, ?_, ?_, (s.openReorder_moves p col i).changesOnly⟩
  · rw [shape, State.notify_reorder, records, if_pos rfl]
  · rw [shape, State.notify_reorder, records, if_neg hx]
  · rw [shape, State.notify_printer, entry.printer, printers]
  · rw [shape, State.notify_printer, entry.printers x hx, printers]
  · rw [store]
    refine ⟨State.setSupply_keepsDirty (State.mem_mark _) _, fun armed => State.setSupply_dirty ?_⟩
    rw [printers, h]
    exact supplyImage_armed (by simp [armed])
  · rw [shape]
    have before : ChangesOnly [Piece.reorders, .printers, .storeWriting] s b :=
      (((Moves.one (.reorder s i _)).mono.next (State.mark_moves _ _)).next (State.setSupply_moves _ _ _ _)).changesOnly
    exact (State.notify_formed (s := b) _).between ⟨before.oport, before.console, before .settings (by decide)⟩ ⟨rfl, rfl⟩

/-- R143: the reorder test asks for an order. -/
theorem Supply.short_iff (r : Supply) : r.short = true ↔ r.armed = true ∧
    ((0 < r.usage ∧ r.remaining * 16 / r.usage ≤ r.cfg.lead) ∨ r.remaining * 1000 / r.cfg.yield ≤ r.cfg.floor) := by
  unfold Supply.short Supply.daysLeft Supply.level
  by_cases none : r.usage = 0
  · simp [none]
  · simp [none, Nat.pos_of_ne_zero none]

/-- R143, R144, R150: the reorder test of a colorant record. -/
theorem State.reorderTest_spec {r : Supply} (h : (s.printer p).supply col = some r) :
    (¬(r.short = true ∧ s.orderOf p col = none) →
      EntryBecomes [] s (s.reorderTest p col) p ((s.printer p).setSupply col (some { r with owed := false }))) ∧
    (r.short = true ∧ s.orderOf p col = none →
      (∀ i < 64, s.reorder i = none → (∀ x < i, s.reorder x ≠ none) → OrderOpened s (s.reorderTest p col) p col r i) ∧
        ((∀ i < 64, s.reorder i ≠ none) →
          EntryBecomes [] s (s.reorderTest p col) p ((s.printer p).setSupply col (some { r with owed := true })))) := by
  have test : (r.short && (s.orderOf p col).isNone) = true ↔ r.short = true ∧ s.orderOf p col = none := by
    rw [Bool.and_eq_true, Option.isNone_iff_eq_none]
  unfold State.reorderTest
  rw [h]
  dsimp only
  refine ⟨fun idle => ?_, fun due => ⟨fun i hi free before => ?_, fun full => ?_⟩⟩
  · rw [if_neg (test.not.2 idle)]
    exact s.putSupply_entry p col _
  · rw [if_pos (test.2 due), show lowestFree s.reorders Config.reorders = some i from lowestFree_some hi free before]
    exact State.openReorder_opened h i
  · rw [if_pos (test.2 due), show lowestFree s.reorders Config.reorders = none from lowestFree_none full]
    exact s.putSupply_entry p col _

/-- R146: a reorder record closed. -/
theorem State.closeReorder_closed {i : Nat} {o : Reorder} (d : ReorderDetail) (h : s.reorder i = some o) :
    OrderClosed s (s.closeReorder i d) i o d := by
  let a := (s.setReorder i none).mark (reorderSlot i)
  have shape : s.closeReorder i d =
      a.notify (.reorder i o ((((s.printer o.printer).supply o.colorant).map Supply.level).getD 0) d) := by
    unfold State.closeReorder
    rw [h]
    rfl
  have records (x : Nat) : a.reorder x = if x = i then none else s.reorder x := by
    rw [State.mark_reorder, State.reorder_setReorder]
  have before : ChangesOnly [Piece.reorders, .storeWriting] s a :=
    ((Moves.one (.reorder s i none)).mono.next (State.mark_moves _ _)).changesOnly
  rw [shape]
  refine ⟨?_, fun x hx => ?_, ?_, ?_, (before.mono (by decide)).trans ((a.notify_moves _).changesOnly.mono (by decide))⟩
  · rw [State.notify_reorder, records, if_pos rfl]
  · rw [State.notify_reorder, records, if_neg hx]
  · rw [((a.notify_moves _).changesOnly .storeWriting (by decide)).1]
    exact State.mem_mark _
  · exact (State.notify_formed (s := a) _).between ⟨before.oport, before.console, before .settings (by decide)⟩ ⟨rfl, rfl⟩

end Orders

/-! ### The offer of a freed record (R150) -/

/-- R150: a colorant that owes an order. -/
def State.Owing (s : State) (x : Nat × Colorant) : Prop :=
  (s.printer x.1).service ≠ .unused ∧ ∃ r, (s.printer x.1).supply x.2 = some r ∧ r.owed = true

/-- R150: the order in which colorants are offered a freed record. -/
def OfferedBefore (x y : Nat × Colorant) : Prop := x.1 < y.1 ∨ (x.1 = y.1 ∧ colorantIndex x.2 < colorantIndex y.2)

theorem mem_colorants (col : Colorant) : col ∈ colorants := by cases col <;> decide

theorem colorants_rising : colorants.Pairwise (fun a b => colorantIndex a < colorantIndex b) := by decide

theorem State.mem_owedOrders (hw : s.TablesCanonical) (x : Nat × Colorant) : x ∈ s.owedOrders ↔ s.Owing x := by
  obtain ⟨p, col⟩ := x
  unfold State.owedOrders State.Owing
  simp only [List.mem_flatMap, List.mem_map, List.mem_filter, Prod.mk.injEq, mem_colorants, true_and]
  have owes : (((s.printer p).supply col).map Supply.owed).getD false = true ↔
      ∃ r, (s.printer p).supply col = some r ∧ r.owed = true := by
    cases (s.printer p).supply col <;> simp
  rw [← owes, ← State.mem_configured_iff hw]
  constructor
  · rintro ⟨q, hq, z, hz, rfl, rfl⟩
    exact ⟨hq, hz⟩
  · rintro ⟨hp, hc⟩
    exact ⟨p, hp, col, hc, rfl, rfl⟩

theorem State.owedOrders_rising (hw : s.TablesCanonical) : s.owedOrders.Pairwise OfferedBefore := by
  unfold State.owedOrders
  refine List.pairwise_flatMap.2 ⟨fun p _ => ?_, ?_⟩
  · exact List.pairwise_map.2 ((colorants_rising.filter _).imp fun h => .inr ⟨rfl, h⟩)
  · refine (Tbl.indexesWhere_rising (Tbl.wf_iff.1 hw.printers).1).imp fun {p q} before x hx z hz => ?_
    obtain ⟨a, -, rfl⟩ := List.mem_map.1 hx
    obtain ⟨b, -, rfl⟩ := List.mem_map.1 hz
    exact .inl before

/-- R150: the first colorant that owes an order is offered the record. -/
theorem State.offerReorder_first (hw : s.TablesCanonical) {p : Nat} {col : Colorant} (owing : s.Owing (p, col))
    (first : ∀ x, OfferedBefore x (p, col) → ¬s.Owing x) (i : Nat) : s.offerReorder i = s.openReorder p col i := by
  have mem := (State.mem_owedOrders hw (p, col)).2 owing
  have rising := State.owedOrders_rising hw
  unfold State.offerReorder
  cases list : s.owedOrders with
  | nil =>
    rw [list] at mem
    exact absurd mem List.not_mem_nil
  | cons x rest =>
    rw [list] at mem rising
    rcases List.mem_cons.1 mem with rfl | later
    · rfl
    · have head : s.Owing x := (State.mem_owedOrders hw x).1 (by rw [list]; exact List.mem_cons_self ..)
      exact absurd head (first x ((List.pairwise_cons.1 rising).1 _ later))

theorem State.offerReorder_none (hw : s.TablesCanonical) (none : ∀ x, ¬s.Owing x) (i : Nat) : s.offerReorder i = s := by
  have empty : s.owedOrders = [] := List.eq_nil_iff_forall_not_mem.2 fun x hx => none x ((State.mem_owedOrders hw x).1 hx)
  unfold State.offerReorder
  rw [empty]

/-- Settles O45: the records of the table, the reorder test, the closing and the offer of a record. -/
theorem reorderTest : Obligations.ReorderTest := by
  refine fun s hw => ⟨fun p col => ⟨State.orderOf_none_iff hw, fun i found => ((State.orderOf_iff hw i).1 found).1,
    fun r h => ?_⟩,
    fun i o d h => State.closeReorder_closed d h, fun i => ⟨fun none => ?_, fun p col r owing h first => ?_⟩⟩
  · intro due
    have same : due ↔ r.short = true ∧ s.orderOf p col = none := by
      rw [Supply.short_iff]
      exact ⟨fun ⟨armed, free, short⟩ => ⟨⟨armed, short⟩, free⟩, fun ⟨⟨armed, short⟩, free⟩ => ⟨armed, free, short⟩⟩
    rw [same]
    exact State.reorderTest_spec h
  · exact State.offerReorder_none hw (fun x => none x.1 x.2) i
  · rw [State.offerReorder_first hw owing (fun x before => first x.1 x.2 before) i]
    exact State.openReorder_opened h i

end Sys2Proof.Machine

/-! PROOFS. Cartridges and colorant reports (R138, R140), and the console's commands on orders (R141, R146, R148, R149). -/

namespace Sys2Proof.Machine

set_option Elab.async false

variable {s t u v : State}

/-! ### A cartridge change and the reports of a STATUS (R138, R140) -/

section Reports
variable {p : Nat} {col : Colorant}

theorem State.setSupply_orderOf (s : State) (p : Nat) (col : Colorant) (r : Supply) (q : Nat) (x : Colorant) :
    (s.setSupply p col r).orderOf q x = s.orderOf q x := by
  unfold State.orderOf
  rw [(s.setSupply_moves p col r).changesOnly .reorders (by decide)]

/-- R140: the colorant record that a cartridge change leaves, and what becomes of its order. -/
theorem State.cartridgeChange_spec {r : Supply} (h : (s.printer p).supply col = some r) :
    ∃ u, EntryBecomes [.storeWriting] s u p ((s.printer p).setSupply col (some { r with armed := true, owed := false })) ∧
      (r.armed = false → colorantSlot p col ∈ u.store.dirty) ∧
      (s.orderOf p col = none → s.cartridgeChange p col = u) ∧
      (∀ i, s.orderOf p col = some i → s.cartridgeChange p col = (u.closeReorder i .fulfilled).offerReorder i) := by
  refine ⟨s.setSupply p col { r with armed := true, owed := false }, s.setSupply_entry p col _, fun armed => ?_,
    fun free => ?_, fun i found => ?_⟩
  · refine State.setSupply_dirty ?_
    rw [h]
    exact supplyImage_armed (by simp [armed])
  · unfold State.cartridgeChange
    rw [h]
    dsimp only
    rw [State.setSupply_orderOf, free]
  · unfold State.cartridgeChange
    rw [h]
    dsimp only
    rw [State.setSupply_orderOf, found]

/-- R138: the colorant record that a report leaves. -/
def Supply.reported (r : Supply) (x : ColorantReport) : Supply :=
  { r with
    remaining := min x.level 1000 * r.cfg.yield / 1000, empty := decide (x.level = 0)
    serial := if x.serial = none then r.serial else x.serial }

/-- R138: a report is stored, and a serial number that is new makes it a cartridge change. -/
theorem State.takeReport_eq {r : Supply} {x : ColorantReport} (h : (s.printer p).supply x.colorant = some r) :
    s.takeReport p x =
      if (r.reported x).serial = r.serial then s.setSupply p x.colorant (r.reported x)
      else (s.setSupply p x.colorant (r.reported x)).cartridgeChange p x.colorant := by
  have empty : (min x.level 1000 == 0) = decide (x.level = 0) := by
    rw [beq_eq_decide]
    exact decide_eq_decide.2 (by omega)
  unfold State.takeReport Supply.reported
  rw [h]
  dsimp only
  rw [empty]
  cases serial : x.serial with
  | none => simp
  | some n =>
    by_cases same : r.serial = some n
    · simp [same]
    · have other : ¬some n = r.serial := fun c => same c.symm
      simp [same, other]

theorem State.takeReport_spec {r : Supply} {x : ColorantReport} (h : (s.printer p).supply x.colorant = some r) :
    ∃ u, EntryBecomes [.storeWriting] s u p ((s.printer p).setSupply x.colorant (some (r.reported x))) ∧
      ((r.reported x).remaining ≠ r.remaining ∨ (r.reported x).serial ≠ r.serial →
        colorantSlot p x.colorant ∈ u.store.dirty) ∧
      s.takeReport p x = if (r.reported x).serial = r.serial then u else u.cartridgeChange p x.colorant := by
  refine ⟨_, s.setSupply_entry p x.colorant _, fun changed => State.setSupply_dirty ?_, State.takeReport_eq h⟩
  rw [h]
  intro same
  obtain ⟨-, remaining, -, -, serial⟩ := Image.colorant.inj same
  rcases changed with c | c
  · exact c remaining.symm
  · exact c serial.symm

end Reports

/-- Where no key stands twice, what has a key is what is found by it. -/
theorem filter_key_of_nodup {α β : Type} [DecidableEq β] (f : α → β) (b : β) (l : List α) (h : (l.map f).Nodup) :
    l.filter (fun x => f x == b) = (l.find? (fun x => f x == b)).toList := by
  induction l with
  | nil => rfl
  | cons x l ih =>
    obtain ⟨fresh, rest⟩ := List.nodup_cons.1 h
    by_cases hx : f x = b
    · have none : l.filter (fun x => f x == b) = [] := by
        refine List.filter_eq_nil_iff.2 fun y hy => ?_
        intro same
        exact fresh (List.mem_map.2 ⟨y, hy, (beq_iff_eq.1 same).trans hx.symm⟩)
      rw [List.filter_cons_of_pos (by simpa using hx), List.find?_cons_of_pos (by simpa using hx), none]
      rfl
    · rw [List.filter_cons_of_neg (by simpa using hx), List.find?_cons_of_neg (by simpa using hx)]
      exact ih rest

/-- Settles O46: a cartridge change, a report by its serial number, and the reports of a STATUS one for each colorant. -/
theorem colorantReports : Obligations.ColorantReports := by
  refine fun s p => ⟨fun col r h => State.cartridgeChange_spec h, fun x => ⟨fun none => ?_, fun r h => State.takeReport_spec h⟩,
    fun l distinct => ⟨_, rfl, ?_⟩⟩
  · unfold State.takeReport
    rw [none]
  · have one (u : State) (col : Colorant) : (l.filter (fun r => r.colorant == col)).foldl (fun u r => u.takeReport p r) u =
        match l.find? (fun x => x.colorant == col) with
        | some x => u.takeReport p x
        | none => u := by
      rw [filter_key_of_nodup ColorantReport.colorant col l distinct]
      cases l.find? (fun x => x.colorant == col) <;> rfl
    unfold State.takeReports
    simp only [one]
    rfl

/-! ### The commands on orders (R141, R146, R148, R149) -/

section Command
variable {h : Hdr} {p : Nat} {col : Colorant} {c : Instr} {rule : Nat → Colorant → Supply → State → Reply}

theorem onColorant_reached {act : Nat → Colorant → Supply → State → Reply} {r : Supply} (hp : p ≤ 63)
    (used : (s.printer p).service ≠ .unused) (record : (s.printer p).supply col = some r) :
    onColorant act (p, col) s = act p col r s := by
  unfold onColorant
  rw [onPrinter_reached hp used]
  dsimp only
  rw [record]

/-- R146: a command that names no colorant record is refused. -/
theorem orderCommand_refused {r : Result} (hr : ConsoleReady h s)
    (first : FirstOf [(63 < p, Result.badIndex), ((s.printer p).service = .unused, .notAccepted),
      ((s.printer p).supply col = none, .notAccepted)] r)
    (hc : exec c s = mgmtRequest h (some (p, col)) (onColorant rule) s) : CarriedOut c h s s r := by
  refine carriedOut_unchanged hr hc ?_
  unfold onColorant
  rcases first with ⟨beyond, rfl⟩ | ⟨within, ⟨unused, rfl⟩ | ⟨used, ⟨missing, rfl⟩ | ⟨-, ⟨⟩⟩⟩⟩
  · exact onPrinter_refused (.inl ⟨beyond, rfl⟩)
  · exact onPrinter_refused (.inr ⟨within, .inl ⟨by rw [State.restartIdle_printer]; exact unused, rfl⟩⟩)
  · rw [onPrinter_reached (Nat.not_lt.1 within) (by rw [State.restartIdle_printer]; exact used)]
    dsimp only
    rw [State.restartIdle_printer, missing]
    rfl

variable {r : Supply}

/-- R146: a command on a colorant record carries out its rule. -/
theorem orderCommand_done {l : List Piece} {x : Result} (hr : ConsoleReady h s) (hp : p ≤ 63)
    (used : (s.printer p).service ≠ .unused) (record : (s.printer p).supply col = some r)
    (hc : exec c s = mgmtRequest h (some (p, col)) (onColorant rule) s)
    (done : rule p col r s.restartIdle = { state := u, result := x })
    (moves : Moves l s.restartIdle (rule p col r s.restartIdle).state)
    (hl : Piece.reply ∉ l ∧ Piece.officeOther ∉ l := by decide) : CarriedOut c h s u x := by
  rw [done] at moves
  refine carriedOut_of hr hc ((onColorant_reached hp ?_ ?_).trans done) moves hl
  · rw [State.restartIdle_printer]
    exact used
  · rw [State.restartIdle_printer]
    exact record

theorem orderCommand_idle {x : Result} (hr : ConsoleReady h s) (hp : p ≤ 63)
    (used : (s.printer p).service ≠ .unused) (record : (s.printer p).supply col = some r)
    (hc : exec c s = mgmtRequest h (some (p, col)) (onColorant rule) s)
    (idle : rule p col r s.restartIdle = { state := s.restartIdle, result := x }) : CarriedOut c h s s x := by
  refine carriedOut_unchanged hr hc ((onColorant_reached hp ?_ ?_).trans idle)
  · rw [State.restartIdle_printer]
    exact used
  · rw [State.restartIdle_printer]
    exact record

end Command

section Rules
variable {p i : Nat} {col : Colorant} {o : Reorder}

/-- R148: CONFIRM_ORDER of an open order. -/
theorem confirmRule_done (r : Supply) (found : s.orderOf p col = some i) (record : s.reorder i = some o) :
    ∃ u, confirmRule p col r s = { state := u, result := .ok } ∧ u.reorder i = some { o with confirmed := true } ∧
      (∀ x, x ≠ i → u.reorder x = s.reorder x) ∧ (o.confirmed = false → reorderSlot i ∈ u.store.dirty) := by
  unfold confirmRule
  rw [found]
  dsimp only
  rw [record]
  dsimp only
  cases confirmed : o.confirmed with
  | true =>
    refine ⟨s, rfl, ?_, fun _ _ => rfl, nofun⟩
    rw [record, ← confirmed]
  | false =>
    refine ⟨_, rfl, ?_, fun x hx => ?_, fun _ => State.mem_mark _⟩
    · rw [State.mark_reorder, State.reorder_setReorder, if_pos rfl]
    · rw [State.mark_reorder, State.reorder_setReorder, if_neg hx]

/-- R134, R149: a colorant record replaced by a command. -/
theorem State.commandSupply_entry (s : State) (p : Nat) (col : Colorant) (x : Supply) :
    EntryBecomes [.storeWriting, .idleTimer] s (s.restartIdle.setSupply p col x) p ((s.printer p).setSupply col (some x)) := by
  have entry := s.restartIdle.setSupply_entry p col x
  rw [State.restartIdle_printer] at entry
  exact (entry.wider (by decide)).of_restartIdle (by decide)

theorem State.commandSupply_dirty {r x : Supply} (record : (s.printer p).supply col = some r)
    (changed : supplyImage (some r) ≠ supplyImage (some x)) :
    colorantSlot p col ∈ (s.restartIdle.setSupply p col x).store.dirty :=
  State.setSupply_dirty (by rw [State.restartIdle_printer, record]; exact changed)

end Rules

/-- Settles O47: the refusals, and each command by whether an order is open or owed. -/
theorem orderCommands : Obligations.OrderCommands := by
  intro h p col s hr
  have confirm : exec (.confirmOrder h (some (p, col))) s = mgmtRequest h (some (p, col)) (onColorant confirmRule) s := rfl
  have cancel : exec (.cancelOrder h (some (p, col))) s = mgmtRequest h (some (p, col)) (onColorant cancelRule) s := rfl
  have replaced : exec (.cartridgeReplaced h (some (p, col))) s = mgmtRequest h (some (p, col)) (onColorant cartridgeRule) s :=
    rfl
  have order : s.restartIdle.orderOf p col = s.orderOf p col := State.restartIdle_orderOf p col
  refine ⟨fun r first c hc => ?_, fun r hp used record => ⟨fun free => ?_, fun i o found open_ => ?_, fun i found => ?_,
    fun free owed => ?_, fun free owed => ?_, ?_⟩⟩
  · simp only [List.mem_cons, List.not_mem_nil, or_false] at hc
    rcases hc with rfl | rfl | rfl
    · exact orderCommand_refused hr first confirm
    · exact orderCommand_refused hr first cancel
    · exact orderCommand_refused hr first replaced
  · refine orderCommand_idle hr hp used record confirm ?_
    unfold confirmRule
    rw [order, free]
    rfl
  · obtain ⟨u, done, this, others, dirty⟩ := confirmRule_done (s := s.restartIdle) r (order.trans found)
      ((State.restartIdle_reorder i).trans open_)
    have moves := confirmRule_moves s.restartIdle p col r
    have frame := moves.changesOnly
    rw [done] at frame
    exact ⟨u, this, fun x hx => (others x hx).trans (State.restartIdle_reorder x), dirty,
      (s.restartIdle_changes.mono (by decide)).trans (frame.mono (by decide)),
      orderCommand_done hr hp used record confirm done moves⟩
  · refine ⟨_, s.commandSupply_entry p col _, fun armed => State.commandSupply_dirty record
      (supplyImage_armed (by simp [armed])), orderCommand_done hr hp used record cancel ?_ (cancelRule_moves _ p col r)⟩
    unfold cancelRule
    rw [order, found]
  · refine ⟨_, s.commandSupply_entry p col _, fun armed => State.commandSupply_dirty record
      (supplyImage_armed (by simp [armed])), orderCommand_done hr hp used record cancel ?_ (cancelRule_moves _ p col r)⟩
    unfold cancelRule
    rw [order, free]
    exact if_pos owed
  · refine orderCommand_idle hr hp used record cancel ?_
    unfold cancelRule
    rw [order, free]
    exact if_neg (by simp [owed])
  · exact ⟨_, s.commandSupply_entry p col _, fun changed => State.commandSupply_dirty record
      (fun same => changed (Image.colorant.inj same).2.1), orderCommand_done hr hp used record replaced rfl
      (cartridgeRule_moves _ p col r)⟩

end Sys2Proof.Machine

/-! PROOFS. The day roll (R142, R147): the usage of every colorant record, the renotified orders, and the test of every record. -/

namespace Sys2Proof.Machine

set_option Elab.async false

variable {s t u v : State}

/-! ### Usage (R142) -/

/-- R142: the usage moves one eighth of the way toward the day's faces, rounded toward negative infinity, and stays in range. -/
theorem usageStep_spec (today usage : Nat) : (usageStep today usage : Int) = usage + ((today : Int) * 16 - usage) / 8 ∧
    (today ≤ 65535 → usage ≤ 1048575 → usageStep today usage ≤ 1048575) := by
  unfold usageStep
  rw [Int.fdiv_eq_ediv_of_nonneg _ (by decide)]
  omega

/-- R142: the colorant record and the entry after their day. -/
def Supply.averaged (r : Supply) : Supply := { r with usage := usageStep r.today r.usage, today := 0 }
def PrinterOf.averaged (e : Printer) : Printer :=
  { e with
    k := e.k.map Supply.averaged, c := e.c.map Supply.averaged, m := e.m.map Supply.averaged, y := e.y.map Supply.averaged }

theorem PrinterOf.averaged_supply (e : Printer) (col : Colorant) :
    (PrinterOf.averaged e).supply col = (e.supply col).map Supply.averaged := by
  cases col <;> rfl

/-- R142 step 1 for the records of one entry. -/
def State.averageEntry (s : State) (p : Nat) : State := colorants.foldl (fun u col => u.averageUsage p col) s

section Entry
variable {p : Nat}

theorem State.averageUsage_entry (s : State) (p : Nat) (col : Colorant) : EntryBecomes [.storeWriting] s (s.averageUsage p col) p
    ((s.printer p).setSupply col (((s.printer p).supply col).map Supply.averaged)) := by
  cases h : (s.printer p).supply col with
  | none =>
    have same : s.averageUsage p col = s := by
      unfold State.averageUsage
      rw [h]
    rw [same]
    refine ⟨?_, fun _ _ => rfl, ChangesOnly.refl _ _⟩
    rw [Option.map_none, ← h, PrinterOf.setSupply_self]
  | some r =>
    have set : s.averageUsage p col = s.setSupply p col r.averaged := by
      unfold State.averageUsage
      rw [h]
      rfl
    rw [set]
    exact s.setSupply_entry p col _

theorem State.averageUsage_keepsDirty {n : Nat} (h : n ∈ s.store.dirty) (col : Colorant) :
    n ∈ (s.averageUsage p col).store.dirty := by
  unfold State.averageUsage
  split
  · exact h
  · exact State.setSupply_keepsDirty h _

theorem State.averageUsage_dirty {col : Colorant} {r : Supply} (h : (s.printer p).supply col = some r)
    (changed : usageStep r.today r.usage ≠ r.usage) : colorantSlot p col ∈ (s.averageUsage p col).store.dirty := by
  unfold State.averageUsage
  rw [h]
  refine State.setSupply_dirty ?_
  rw [h]
  exact fun same => changed (Image.colorant.inj same).2.2.1.symm

/-- What one step keeps, a fold of such steps keeps. -/
theorem foldl_keeps {α β : Type} {P : β → Prop} {op : β → α → β} (step : ∀ x a, P x → P (op x a)) (l : List α) {b : β} (h : P b) :
    P (l.foldl op b) := by
  induction l generalizing b with
  | nil => exact h
  | cons a l ih => exact ih (step b a h)

theorem State.averageEntry_keepsDirty {n : Nat} (h : n ∈ s.store.dirty) (p : Nat) : n ∈ (s.averageEntry p).store.dirty :=
  foldl_keeps (P := fun u : State => n ∈ u.store.dirty) (fun _ col hu => State.averageUsage_keepsDirty hu col) _ h

theorem State.averageEntry_entry (s : State) (p : Nat) :
    EntryBecomes [.storeWriting] s (s.averageEntry p) p (PrinterOf.averaged (s.printer p)) := by
  have k := s.averageUsage_entry p .k
  have c := (s.averageUsage p .k).averageUsage_entry p .c
  rw [k.printer] at c
  have m := ((s.averageUsage p .k).averageUsage p .c).averageUsage_entry p .m
  rw [c.printer] at m
  have y := (((s.averageUsage p .k).averageUsage p .c).averageUsage p .m).averageUsage_entry p .y
  rw [m.printer] at y
  exact ((k.trans c).trans m).trans y

/-- R134, R142: each record whose usage changes is dirty. -/
theorem State.averageUsages_dirty (cols : List Colorant) (distinct : cols.Nodup) : ∀ s : State, ∀ col ∈ cols, ∀ r,
    (s.printer p).supply col = some r → usageStep r.today r.usage ≠ r.usage →
      colorantSlot p col ∈ (cols.foldl (fun u col => u.averageUsage p col) s).store.dirty := by
  induction cols with
  | nil => exact fun _ _ h => absurd h List.not_mem_nil
  | cons a cols ih =>
    obtain ⟨fresh, rest⟩ := List.nodup_cons.1 distinct
    intro s col hcol r h changed
    rcases List.mem_cons.1 hcol with rfl | later
    · exact foldl_keeps (P := fun u : State => colorantSlot p col ∈ u.store.dirty)
        (fun _ x hu => State.averageUsage_keepsDirty hu x) cols (State.averageUsage_dirty h changed)
    · refine ih rest (s.averageUsage p a) col later r ?_ changed
      rw [(s.averageUsage_entry p a).printer, PrinterOf.supply_setSupply, if_neg (fun same : col = a => fresh (same ▸ later)), h]

end Entry

/-- R142 step 1 over the entries of a list. -/
theorem State.averageEntries_spec (l : List Nat) (distinct : l.Nodup) : ∀ s : State,
    let t := l.foldl State.averageEntry s
    (∀ i, t.printer i = if i ∈ l then PrinterOf.averaged (s.printer i) else s.printer i) ∧
      (∀ i ∈ l, ∀ col r, (s.printer i).supply col = some r → usageStep r.today r.usage ≠ r.usage →
        colorantSlot i col ∈ t.store.dirty) ∧
      ChangesOnly [Piece.printers, .storeWriting] s t := by
  induction l with
  | nil => exact fun s => ⟨fun i => by simp, fun i h => absurd h List.not_mem_nil, ChangesOnly.refl _ _⟩
  | cons p l ih =>
    obtain ⟨fresh, rest⟩ := List.nodup_cons.1 distinct
    intro s
    have entry := s.averageEntry_entry p
    obtain ⟨printers, dirty, frame⟩ := ih rest (s.averageEntry p)
    refine ⟨fun i => (printers i).trans ?_, fun i hi col r h changed => ?_, entry.rest.trans frame⟩
    · by_cases hi : i = p
      · rw [hi, if_neg fresh, entry.printer, if_pos (List.mem_cons_self ..)]
      · rw [entry.printers i hi]
        simp [hi]
    · by_cases hp : i = p
      · subst hp
        exact foldl_keeps (P := fun u : State => colorantSlot i col ∈ u.store.dirty)
          (fun _ q hu => State.averageEntry_keepsDirty hu q) l
          (State.averageUsages_dirty colorants (by decide) s col (mem_colorants col) r h changed)
      · have later : i ∈ l := (List.mem_cons.1 hi).resolve_left hp
        exact dirty i later col r (by rw [entry.printers i hp]; exact h) changed

/-! ### Renotified orders (R147) -/

theorem State.renotifyReorder_eq (s : State) (i : Nat) : s.renotifyReorder i = s ∨ ∃ n, s.renotifyReorder i = s.notify n := by
  unfold State.renotifyReorder
  split
  · exact .inl rfl
  · split
    · exact .inl rfl
    · exact .inr ⟨_, rfl⟩

theorem State.renotifyReorder_told {i : Nat} {o : Reorder} (h : s.reorder i = some o) (waits : o.confirmed = false) :
    s.renotifyReorder i = s.notify (.reorder i o (s.levelOf o.printer o.colorant) .renotified) := by
  unfold State.renotifyReorder
  rw [h]
  exact if_neg (by simp [waits])

/-- R147: each order that is Notified is told of. -/
theorem State.renotifyReorders_told {i : Nat} {o : Reorder} (waits : o.confirmed = false) (l : List Nat) : ∀ s : State,
    i ∈ l → s.reorder i = some o →
      NoticeFormed s (l.foldl State.renotifyReorder s) (.reorder i o (s.levelOf o.printer o.colorant) .renotified) := by
  induction l with
  | nil => exact fun _ h => absurd h List.not_mem_nil
  | cons x l ih =>
    intro s hi h
    by_cases hx : i = x
    · subst hx
      refine foldl_keeps (P := fun u => NoticeFormed s u (.reorder i o (s.levelOf o.printer o.colorant) .renotified))
        (fun u y hu => ?_) l ?_
      · rcases u.renotifyReorder_eq y with same | ⟨n, told⟩
        · rw [same]; exact hu
        · rw [told]; exact hu.notified n
      · rw [State.renotifyReorder_told h waits]
        exact State.notify_formed _
    · have later : i ∈ l := (List.mem_cons.1 hi).resolve_left hx
      rw [List.foldl_cons]
      rcases s.renotifyReorder_eq x with same | ⟨n, told⟩
      · rw [same]
        exact ih s later h
      · rw [told]
        have formed := ih (s.notify n) later (by rw [State.notify_reorder]; exact h)
        have level : (s.notify n).levelOf o.printer o.colorant = s.levelOf o.printer o.colorant := by
          unfold State.levelOf
          rw [State.notify_printer]
        rw [level] at formed
        exact formed.of_notified

theorem State.mem_reorders {i : Nat} {o : Reorder} (h : s.reorder i = some o) : i ∈ s.reorders.map Prod.fst := by
  by_contra none
  have missing : s.reorder i = Option.none := Tbl.get_of_not_listed fun e he same => none (List.mem_map.2 ⟨e, he, same⟩)
  rw [missing] at h
  exact nomatch h

/-- Settles O48: usage entry by entry, the notices one after another, and the test of every record by definition. -/
theorem dayRoll : Obligations.DayRoll := by
  intro s hw
  let u := s.configured.foldl State.averageEntry s
  let v := (u.reorders.map Prod.fst).foldl State.renotifyReorder u
  have rising : s.configured.Pairwise (· < ·) := Tbl.indexesWhere_rising (Tbl.wf_iff.1 hw.printers).1
  obtain ⟨printers, dirty, frame⟩ := State.averageEntries_spec s.configured (rising.imp Nat.ne_of_lt) s
  have supplies (p : Nat) (col : Colorant) : (u.printer p).supply col =
      if (s.printer p).service = .unused then (s.printer p).supply col else ((s.printer p).supply col).map Supply.averaged := by
    rw [printers]
    by_cases unused : (s.printer p).service = .unused
    · rw [if_pos unused, if_neg (fun c => (State.mem_configured_iff hw).1 c unused)]
    · rw [if_neg unused, if_pos ((State.mem_configured_iff hw).2 unused), PrinterOf.averaged_supply]
  refine ⟨u, v, fun p col => ⟨fun idle => ?_, fun r used record => ⟨usageStep r.today r.usage, (usageStep_spec _ _).1, ?_,
    fun changed => dirty p ((State.mem_configured_iff hw).2 used) col r record changed, (usageStep_spec _ _).2⟩⟩, fun p => ?_,
    frame, fun i o record waits => ?_, (Moves.foldl _ (fun s i => s.renotifyReorder_moves i) _ _).changesOnly, rfl⟩
  · rw [supplies]
    rcases idle with unused | missing
    · rw [if_pos unused]
    · rw [missing]
      simp
  · rw [supplies, if_neg used, record]
    rfl
  · rw [printers]
    split <;> rfl
  · have same : u.reorder i = some o := (State.reorder_congr (frame .reorders (by decide)) i).trans record
    have formed := State.renotifyReorders_told waits (u.reorders.map Prod.fst) u (State.mem_reorders same) same
    have level : u.levelOf o.printer o.colorant = (((s.printer o.printer).supply o.colorant).map Supply.level).getD 0 := by
      unfold State.levelOf
      rw [supplies]
      split
      · rfl
      · cases (s.printer o.printer).supply o.colorant <;> rfl
    rw [level] at formed
    exact formed.between ⟨frame.oport, frame.console, frame .settings (by decide)⟩ ⟨rfl, rfl⟩

end Sys2Proof.Machine

/-! PROOFS. Hold expiry (R18), and the minute event, the hour event and calendar midnight (R115, R153 to R156). -/

namespace Sys2Proof.Machine

set_option Elab.async false

variable {s t u v : State}

/-! ### Hold expiry (R18) -/

theorem insertByStamp_perm (j : Job) (l : List Job) : (insertByStamp j l).Perm (j :: l) := by
  induction l with
  | nil => exact List.Perm.refl _
  | cons x l ih =>
    unfold insertByStamp
    split
    · exact List.Perm.refl _
    · exact (ih.cons x).trans (List.Perm.swap j x l)

theorem stampBefore_iff (a b : Nat × Nat) : stampBefore a b = true ↔ a.1 < b.1 ∨ (a.1 = b.1 ∧ a.2 < b.2) := by
  simp [stampBefore]

theorem stampBefore_false_iff (a b : Nat × Nat) : stampBefore a b = false ↔ b.1 < a.1 ∨ (b.1 = a.1 ∧ b.2 ≤ a.2) := by
  rw [← Bool.not_eq_true, stampBefore_iff]
  omega

/-- The job does not come after the other by their hold stamps. -/
def StampedBy (a b : Job) : Prop := stampBefore (b.stamp.getD (0, 0)) (a.stamp.getD (0, 0)) = false

theorem insertByStamp_sorted (j : Job) (l : List Job) (h : l.Pairwise StampedBy) : (insertByStamp j l).Pairwise StampedBy := by
  induction l with
  | nil => exact List.pairwise_singleton _ _
  | cons x l ih =>
    obtain ⟨first, rest⟩ := List.pairwise_cons.1 h
    unfold insertByStamp
    split
    next before =>
      have ahead : StampedBy j x := by
        rw [stampBefore_iff] at before
        exact (stampBefore_false_iff _ _).2 (by omega)
      refine List.pairwise_cons.2 ⟨fun y hy => ?_, h⟩
      rcases List.mem_cons.1 hy with rfl | later
      · exact ahead
      · have between := (stampBefore_false_iff _ _).1 (first y later)
        have ahead := (stampBefore_false_iff _ _).1 ahead
        exact (stampBefore_false_iff _ _).2 (by omega)
    next after =>
      refine List.pairwise_cons.2 ⟨fun y hy => ?_, ih rest⟩
      rcases List.mem_cons.1 ((insertByStamp_perm j l).mem_iff.1 hy) with rfl | later
      · exact eq_false_of_ne_true after
      · exact first y later

theorem sortByStamp_spec (l : List Job) : (l.foldr insertByStamp []).Perm l ∧ (l.foldr insertByStamp []).Pairwise StampedBy := by
  induction l with
  | nil => exact ⟨List.Perm.refl _, List.Pairwise.nil⟩
  | cons j l ih => exact ⟨(insertByStamp_perm j _).trans (ih.1.cons j), insertByStamp_sorted j _ ih.2⟩

/-- R18: hold expiry ends the Held jobs whose expiry is reached, in the order of their stamps. -/
theorem State.expireHeld_expired (hd : s.TagsDistinct) : HeldExpired s s.expireHeld := by
  let due := s.jobs.recs.filter (fun j => j.state = .held ∧ j.expiry.getD 0 ≤ s.clock.uptime)
  have expiring : s.expiring = due.foldr insertByStamp [] := by
    unfold State.expiring due
    congr 2
    funext j
    rw [Bool.decide_and, beq_eq_decide]
  obtain ⟨perm, sorted⟩ := sortByStamp_spec due
  rw [← expiring] at perm sorted
  refine ⟨s.expiring, perm, sorted, State.endTags_jobsEnded .expired s.expiring s ?_ fun j hj => ?_⟩
  · exact ((perm.map Job.tag).nodup_iff).2 (List.Nodup.sublist (List.filter_sublist.map Job.tag) hd.once)
  · obtain ⟨mem, held⟩ := List.mem_filter.1 (perm.mem_iff.1 hj)
    exact ⟨State.job_of_mem hd.once mem, .inr (of_decide_eq_true held).1⟩

/-! ### The minute event (R153, R154) -/

theorem State.clock_changes (s : State) (c : Clock) (hi : c.idle = s.clock.idle) :
    ChangesOnly [.clock] s { s with clock := c } := by
  intro x hx
  cases x <;>
    first
    | exact rfl | exact hi | exact ⟨rfl, rfl⟩ | exact ⟨rfl, rfl, rfl⟩ | exact ⟨rfl, rfl, rfl, rfl⟩
    | exact absurd (by simp) hx

/-- R154: a midnight that is taken no longer waits. -/
theorem State.takeMidnight_taken (s : State) : s.takeMidnight.clock.midnightRaised = false := by
  unfold State.takeMidnight
  cases raised : s.clock.midnightRaised with
  | false => exact raised
  | true =>
    rw [if_pos rfl]
    let a : State := { s with clock := { s.clock with midnightRaised := false } }
    show a.midnight.clock.midnightRaised = false
    have rolls (b : State) (d : Nat) : (b.midnightRolls d).clock.midnightRaised = b.clock.midnightRaised := by
      have day : b.dayRoll.clock.core = b.clock.core := b.dayRoll_moves.changesOnly .clock (by decide)
      have period (n : Nat) : (b.dayRoll.periodRoll n true).clock.core = b.clock.core :=
        ((State.periodRoll_moves b.dayRoll n true).changesOnly .clock (by decide)).trans day
      unfold State.midnightRolls
      dsimp only
      split
      · exact (Clock.eq_of_core (period _)).2.2.2.1
      · exact (Clock.eq_of_core day).2.2.2.1
    unfold State.midnight
    split
    · rfl
    · split
      · rfl
      · dsimp only
        split
        · rfl
        · rw [rolls]

/-- R153: the uptime of a minute event. -/
theorem State.advanceUptime_spec (a : State) :
    a.advanceUptime.clock.core = { a.clock.core with
      uptime := a.advanceUptime.clock.uptime, hourRaised := decide (a.advanceUptime.clock.uptime % 60 = 0) } ∧
    (a.clock.uptime < 4294967295 →
      a.advanceUptime.clock.uptime = a.clock.uptime + 1 ∧ a.advanceUptime.freeCount = a.freeCount) ∧
    a.advanceUptime.clock.uptime ≤ 4294967295 ∧ ChangesOnly [.clock, .freeCount] a a.advanceUptime ∧
    a.advanceUptime.asleep = a.asleep := by
  refine ⟨?_, fun below => ⟨if_pos below, if_pos below⟩, ?_, fun x hx => ?_, rfl⟩
  · have hour : a.advanceUptime.clock.hourRaised = decide (a.advanceUptime.clock.uptime % 60 = 0) := beq_eq_decide ..
    rw [← hour]
    rfl
  · unfold State.advanceUptime
    dsimp only
    split
    next below => exact below
    next => exact Nat.le_of_lt_succ (Config.uptimePastEnd a.freeCount).isLt
  · cases x <;>
      first | exact rfl | exact ⟨rfl, rfl⟩ | exact ⟨rfl, rfl, rfl⟩ | exact ⟨rfl, rfl, rfl, rfl⟩ | exact absurd (by simp) hx

/-- R154: the calendar of a minute event. -/
theorem State.advanceCalendar_spec (waits : v.clock.midnightRaised = false) :
    v.advanceCalendar.clock.core = { v.clock.core with
      calendar := v.clock.calendar.map (fun c => if c.minute < 1439 then { c with minute := c.minute + 1 } else c)
      midnightRaised := decide (∃ c, v.clock.calendar = some c ∧ 1439 ≤ c.minute) } ∧
    ChangesOnly [.clock] v v.advanceCalendar := by
  have raised : v.clock.core = { v.clock.core with midnightRaised := false } := by
    rw [← waits]
    rfl
  unfold State.advanceCalendar
  cases calendar : v.clock.calendar with
  | none =>
    refine ⟨?_, ChangesOnly.refl _ _⟩
    simp only [Option.map_none, reduceCtorEq, false_and, exists_false, decide_false]
    rw [← calendar]
    exact raised
  | some c =>
    dsimp only
    by_cases last : c.minute < 1439
    · rw [if_pos (show c.minute < Config.lastMinute from last)]
      refine ⟨?_, v.clock_changes _ rfl⟩
      simp only [Option.map_some, if_pos last, Option.some.injEq, exists_eq_left', Nat.not_le.2 last, decide_false]
      rw [← waits]
      rfl
    · rw [if_neg (show ¬c.minute < Config.lastMinute from last)]
      refine ⟨?_, v.clock_changes _ rfl⟩
      simp only [Option.map_some, if_neg last, Option.some.injEq, exists_eq_left', Nat.not_lt.1 last, decide_true]
      rw [← calendar]
      rfl

/-- R18, R153, R154: the minute event. -/
theorem minuteEvent_done (up : s.phase = .up) (hd : s.TagsDistinct) :
    ∃ a u v w t, a = s.takeHour.takeMidnight ∧
      u.clock.core = { a.clock.core with uptime := u.clock.uptime, hourRaised := decide (u.clock.uptime % 60 = 0) } ∧
      (a.clock.uptime < 4294967295 → u.clock.uptime = a.clock.uptime + 1 ∧ u.freeCount = a.freeCount) ∧
      u.clock.uptime ≤ 4294967295 ∧ ChangesOnly [.clock, .freeCount] a u ∧
      (a.asleep = true → v = u) ∧ (a.asleep = false → HeldExpired u v) ∧
      w.clock.core = { v.clock.core with
        calendar := a.clock.calendar.map (fun c => if c.minute < 1439 then { c with minute := c.minute + 1 } else c)
        midnightRaised := decide (∃ c, a.clock.calendar = some c ∧ 1439 ≤ c.minute) } ∧ ChangesOnly [.clock] v w ∧
      exec .minuteEvent s = .next t ∧ ChangesOnly endOfStep w t := by
  let a := s.takeHour.takeMidnight
  let u := a.advanceUptime
  let v := if u.asleep then u else u.expireHeld
  obtain ⟨core, below, range, frame, mode⟩ := a.advanceUptime_spec
  have tags : u.TagsDistinct :=
    Moves.kept tags_kept (s.takeRaised_moves.trans (State.advanceUptime_moves a)) hd
  have expires : Moves endPieces u v := by
    unfold v
    split
    · exact Moves.refl _
    · exact u.expireHeld_moves
  have same : v.clock.core = u.clock.core := expires.changesOnly .clock (by decide)
  have calendar : v.clock.calendar = a.clock.calendar :=
    (Clock.eq_of_core same).2.1.trans (congrArg Clock.calendar core :)
  have waits : v.clock.midnightRaised = false :=
    ((Clock.eq_of_core same).2.2.2.1.trans (congrArg Clock.midnightRaised core :)).trans s.takeHour.takeMidnight_taken
  obtain ⟨advanced, rest⟩ := State.advanceCalendar_spec waits
  rw [calendar] at advanced
  refine ⟨a, u, v, v.advanceCalendar, v.advanceCalendar.finish, rfl, core, below, range, frame, fun asleep => ?_, fun awake => ?_,
    advanced, rest, ?_, State.finish_changes _⟩
  · exact if_pos (mode.trans asleep)
  · have expired : v = u.expireHeld := if_neg (by rw [mode, awake]; decide)
    rw [expired]
    exact State.expireHeld_expired tags
  · show execMinuteEvent s = _
    rw [execMinuteEvent, State.whenUp_up _ up]
    rfl

/-! ### The hour event and calendar midnight (R115, R154 to R156) -/

theorem hourEvent_done (s : State) :
    (s.clock.hourRaised = false → s.takeHour = s) ∧
    (s.clock.hourRaised = true → ∃ u, u.clock = { s.clock with hourRaised := false } ∧ ChangesOnly [.clock] s u ∧
      s.takeHour = u.configured.foldl State.quietHour u) ∧
    (s.phase = .up → ∃ t, exec .hourEvent s = .next t ∧ ChangesOnly endOfStep s.takeHour t) ∧
    (s.TablesCanonical → s.configured.Pairwise (· < ·) ∧ ∀ p, p ∈ s.configured ↔ (s.printer p).service ≠ .unused) ∧
    (∀ p, ((s.printer p).faulted = true → EntryBecomes [] s (s.quietHour p) p { s.printer p with faulted := false }) ∧
      ((s.printer p).faulted = false → EntryBecomes [] (s.lowerScore p 8) (s.quietHour p) p
        { (s.lowerScore p 8).printer p with faulted := false })) := by
  refine ⟨fun idle => ?_, fun raised => ⟨{ s with clock := { s.clock with hourRaised := false } }, rfl,
    s.clock_changes _ rfl, if_pos raised⟩,
    fun up => ⟨s.takeHour.finish, ?_, State.finish_changes _⟩,
    fun hw => ⟨Tbl.indexesWhere_rising (Tbl.wf_iff.1 hw.printers).1, fun p => State.mem_configured_iff hw⟩,
    fun p => ⟨fun faulted => ?_, fun quiet => ?_⟩⟩
  · unfold State.takeHour
    rw [idle]
    rfl
  · show execHourEvent s = _
    rw [execHourEvent, State.whenUp_up _ up]
  · have same : s.quietHour p = s.updPrinter p (fun e => { e with faulted := false }) := by
      unfold State.quietHour
      rw [if_pos faulted]
    rw [same]
    exact s.updPrinter_entry p _
  · have lowered : s.quietHour p = (s.lowerScore p 8).updPrinter p (fun e => { e with faulted := false }) := by
      unfold State.quietHour
      rw [quiet]
      rfl
    rw [lowered]
    exact (s.lowerScore p 8).updPrinter_entry p _

theorem midnight_done (s : State) :
    (s.clock.midnightRaised = false → s.takeMidnight = s) ∧
    (s.clock.midnightRaised = true → s.clock.calendar = none →
      s.takeMidnight.clock = { s.clock with midnightRaised := false } ∧ ChangesOnly [.clock] s s.takeMidnight) ∧
    (∀ c, s.clock.midnightRaised = true → s.clock.calendar = some c →
      ∃ u, u.clock = { s.clock with
          midnightRaised := false, calendar := if c.day < 65535 then some { day := c.day + 1, minute := 0 } else none
          midnights := if c.day < 65535 ∧ s.asleep = true then s.clock.midnights + 1 else s.clock.midnights } ∧
        ChangesOnly [.clock] s u ∧
        (65535 ≤ c.day ∨ s.asleep = true → s.takeMidnight = u) ∧
        (c.day < 65535 → s.asleep = false → s.takeMidnight =
          if c.day + 1 = u.dayRoll.settings.nextRollDay then
            u.dayRoll.periodRoll (u.dayRoll.settings.nextRollDay + u.dayRoll.settings.periodLength) true
            else u.dayRoll)) ∧
    (s.phase = .up → ∃ t, exec .calendarMidnight s = .next t ∧ ChangesOnly endOfStep s.takeMidnight t) := by
  have taken (raised : s.clock.midnightRaised = true) :
      s.takeMidnight = State.midnight { s with clock := { s.clock with midnightRaised := false } } := if_pos raised
  refine ⟨fun idle => ?_, fun raised unset => ?_, fun c raised set => ?_,
    fun up => ⟨s.takeMidnight.finish, ?_, State.finish_changes _⟩⟩
  · unfold State.takeMidnight
    rw [idle]
    rfl
  · have stays : s.takeMidnight = { s with clock := { s.clock with midnightRaised := false } } := by
      rw [taken raised]
      unfold State.midnight
      rw [unset]
    rw [stays]
    exact ⟨rfl, s.clock_changes _ rfl⟩
  · rw [taken raised]
    refine ⟨{ s with clock := { s.clock with
        midnightRaised := false, calendar := if c.day < 65535 then some { day := c.day + 1, minute := 0 } else none
        midnights := if c.day < 65535 ∧ s.asleep = true then s.clock.midnights + 1 else s.clock.midnights } }, rfl,
      s.clock_changes _ rfl, fun still => ?_, fun inside awake => ?_⟩
    · unfold State.midnight
      dsimp only
      rw [set]
      dsimp only
      by_cases last : 65535 ≤ c.day
      · rw [if_pos (show Config.lastDay ≤ c.day from last), if_neg (by omega), if_neg (by omega)]
      · have asleep := still.resolve_left last
        have day : c.day < 65535 := by omega
        rw [if_neg (show ¬Config.lastDay ≤ c.day from last), if_pos day, if_pos ⟨day, asleep⟩]
        exact if_pos asleep
    · unfold State.midnight
      dsimp only
      rw [set]
      dsimp only
      rw [if_neg (show ¬Config.lastDay ≤ c.day from Nat.not_le.2 inside), if_pos inside,
        if_neg (show ¬(c.day < 65535 ∧ s.asleep = true) by simp [awake])]
      refine (if_neg ?_).trans rfl
      show ¬s.asleep = true
      rw [awake]
      decide
  · show execCalendarMidnight s = _
    rw [execCalendarMidnight, State.whenUp_up _ up]

/-- Settles O50: the minute event in its steps, the hour event, midnight, and the period roll. -/
theorem clockEvents : Obligations.ClockEvents :=
  ⟨fun _ up hd => minuteEvent_done up hd, hourEvent_done, midnight_done,
    fun _ next announce hw => State.periodRoll_rolled hw next announce⟩

end Sys2Proof.Machine

/-! PROOFS. SET_CLOCK, and the rolls that it and wake completion raise (R39, R157, R162). -/

namespace Sys2Proof.Machine

set_option Elab.async false

variable {s t u v : State}

/-- R157: the rolls of a calendar set to a day. -/
theorem State.clockRolls_spec (u : State) (before : Option Calendar) (d : Nat) :
    let later : Prop := ∃ c, before = some c ∧ c.day < d
    ∃ v, (later → v = u.dayRoll) ∧ (¬later → v = u) ∧
      ((later ∨ before = none) ∧ v.settings.nextRollDay ≤ d → u.clockRolls before d = v.periodRoll v.nextRollCaught true) ∧
      (¬((later ∨ before = none) ∧ v.settings.nextRollDay ≤ d) → u.clockRolls before d = v) := by
  intro later
  unfold State.clockRolls
  cases before with
  | none =>
    have never : ¬later := fun ⟨_, named, _⟩ => nomatch named
    refine ⟨u, fun c => absurd c never, fun _ => rfl, fun due => if_pos (by simpa using due.2), fun idle => if_neg fun c => ?_⟩
    exact idle ⟨.inr rfl, by simpa using c⟩
  | some c =>
    have iff : later ↔ c.day < d := ⟨fun ⟨x, named, h⟩ => by cases named; exact h, fun h => ⟨c, rfl, h⟩⟩
    by_cases h : c.day < d
    · refine ⟨u.dayRoll, fun _ => rfl, fun c => absurd (iff.2 h) c, fun due => ?_, fun idle => ?_⟩
      · simp [h, due.2]
      · have below : ¬u.dayRoll.settings.nextRollDay ≤ d := fun c => idle ⟨.inl (iff.2 h), c⟩
        simp [h, below]
    · refine ⟨u, fun c => absurd (iff.1 c) h, fun _ => rfl, fun due => ?_, fun _ => ?_⟩
      · rcases due.1 with c | c
        · exact absurd (iff.1 c) h
        · exact nomatch c
      · simp [h]

/-- R39, R157: SET_CLOCK within the range of the calendar. -/
theorem setClock_done {h : Hdr} {d m : Nat} (hr : ConsoleReady h s) (day : d ≤ 65535) (minute : m ≤ 1439) :
    ∃ z a u v w, ChangesOnly [.idleTimer] s z ∧ a = z.takeHour.takeMidnight ∧
      u.clock = { a.clock with calendar := some { day := d, minute := m } } ∧ ChangesOnly [.clock] a u ∧
      (let later : Prop := ∃ c, a.clock.calendar = some c ∧ c.day < d;
        (later → v = u.dayRoll) ∧ (¬later → v = u) ∧
        ((later ∨ a.clock.calendar = none) ∧ v.settings.nextRollDay ≤ d → w = v.periodRoll v.nextRollCaught true) ∧
        (¬((later ∨ a.clock.calendar = none) ∧ v.settings.nextRollDay ≤ d) → w = v)) ∧
      CarriedOut (.setClock h (some (d, m))) h s w .ok := by
  let a := s.restartIdle.takeRaised
  let u : State := { a with clock := { a.clock with calendar := some { day := d, minute := m } } }
  obtain ⟨v, rolls⟩ := u.clockRolls_spec a.clock.calendar d
  have inside : ¬(decide (Config.lastDay < d) || decide (Config.lastMinute < m)) = true := by
    simpa using ⟨day, minute⟩
  refine ⟨s.restartIdle, a, u, v, u.clockRolls a.clock.calendar d, s.restartIdle_changes, rfl, rfl,
    a.clock_changes _ rfl, rolls, carriedOut_of hr rfl (if_neg inside) (l := clockPieces) ?_⟩
  exact (s.restartIdle.takeRaised_moves.next (Moves.one (.clock a u.clock id rfl)) (by decide)).trans
    (State.clockRolls_moves u _ d)

/-- R162: the rolls of wake completion. -/
theorem State.wakeRolls_spec {c : Calendar} (set : s.clock.calendar = some c) :
    ∃ v, (0 < s.clock.midnights → v = s.dayRoll) ∧ (s.clock.midnights = 0 → v = s) ∧
      (v.settings.nextRollDay ≤ c.day → s.wakeRolls = v.periodRoll v.nextRollCaught true) ∧
      (c.day < v.settings.nextRollDay → s.wakeRolls = v) := by
  unfold State.wakeRolls
  rw [set]
  refine ⟨if 0 < s.clock.midnights then s.dayRoll else s, fun some => if_pos some, fun zero => if_neg (by omega),
    fun due => if_pos due, fun early => if_neg (Nat.not_le.2 early)⟩

/-- Settles O51: SET_CLOCK by its range, and the rolls of wake completion by the calendar. -/
theorem calendarSet : Obligations.CalendarSet := by
  refine ⟨fun h d m s hr => ⟨fun outside => ?_, fun day minute => setClock_done hr day minute⟩, fun s => ⟨fun unset => ⟨?_, ?_⟩,
    fun c set => ⟨fun length => ?_, State.wakeRolls_spec set⟩⟩⟩
  · have beyond : (decide (Config.lastDay < d) || decide (Config.lastMinute < m)) = true := by
      rw [Bool.or_eq_true, decide_eq_true_eq, decide_eq_true_eq]
      exact outside
    exact carriedOut_unchanged hr rfl (if_pos beyond)
  · unfold State.wakeRolls
    rw [unset]
  · exact s.nextRollCaught_spec.1 unset
  · exact s.nextRollCaught_spec.2 c set length

end Sys2Proof.Machine

/-! PROOFS. The standby states (R158 to R160): STANDBY, the idle timer, the store drain; and wake completion (R131, R162). -/

namespace Sys2Proof.Machine

set_option Elab.async false

variable {s t u v : State}

/-! ### The idle condition, Settling and Standby (R158, R159) -/

/-- A condition that the factory entry meets holds of every entry when it holds of every listed one. -/
theorem Tbl.all_iff {α : Type} {d : α} {t : Tbl α} {P : α → Prop} (hs : (t.map Prod.fst).Nodup) (hd : P d) :
    (∀ e ∈ t, P e.2) ↔ ∀ i, P (Tbl.get d t i) :=
  ⟨fun h i => Tbl.get_of_forall hd h i, fun h e he => Tbl.get_of_mem (d := d) hs he ▸ h e.1⟩

/-- R158: the idle condition. -/
theorem State.idleCondition_iff (hw : s.TablesCanonical) : s.idleCondition = true ↔
    (∀ j ∈ s.jobs.recs, j.state ≠ .receiving) ∧ ∀ p, (s.printer p).queue = [] := by
  have queues : (∀ e ∈ s.printers, e.2.queue = []) ↔ ∀ p, (s.printer p).queue = [] :=
    Tbl.all_iff (P := fun e : Printer => e.queue = []) (Tbl.nodup_of_wf hw.printers) rfl
  unfold State.idleCondition
  rw [Bool.and_eq_true, List.all_eq_true, List.all_eq_true, ← queues]
  simp [List.isEmpty_iff]

theorem State.drained_iff (s : State) :
    s.drained = true ↔ s.store.queue = [] ∧ s.store.underWay = none ∧ s.store.dirty = [] := by
  unfold State.drained
  simp [and_assoc]

/-- R159, R160: what entering Standby leaves. -/
theorem State.enterStandby_entered (hw : s.TablesCanonical) : StandbyEntered s s.enterStandby := by
  refine ⟨rfl, rfl, fun p => ?_, fun i => ?_, fun x hx => ?_⟩
  · exact Tbl.get_mapAll (d := printerFactory)
      (f := fun e => { e with presence := e.presence.suspend, limit := e.limit.suspend }) rfl (Tbl.nodup_of_wf hw.printers) p
  · exact Tbl.get_mapAll (d := none) (f := Option.map fun r : Callout => { r with timer := r.timer.suspend }) rfl
      (Tbl.nodup_of_wf hw.callouts) i
  cases x <;>
    first | exact rfl | exact ⟨rfl, rfl⟩ | exact ⟨rfl, rfl, rfl⟩ | exact ⟨rfl, rfl, rfl, rfl⟩ | exact absurd (by simp) hx

/-- R159: entering Settling asks for a checkpoint, and with the drain complete the part passes on into Standby. -/
theorem State.enterSettling_spec (s : State) :
    ∃ u v, u.clock = { s.clock with mode := .settling, idle := .stopped } ∧ ChangesOnly [.clock, .idleTimer] s u ∧
      Called u v ∧
      (v.store.queue = [] ∧ v.store.underWay = none ∧ v.store.dirty = [] → s.enterSettling = v.enterStandby) ∧
      (¬(v.store.queue = [] ∧ v.store.underWay = none ∧ v.store.dirty = []) → s.enterSettling = v) := by
  let u : State := { s with clock := { s.clock with mode := .settling, idle := .stopped } }
  have drained := u.checkpointOccasion.drained_iff
  refine ⟨u, u.checkpointOccasion, rfl, fun x hx => ?_, u.checkpointOccasion_called, fun done => if_pos (drained.2 done),
    fun waits => if_neg (drained.not.2 waits)⟩
  cases x <;>
    first | exact rfl | exact ⟨rfl, rfl⟩ | exact ⟨rfl, rfl, rfl⟩ | exact ⟨rfl, rfl, rfl, rfl⟩ | exact absurd (by simp) hx

/-! ### STANDBY, the idle timer and the store drain (R158, R159) -/

theorem State.restartIdle_idleCondition (s : State) : s.restartIdle.idleCondition = s.idleCondition := by
  obtain ⟨c, e⟩ := s.restartIdle_eq
  rw [e]
  rfl

theorem State.restartIdle_mode (s : State) : s.restartIdle.clock.mode = s.clock.mode :=
  (Clock.eq_of_core s.restartIdle_core).2.2.2.2.1

/-- R159: STANDBY. -/
theorem standby_done {h : Hdr} (hr : ConsoleReady h s) :
    (s.clock.mode = .settling → CarriedOut (.standby h true) h s s .ok) ∧
    (s.clock.mode = .running → s.idleCondition = false → CarriedOut (.standby h true) h s s .busy) ∧
    (s.clock.mode = .running → s.idleCondition = true →
      ∃ u, ChangesOnly [.idleTimer] s u ∧ CarriedOut (.standby h true) h s u.takeHour.takeMidnight.enterSettling .ok) := by
  have e : exec (.standby h true) s = mgmtRequest h (some ()) (fun _ => standbyRule) s := rfl
  have mode := s.restartIdle_mode
  have idle := s.restartIdle_idleCondition
  refine ⟨fun settles => carriedOut_unchanged hr e (if_pos (mode.trans settles)), fun runs busy => carriedOut_unchanged hr e ?_,
    fun runs free => ⟨s.restartIdle, s.restartIdle_changes, carriedOut_of hr e ?_
      ((s.restartIdle.takeRaised_moves).trans (State.enterSettling_moves _))⟩⟩
  all_goals
    unfold standbyRule
    rw [mode, runs, if_neg (by decide), idle]
  · rw [busy]
    rfl
  · rw [free]
    rfl

/-- R158: the expiry of the idle timer. -/
theorem idleTimer_expires (up : s.phase = .up) :
    let expires : Prop := s.clock.mode = .running ∧ s.clock.idle.runs = true ∧ s.idleCondition = true
    ∃ t, exec .idleTimerExpiry s = .next t ∧ (expires → ChangesOnly endOfStep s.takeHour.takeMidnight.enterSettling t) ∧
      (¬expires → ChangesOnly endOfStep s t) := by
  intro expires
  have iff : (s.clock.mode == .running && s.clock.idle.runs && s.idleCondition) = true ↔ expires := by
    rw [Bool.and_eq_true, Bool.and_eq_true, beq_iff_eq, and_assoc]
  have e : exec .idleTimerExpiry s = .next (State.finish
      (if s.clock.mode == .running && s.clock.idle.runs && s.idleCondition then s.takeRaised.enterSettling else s)) := by
    show execIdleTimerExpiry s = _
    rw [execIdleTimerExpiry, State.whenUp_up _ up]
  refine ⟨_, e, fun due => ?_, fun idle => ?_⟩
  · rw [if_pos (iff.2 due)]
    exact State.finish_changes _
  · rw [if_neg (iff.not.2 idle)]
    exact State.finish_changes _

/-- R159: the end of the store drain. -/
theorem storeDrain_completes (up : s.phase = .up) :
    let drained : State → Prop := fun u => u.store.queue = [] ∧ u.store.underWay = none ∧ u.store.dirty = []
    let a := s.takeHour.takeMidnight
    ∃ t, exec .storeDrainComplete s = .next t ∧
      (s.clock.mode = .settling → drained s → drained a → ChangesOnly endOfStep a.enterStandby t) ∧
      (s.clock.mode = .settling → drained s → ¬drained a → ChangesOnly endOfStep a t) ∧
      (¬(s.clock.mode = .settling ∧ drained s) → ChangesOnly endOfStep s t) := by
  intro drained a
  have iff : (s.clock.mode == .settling && s.drained) = true ↔ s.clock.mode = .settling ∧ drained s := by
    rw [Bool.and_eq_true, beq_iff_eq, State.drained_iff]
  have e : exec .storeDrainComplete s = .next (State.finish
      (if s.clock.mode == .settling && s.drained then if a.drained then a.enterStandby else a else s)) := by
    show execStoreDrainComplete s = _
    rw [execStoreDrainComplete, State.whenUp_up _ up]
    rfl
  refine ⟨_, e, fun settles done still => ?_, fun settles done more => ?_, fun idle => ?_⟩
  · rw [if_pos (iff.2 ⟨settles, done⟩), if_pos ((State.drained_iff a).2 still)]
    exact State.finish_changes _
  · rw [if_pos (iff.2 ⟨settles, done⟩), if_neg ((State.drained_iff a).not.2 more)]
    exact State.finish_changes _
  · rw [if_neg (iff.not.2 idle)]
    exact State.finish_changes _

/-! ### Wake completion (R131, R162) -/

/-- R131: the entry that wake completion leaves. -/
theorem PrinterOf.woken_eq (e : Printer) : PrinterOf.woken e = { e with
    limit := e.limit.carryOn
    presence := if e.service ≠ .unused ∧ e.cfg.mode ≠ .silent ∧ e.standing.unreachable = false
      then .running e.cfg.presenceInterval else .stopped } := by
  have iff : (e.service != .unused && e.cfg.mode != .silent && !e.standing.unreachable) = true ↔
      e.service ≠ .unused ∧ e.cfg.mode ≠ .silent ∧ e.standing.unreachable = false := by
    simp [and_assoc]
  unfold PrinterOf.woken
  congr 1
  exact if_congr iff rfl rfl

/-- R112: a FAULT message taken from a printer, by the kind it names. -/
def State.takeFaultNamed (y : State) (p : Nat) : Option FaultKind → State
  | some k => (y.frameFrom p).takeFault p k
  | none => y.frameFrom p

theorem State.takeFaultMessage_eq (y : State) (p code : Nat) : y.takeFaultMessage p code =
    y.takeFaultNamed p [FaultKind.jam, .mediaOut, .doorOpen, .engine, .supplyFault][code]? :=
  congrArg (y.takeFaultNamed p) (faultOfCode_eq code)

/-- R131, R162: wake completion. -/
theorem wakeCompletion_done (up : s.phase = .up) (wakes : s.clock.mode = .waking) (hw : s.TablesCanonical) (hd : s.TagsDistinct) :
    ∃ a u v w x t, a = s.takeHour.takeMidnight ∧ u.clock.core = { a.clock.core with mode := .running } ∧
      u.store.checkpoint = .running a.settings.checkpoint ∧ ChangesOnly [.clock, .checkpointTimer] a u ∧
      v.clock.core = { u.wakeRolls.clock.core with midnights := 0 } ∧ ChangesOnly [.clock] u.wakeRolls v ∧
      HeldExpired v w ∧
      (∀ p, x.printer p = { w.printer p with
        limit := (w.printer p).limit.carryOn
        presence := if (w.printer p).service ≠ .unused ∧ (w.printer p).cfg.mode ≠ .silent ∧
            (w.printer p).standing.unreachable = false then .running (w.printer p).cfg.presenceInterval else .stopped }) ∧
      (∀ i, x.callout i = (w.callout i).map (fun c => { c with timer := c.timer.carryOn })) ∧
      x.clock.core = { w.clock.core with kept := [] } ∧ ChangesOnly [.clock, .printers, .callouts] w x ∧
      exec .wakeCompletion s = .next t ∧
      ChangesOnly endOfStep (w.clock.kept.foldl (fun y f => match [FaultKind.jam, .mediaOut, .doorOpen, .engine,
          .supplyFault][f.2]? with
        | some k => (y.frameFrom f.1).takeFault f.1 k
        | none => y.frameFrom f.1) x) t := by
  let a := s.takeHour.takeMidnight
  let running : Clock := { a.clock with mode := .running }
  let u : State := { a with clock := running, store := { a.store with checkpoint := .running a.settings.checkpoint } }
  let r := u.wakeRolls
  let v : State := { r with clock := { r.clock with midnights := 0 } }
  let w := v.expireHeld
  let x : State := { w.resumeTimers with clock := { w.clock with kept := [] } }
  have began : Moves clockPieces s u :=
    (s.takeRaised_moves.next (Moves.one (.clock a running id rfl)) (by decide)).next
      (Moves.one (.checkpointTimer _ (.running a.settings.checkpoint)))
  have rolled : Moves clockPieces s v :=
    (began.trans (State.wakeRolls_moves u)).next (Moves.one (.clock r v.clock id rfl))
  have expired : Moves clockPieces s w := rolled.next (State.expireHeld_moves v)
  have tables := expired.keeps_tables hw
  have e : exec .wakeCompletion s = .next s.awaken.finish := by
    show execWakeCompletion s = _
    rw [execWakeCompletion, State.whenUp_up _ up, if_pos wakes]
  refine ⟨a, u, v, w, x, _, rfl, rfl, rfl, fun y hy => ?_, rfl, r.clock_changes _ rfl,
    State.expireHeld_expired (Moves.kept tags_kept rolled hd), fun p => ?_, fun i => ?_, rfl, fun y hy => ?_, e, ?_⟩
  · cases y <;>
      first | exact rfl | exact ⟨rfl, rfl⟩ | exact ⟨rfl, rfl, rfl⟩ | exact ⟨rfl, rfl, rfl, rfl⟩ | exact absurd (by simp) hy
  · exact (Tbl.get_mapAll rfl (Tbl.nodup_of_wf tables.printers) p).trans (PrinterOf.woken_eq _)
  · exact Tbl.get_mapAll rfl (Tbl.nodup_of_wf tables.callouts) i
  · cases y <;>
      first | exact rfl | exact ⟨rfl, rfl⟩ | exact ⟨rfl, rfl, rfl⟩ | exact ⟨rfl, rfl, rfl, rfl⟩ | exact absurd (by simp) hy
  · have kept : s.awaken = w.clock.kept.foldl (fun y f => y.takeFaultMessage f.1 f.2) x := rfl
    simp only [State.takeFaultMessage_eq] at kept
    rw [kept]
    exact State.finish_changes _

/-- Settles O52: Settling and Standby, the console command and the two events, and wake completion in its steps. -/
theorem standbyStates : Obligations.StandbyStates := by
  refine ⟨fun s => ⟨State.idleCondition_iff, State.enterStandby_entered, s.enterSettling_spec⟩, fun h s hr => standby_done hr,
    fun s up => ⟨idleTimer_expires up, storeDrain_completes up, fun other => ?_, fun wakes hw hd =>
      wakeCompletion_done up wakes hw hd⟩⟩
  refine ⟨s.finish, ?_, State.finish_changes _⟩
  show execWakeCompletion s = _
  rw [execWakeCompletion, State.whenUp_up _ up, if_neg other]

end Sys2Proof.Machine

/-! PROOFS. The persistent store (R164 to R168): due records and the Store Write Queue, CHECKPOINT, program operations, the images
of the slots, and the order of the dirty marks. -/

namespace Sys2Proof.Machine

set_option Elab.async false

variable {s t u v : State}

/-! ### Due records and the queue (R165, R166) -/

theorem State.due_iff (s : State) (n : Nat) : s.due n = true ↔
    n ∈ s.store.dirty ∧ (n < 4282 ∨ 8634 ≤ n ∨ n ∈ s.store.called ∨ s.clock.mode = .settling) := by
  have plain : deferred n = false ↔ n < 4282 ∨ 8634 ≤ n := by
    rw [← Bool.not_eq_true, deferred_iff]
    omega
  unfold State.due
  simp [plain, or_assoc]

/-- R166: what queueing the records of a list comes to. -/
structure Queued (s : State) (l queued before after : List Nat) : Prop where
  result : l.foldl State.enqueue s = { s with store := { s.store with queue := s.store.queue ++ queued } }
  split : l = before ++ after
  inOrder : queued.Sublist before
  fresh : ∀ n ∈ queued, s.due n = true ∧ n ∉ s.store.queue
  all : ∀ n ∈ before, s.due n = true → n ∈ s.store.queue ++ queued
  full : after = [] ∨ 64 ≤ (s.store.queue ++ queued).length

theorem State.enqueue_full (full : 64 ≤ s.store.queue.length) (n : Nat) : s.enqueue n = s := by
  have no : ¬s.store.queue.length < Config.storeQueue := Nat.not_lt.2 full
  unfold State.enqueue
  rw [if_neg (by simp [no])]

theorem State.enqueueAll_full (full : 64 ≤ s.store.queue.length) (l : List Nat) : l.foldl State.enqueue s = s := by
  induction l with
  | nil => rfl
  | cons n l ih => rw [List.foldl_cons, State.enqueue_full full, ih]

/-- R166: the records of a list that wait and are due are queued in its order until the queue is full. -/
theorem State.enqueueAll_queued (l : List Nat) : ∀ s : State, ∃ queued before after, Queued s l queued before after := by
  induction l with
  | nil => exact fun s => ⟨[], [], [], by simp, rfl, List.Sublist.refl _, nofun, nofun, .inl rfl⟩
  | cons n l ih =>
    intro s
    by_cases full : 64 ≤ s.store.queue.length
    · exact ⟨[], [], n :: l, by simpa using State.enqueueAll_full full (n :: l), rfl, List.Sublist.refl _, nofun, nofun,
        .inr (by simpa using full)⟩
    · have room : s.store.queue.length < Config.storeQueue := Nat.not_le.1 full
      by_cases joins : s.due n = true ∧ n ∉ s.store.queue
      · let t : State := { s with store := { s.store with queue := s.store.queue ++ [n] } }
        have step : s.enqueue n = t := by
          unfold State.enqueue
          rw [if_pos (by simp [joins, room])]
        obtain ⟨queued, before, after, q⟩ := ih t
        refine ⟨n :: queued, n :: before, after, ?_, by rw [q.split]; rfl, q.inOrder.cons_cons n, fun m hm => ?_,
          fun m hm due => ?_, ?_⟩
        · rw [List.foldl_cons, step, q.result]
          simp [t]
        · rcases List.mem_cons.1 hm with rfl | later
          · exact joins
          · obtain ⟨due, out⟩ := q.fresh m later
            exact ⟨due, fun inside => out (List.mem_append_left _ inside)⟩
        · rcases List.mem_cons.1 hm with rfl | later
          · simp
          · simpa [t] using q.all m later due
        · exact q.full.imp id fun h => by simpa [t] using h
      · have step : s.enqueue n = s := by
          unfold State.enqueue
          rw [if_neg (by simpa [room] using joins)]
        obtain ⟨queued, before, after, q⟩ := ih s
        refine ⟨queued, n :: before, after, ?_, by rw [q.split]; rfl, q.inOrder.cons n, q.fresh, fun m hm due => ?_, q.full⟩
        · rw [List.foldl_cons, step, q.result]
        · rcases List.mem_cons.1 hm with rfl | later
          · exact List.mem_append_left _ (by_contra fun out => joins ⟨due, out⟩)
          · exact q.all m later due

theorem State.mark_spec (s : State) (n : Nat) :
    (∀ m, m ∈ (s.mark n).store.dirty ↔ m = n ∨ m ∈ s.store.dirty) ∧ ChangesOnly [.storeWriting] s (s.mark n) :=
  ⟨fun m => by rw [State.mark_dirty, mem_insertSlot], (s.mark_moves n).changesOnly⟩

/-! ### CHECKPOINT and the checkpoint timer (R168) -/

theorem checkpoint_done {h : Hdr} (hr : ConsoleReady h s) :
    ∃ u v, ChangesOnly [.idleTimer] s u ∧ Called u v ∧
      CarriedOut (.checkpoint h true) h s v .ok
        (.called (s.store.dirty.filter (fun n => 4282 ≤ n ∧ n ≤ 8633 ∧ n ∉ s.store.called)).length) := by
  have e : exec (.checkpoint h true) s = mgmtRequest h (some ()) (fun _ => checkpointRule) s := rfl
  refine ⟨s.restartIdle, _, s.restartIdle_changes, s.restartIdle.checkpointOccasion_called, carriedOut_of hr e ?_
    s.restartIdle.checkpointOccasion_moves⟩
  unfold checkpointRule
  rw [State.restartIdle_store]
  dsimp only
  congr 4
  funext n
  have iff := deferred_iff n
  by_cases kind : 4282 ≤ n ∧ n ≤ 8633
  · simp [iff.2 kind, kind.1, kind.2]
  · rw [eq_false_of_ne_true (iff.not.2 kind)]
    simp only [Bool.false_and, ← and_assoc, kind, false_and, decide_false]

theorem checkpointTimer_expires (up : s.phase = .up) :
    (s.store.checkpoint.runs = true → ∃ u t, Called s u ∧ exec .checkpointTimerExpiry s = .next t ∧
      t.store.checkpoint = .running s.settings.checkpoint ∧ ChangesOnly ([Piece.checkpointTimer] ++ endOfStep) u t) ∧
    (s.store.checkpoint.runs = false →
      ∃ t, exec .checkpointTimerExpiry s = .next t ∧ ChangesOnly endOfStep s t) := by
  let u := s.checkpointOccasion
  let w : State := { u with store := { u.store with checkpoint := .running u.settings.checkpoint } }
  have e : exec .checkpointTimerExpiry s = .next (State.finish (if s.store.checkpoint.runs then w else s)) := by
    show execCheckpointTimerExpiry s = _
    rw [execCheckpointTimerExpiry, State.whenUp_up _ up]
  refine ⟨fun runs => ⟨u, _, s.checkpointOccasion_called, e, ?_, ?_⟩, fun idle => ⟨_, e, ?_⟩⟩
  · rw [if_pos runs, State.finish_checkpoint]
    have same : u.settings = s.settings := s.checkpointOccasion_moves.changesOnly .settings (by decide)
    rw [← same]
  · rw [if_pos runs]
    exact ((Moves.one (.checkpointTimer u (.running u.settings.checkpoint))).changesOnly.mono (by decide)).trans
      ((State.finish_changes w).mono (by decide))
  · rw [if_neg (by simp [idle])]
    exact State.finish_changes _

/-! ### Program operations (R167) -/

theorem Tbl.get_put_ne {α : Type} [DecidableEq α] {d e : α} {t : Tbl α} {i j : Nat} (v : α) (h : j ≠ i) :
    Tbl.get e (t.put d i v) j = Tbl.get e t j := by
  unfold Tbl.put
  split
  · rw [Tbl.get_erase, if_neg h]
  · rw [Tbl.get_insert _ _ fun x hx => Tbl.ne_of_mem_erase hx, if_neg h, Tbl.get_erase, if_neg h]

theorem Store.slot_setSlot (st : Store) (n : Nat) (v : Slot) (m : Nat) :
    (st.setSlot n v).slot m = if m = n then v else st.slot m := by
  by_cases h : m = n
  · rw [if_pos h, h]
    exact (Tbl.get_put _ _ _ _ _).trans (if_pos rfl)
  · rw [if_neg h]
    exact Tbl.get_put_ne v h

/-- R167: an operation that begins within the step. -/
theorem State.finish_begins {m : Nat} {rest : List Nat} (idle : s.store.underWay = none) (queue : s.store.queue = m :: rest) :
    s.finish.store.underWay = some (m, s.image m) ∧ s.finish.store.dirty = s.store.dirty.filter (· ≠ m) ∧
      s.finish.store.called = s.store.called.filter (· ≠ m) ∧ ∃ more, s.finish.store.queue = rest ++ more := by
  let w : State := { s with store := { s.store with
    queue := rest, underWay := some (m, s.image m)
    dirty := s.store.dirty.filter (· ≠ m), called := s.store.called.filter (· ≠ m) } }
  have begun : s.beginProgram = w.fillQueue := by
    unfold State.beginProgram
    rw [idle, queue]
  have store : s.finish.store = w.fillQueue.store := by
    rw [← begun]
    unfold State.finish State.idleService
    split
    · split <;> rfl
    · rfl
  obtain ⟨queued, before, after, q⟩ := State.enqueueAll_queued w.store.dirty w
  rw [store, State.fillQueue, q.result]
  exact ⟨rfl, rfl, rfl, queued, rfl⟩

theorem State.finish_rests (queue : s.store.queue = []) : s.finish.store = s.store := by
  have none : s.beginProgram = s := by
    unfold State.beginProgram
    rw [queue]
    split <;> simp_all
  unfold State.finish State.idleService
  rw [none]
  split
  · split <;> rfl
  · rfl

theorem programOperation_completes (up : s.phase = .up) :
    (s.store.underWay = none → ∃ t, exec .programOperationComplete s = .next t ∧ ChangesOnly endOfStep s t) ∧
    (∀ n img, s.store.underWay = some (n, img) →
      ∃ t, exec .programOperationComplete s = .next t ∧ t.store.slot n = some img ∧
        (∀ m, m ≠ n → t.store.slot m = s.store.slot m) ∧
        (s.store.queue = [] → t.store.underWay = none ∧ t.store.dirty = s.store.dirty ∧ t.store.called = s.store.called ∧
          t.store.queue = []) ∧
        (∀ m rest, s.store.queue = m :: rest →
          t.store.underWay = some (m, s.image m) ∧ t.store.dirty = s.store.dirty.filter (· ≠ m) ∧
            t.store.called = s.store.called.filter (· ≠ m) ∧ ∃ more, t.store.queue = rest ++ more) ∧
        ChangesOnly ([Piece.slots] ++ endOfStep) s t) := by
  refine ⟨fun idle => ⟨s.finish, ?_, State.finish_changes _⟩, fun n img runs => ?_⟩
  · show execProgramOperationComplete s = _
    rw [execProgramOperationComplete, State.whenUp_up _ up, idle]
  · let w : State := { s with store := { s.store.setSlot n (some img) with underWay := none } }
    have e : exec .programOperationComplete s = .next w.finish := by
      show execProgramOperationComplete s = _
      rw [execProgramOperationComplete, State.whenUp_up _ up, runs]
    have slot (m : Nat) : w.finish.store.slot m = if m = n then some img else s.store.slot m := by
      rw [← Store.slot_setSlot]
      exact congrArg (fun x => Tbl.get (some (factoryImage m)) x m) State.finish_slots
    refine ⟨w.finish, e, (slot n).trans (if_pos rfl), fun m hm => (slot m).trans (if_neg hm), fun empty => ?_,
      fun m rest queue => State.finish_begins rfl queue, ?_⟩
    · rw [State.finish_rests (s := w) empty]
      exact ⟨rfl, rfl, rfl, empty⟩
    · have stored : ChangesOnly ([Piece.slots] ++ endOfStep) s w := fun x hx => by
        cases x <;>
          first | exact rfl | exact ⟨rfl, rfl⟩ | exact ⟨rfl, rfl, rfl⟩ | exact absurd (by decide) hx
      exact stored.trans ((State.finish_changes w).mono (by decide))

/-! ### The images of the slots (R164) -/

section Images
variable (s : State)

theorem State.image_class {i : Nat} (hi : i ≤ 24) : s.image (classSlot i) = .classifier (s.classEntry i) := by
  unfold State.image classSlot
  rw [if_neg (by omega), if_pos (by omega), Nat.add_sub_cancel_left]

theorem State.image_active {i : Nat} (hi : i ≤ 15) : s.image (activeSlot i) = .row (Tbl.get Row.factory s.tariff.active i) := by
  unfold State.image activeSlot
  rw [if_neg (by omega), if_neg (by omega), if_pos (by omega), Nat.add_sub_cancel_left]

theorem State.image_pending {i : Nat} (hi : i ≤ 15) :
    s.image (pendingSlot i) = .row (Tbl.get Row.factory s.tariff.pending i) := by
  unfold State.image pendingSlot
  rw [if_neg (by omega), if_neg (by omega), if_neg (by omega), if_pos (by omega), Nat.add_sub_cancel_left]

theorem State.image_printer {p : Nat} (hp : p ≤ 63) : s.image (printerSlot p) = .printerConfig (s.printer p).cfg := by
  unfold State.image printerSlot
  rw [if_neg (by omega), if_neg (by omega), if_neg (by omega), if_neg (by omega), if_pos (by omega), Nat.add_sub_cancel_left]

theorem State.image_health {p : Nat} (hp : p ≤ 63) : s.image (healthSlot p) =
    .printerHealth (decide ((s.printer p).health = .withdrawn)) (decide ((s.printer p).service = .inService)) := by
  unfold State.image healthSlot
  rw [if_neg (by omega), if_neg (by omega), if_neg (by omega), if_neg (by omega), if_neg (by omega), if_pos (by omega),
    Nat.add_sub_cancel_left, beq_eq_decide, beq_eq_decide]

theorem State.image_account {k : Nat} (hk : k ≤ 4095) : s.image (accountSlot k) = .accountConfig (s.account k).cfg := by
  unfold State.image accountSlot
  rw [if_neg (by omega), if_neg (by omega), if_neg (by omega), if_neg (by omega), if_neg (by omega), if_neg (by omega),
    if_pos (by omega), Nat.add_sub_cancel_left]

theorem State.image_balance {k : Nat} (hk : k ≤ 4095) :
    s.image (balanceSlot k) = .balance (s.account k).spent (s.account k).state (s.account k).failures := by
  unfold State.image balanceSlot
  rw [if_neg (by omega), if_neg (by omega), if_neg (by omega), if_neg (by omega), if_neg (by omega), if_neg (by omega),
    if_neg (by omega), if_pos (by omega), Nat.add_sub_cancel_left]

theorem colorantIndex_lt (col : Colorant) : colorantIndex col < 4 := by cases col <;> decide

theorem colorantAt_index (col : Colorant) : colorantAt (colorantIndex col) = col := by cases col <;> rfl

theorem State.image_colorant {p : Nat} (hp : p ≤ 63) (col : Colorant) :
    s.image (colorantSlot p col) = supplyImage ((s.printer p).supply col) := by
  have place := colorantIndex_lt col
  have entry : (8378 + 4 * p + colorantIndex col - 8378) / 4 = p := by omega
  have index : (8378 + 4 * p + colorantIndex col - 8378) % 4 = colorantIndex col := by omega
  unfold State.image colorantSlot
  rw [if_neg (by omega), if_neg (by omega), if_neg (by omega), if_neg (by omega), if_neg (by omega), if_neg (by omega),
    if_neg (by omega), if_neg (by omega), if_pos (by omega), entry, index, colorantAt_index]

theorem State.image_reorder {i : Nat} (hi : i ≤ 63) : s.image (reorderSlot i) = .reorder (s.reorder i) := by
  unfold State.image reorderSlot
  rw [if_neg (by omega), if_neg (by omega), if_neg (by omega), if_neg (by omega), if_neg (by omega), if_neg (by omega),
    if_neg (by omega), if_neg (by omega), if_neg (by omega), if_pos (by omega), Nat.add_sub_cancel_left]

theorem State.image_callout (i : Nat) :
    s.image (calloutSlot i) = .callout ((s.callout i).map (fun c => { c with timer := .stopped })) := by
  unfold State.image calloutSlot
  rw [if_neg (by omega), if_neg (by omega), if_neg (by omega), if_neg (by omega), if_neg (by omega), if_neg (by omega),
    if_neg (by omega), if_neg (by omega), if_neg (by omega), if_neg (by omega), Nat.add_sub_cancel_left]

end Images

/-! ### The dirty marks in order (R166) -/

theorem marksOf_rising (l : List Nat) : (marksOf l).Pairwise (· < ·) :=
  foldl_keeps (P := fun d : List Nat => d.Pairwise (· < ·)) (fun _ n h => insertSlot_rising n h) l List.Pairwise.nil

/-- R166: every step keeps the dirty slot numbers rising. -/
theorem dirty_kept : StepKept (fun s => s.store.dirty.Pairwise (· < ·)) where
  pending _ _ h := h
  powered _ h := h
  move _ s _ x h := by
    cases x
    case dirty x hx => exact hx h
    case extend j n _ _ _ _ =>
      obtain ⟨free, promises, recs, e⟩ := s.extendJob_eq j n
      rw [e]
      exact h
    all_goals exact h
  discard _ h := h
  unpowered _ _ := List.Pairwise.nil
  restored _ _ _ := marksOf_rising _

/-- Settles O53: queueing, CHECKPOINT, the events of the store, the images, and the order of the marks. -/
theorem storeOperations : Obligations.StoreOperations := by
  refine ⟨fun s => ⟨s.due_iff, s.mark_spec, ?_⟩, fun h s hr => checkpoint_done hr, fun s up => ?_, fun s => ?_,
    fun s t rising next => step_keeps dirty_kept next rising⟩
  · obtain ⟨queued, before, after, q⟩ := State.enqueueAll_queued s.store.dirty s
    exact ⟨queued, before, after, q.result, q.split, q.inOrder, q.fresh, q.all, q.full⟩
  · obtain ⟨runs, idle⟩ := checkpointTimer_expires up
    exact ⟨runs, idle, programOperation_completes up⟩
  · refine ⟨rfl, fun i hi => s.image_class hi, fun i hi => ⟨s.image_active hi, s.image_pending hi⟩,
      fun p hp => ⟨s.image_printer hp, s.image_health hp, fun col r h => ?_⟩,
      fun k hk => ⟨s.image_account hk, s.image_balance hk⟩, fun i hi => s.image_reorder hi, fun i _ => s.image_callout i⟩
    rw [s.image_colorant hp, h]
    rfl

end Sys2Proof.Machine

/-! PROOFS. RESTART and the completion of a warm restart (R172, R173). -/

namespace Sys2Proof.Machine

set_option Elab.async false

variable {s t u v : State}

/-- R172: RESTART. -/
theorem restart_done {h : Hdr} (hr : ConsoleReady h s) :
    ∃ u, u.restartPending = true ∧ u.store = { s.store with reset := { s.store.reset with cause := .console } } ∧
      u.clock.core = { s.clock.core with mode := if s.clock.mode = .settling then .running else s.clock.mode } ∧
      ChangesOnly [.restartPending, .resetRecord, .clock, .idleTimer] s u ∧ CarriedOut (.restart h true) h s u .ok := by
  have e : exec (.restart h true) s = mgmtRequest h (some ()) (fun _ => restartRule) s := rfl
  let w : State := { s.restartIdle with
    restartPending := true
    store := { s.restartIdle.store with reset := { s.restartIdle.store.reset with cause := .console } } }
  have moves := restartRule_moves s.restartIdle
  have core := w.abandonSettling_core
  have rest := w.abandonSettling_moves.changesOnly
  refine ⟨w.abandonSettling, rest .restartPending (by decide), ?_, ?_,
    (s.restartIdle_changes.mono (by decide)).trans (moves.changesOnly.mono (by decide)), carriedOut_of hr e rfl moves⟩
  · rw [State.abandonSettling_eq]
    show { s.restartIdle.store with reset := { s.restartIdle.store.reset with cause := .console } } = _
    rw [State.restartIdle_store]
  · rw [core, show w.clock = s.restartIdle.clock from rfl, s.restartIdle_core, State.restartIdle_mode]

/-- R173: the port of the console once STARTED has been placed, which finds room. -/
def State.startedPort (s : State) : PortState :=
  { pass := [], lastOwn := false, served := 2, wire := s.oport.wire
    own := if s.noticeEnabled .started then
      [s.addressed { etherType := s.settings.frameType, src := s.settings.ownStation, notice := .started .console 0 }] else [] }

theorem State.discardWork_started (s : State) :
    s.discardWork.notify (.started .console 0) = { s.discardWork with oport := s.startedPort } := by
  unfold State.notify State.startedPort
  cases on : s.noticeEnabled .started with
  | false => exact if_neg (by rw [show s.discardWork.noticeEnabled (Notice.started .console 0).kind = false from on]; decide)
  | true => exact (if_pos on).trans (if_pos rfl)

/-- R173: the state that a completed restart leaves, but for what the store and the idle timer do at the end of the step. -/
theorem State.completeRestart_eq (s : State) : ∃ d c q w i,
    s.completeRestart.finish = { s.discardWork with
      oport := s.startedPort, store := { s.discardWork.store with dirty := d, called := c, queue := q, underWay := w }
      clock := { s.discardWork.clock with idle := i } } := by
  obtain ⟨d, c, q, w, i, ended⟩ := State.finish_eq s.completeRestart
  obtain ⟨d', q', marked, -⟩ := State.markAll_eq ((s.printers.indexesWhere (fun e => e.service == .parking)).map healthSlot)
    (s.discardWork.notify (.started .console 0))
  have shape : s.completeRestart = { s.discardWork with
      oport := s.startedPort, store := { s.discardWork.store with dirty := d', queue := q' } } := by
    unfold State.completeRestart
    rw [marked, State.discardWork_started]
  rw [shape] at ended
  exact ⟨d, c, q, w, i, by rw [shape]; exact ended⟩

/-- R109, R133: the entry that a restart leaves. -/
theorem PrinterOf.restarted_eq (e : Printer) : PrinterOf.restarted e = { e with
    service := if e.service = .parking then .parked else e.service
    queue := [], control := [], stall := .stopped, standing := Standing.none, limit := .stopped
    presence := if e.service ≠ .unused ∧ e.cfg.mode ≠ .silent then .running e.cfg.presenceInterval else .stopped } := by
  have iff : (e.service != .unused && e.cfg.mode != .silent) = true ↔ e.service ≠ .unused ∧ e.cfg.mode ≠ .silent := by simp
  unfold PrinterOf.restarted
  congr 1
  exact if_congr iff rfl rfl

/-- R173: each printer that becomes Parked has its health record written. -/
theorem State.completeRestart_parked (hw : s.TablesCanonical) {p : Nat} (parking : (s.printer p).service = .parking) :
    Written s.completeRestart.finish (healthSlot p) := by
  refine State.written_of_dirty ?_
  unfold State.completeRestart
  rw [State.mem_markAll]
  refine .inl (List.mem_map_of_mem ?_)
  refine (Tbl.mem_indexesWhere_iff (d := printerFactory) (Tbl.nodup_of_wf hw.printers) rfl p).2 ?_
  exact beq_iff_eq.2 parking

/-- R23, R46, R109, R133, R173: a completed restart. -/
theorem State.completeRestart_restarted (hw : s.TablesCanonical) : WarmRestarted s s.completeRestart.finish := by
  have parked {p : Nat} (h : (s.printer p).service = .parking) := State.completeRestart_parked hw h
  obtain ⟨d, c, q, w, i, shape⟩ := s.completeRestart_eq
  rw [shape] at parked ⊢
  exact {
    jobs := rfl
    spool := ⟨freeList_fresh, rfl, rfl, rfl⟩
    accounts := fun k => Tbl.get_mapAll (f := Account.restarted) rfl (Tbl.nodup_of_wf hw.accounts) k
    printers := fun p => (Tbl.get_mapAll (f := PrinterOf.restarted) rfl (Tbl.nodup_of_wf hw.printers) p).trans
      (PrinterOf.restarted_eq _)
    parked := fun p h => parked h
    clock := rfl
    waiting := ⟨rfl, rfl, rfl⟩
    office := rfl
    started := rfl
    fleet := rfl
    turn := rfl
    resetRecord := rfl
    done := rfl
    rest := fun x hx => by
      cases x <;> first | exact rfl | exact ⟨rfl, rfl⟩ | exact ⟨rfl, rfl, rfl⟩ | exact absurd (by decide) hx }

/-- Settles O54: RESTART, and its completion once the store is at rest. -/
theorem warmRestart : Obligations.WarmRestart := by
  refine ⟨fun h s hr => restart_done hr, fun s up => ?_⟩
  have iff : (s.restartPending && s.store.queue.isEmpty && s.store.underWay.isNone) = true ↔
      s.restartPending = true ∧ s.store.queue = [] ∧ s.store.underWay = none := by simp [and_assoc]
  have e : exec .restartComplete s = .next (State.finish
      (if s.restartPending && s.store.queue.isEmpty && s.store.underWay.isNone then s.completeRestart else s)) := by
    show execRestartComplete s = _
    rw [execRestartComplete, State.whenUp_up _ up]
  refine ⟨fun ready hw => ⟨_, e, ?_⟩, fun idle => ⟨_, e, ?_⟩⟩
  · rw [if_pos (iff.2 ready)]
    exact State.completeRestart_restarted hw
  · rw [if_neg (iff.not.2 idle)]
    exact State.finish_changes s

end Sys2Proof.Machine

/-! PROOFS. TABLE_READ and QUERY (R176 to R178). -/

namespace Sys2Proof.Machine

set_option Elab.async false

variable {s t u v : State}

/-! ### TABLE_READ (R176) -/

/-- R176: what is read does not depend on the idle timer. -/
theorem State.restartIdle_readBody (s : State) (i : Nat) (x : TableId) : s.restartIdle.readBody i x = s.readBody i x := by
  obtain ⟨c, e⟩ := s.restartIdle_eq
  rw [e]
  cases x <;> rfl

theorem tableRead_refused {h : Hdr} {x : TableId} {i : Nat} {r : Result} (hr : ConsoleReady h s)
    (first : FirstOf [(TableId.last x < i, Result.badIndex), (x = .job ∧ s.job i = none, .noSuchJob)] r) :
    CarriedOut (.tableRead h (some (x, i))) h s s r := by
  have e : exec (.tableRead h (some (x, i))) s = mgmtRequest h (some (x, i)) readRule s := rfl
  refine carriedOut_unchanged hr e ?_
  unfold readRule
  rcases first with ⟨beyond, rfl⟩ | ⟨within, ⟨missing, rfl⟩ | ⟨-, ⟨⟩⟩⟩
  · exact if_pos beyond
  · rw [if_neg within, if_pos ⟨missing.1, by rw [State.restartIdle_job, missing.2]; rfl⟩]
    rfl

theorem tableRead_done {h : Hdr} {x : TableId} {i : Nat} (hr : ConsoleReady h s) (within : i ≤ TableId.last x)
    (record : x = .job → s.job i ≠ none) : CarriedOut (.tableRead h (some (x, i))) h s s .ok (s.readBody i x) := by
  have e : exec (.tableRead h (some (x, i))) s = mgmtRequest h (some (x, i)) readRule s := rfl
  refine carriedOut_unchanged hr e ?_
  have found : ¬(x = .job ∧ (s.restartIdle.job i).isNone = true) := fun ⟨job, missing⟩ => by
    rw [State.restartIdle_job, Option.isNone_iff_eq_none] at missing
    exact record job missing
  unfold readRule
  rw [if_neg (Nat.not_lt.2 within), if_neg found, State.restartIdle_readBody]

/-! ### QUERY (R178) -/

section Attention

theorem State.unacknowledged_iff (hw : s.TablesCanonical) (k : CalloutKind) :
    s.unacknowledged k = true ↔ ∃ i c, s.callout i = some c ∧ c.kind = k ∧ c.acknowledged = false := by
  have any := Tbl.any_iff (d := none) (f := fun _ (e : Option Callout) => match e with
    | some c => c.kind == k && !c.acknowledged
    | none => false) (Tbl.wf_iff.1 hw.callouts).1 (fun _ => rfl)
  refine any.trans (exists_congr fun i => ?_)
  show _ = true ↔ ∃ c, Tbl.get none s.callouts i = some c ∧ _
  cases Tbl.get none s.callouts i <;> simp

theorem State.notified_iff (hw : s.TablesCanonical) :
    s.attends .reorderNotified = true ↔ ∃ i o, s.reorder i = some o ∧ o.confirmed = false := by
  have any := Tbl.any_iff (d := none) (f := fun _ (e : Option Reorder) => match e with
    | some r => !r.confirmed
    | none => false) (Tbl.wf_iff.1 hw.reorders).1 (fun _ => rfl)
  refine any.trans (exists_congr fun i => ?_)
  show _ = true ↔ ∃ o, Tbl.get none s.reorders i = some o ∧ _
  cases Tbl.get none s.reorders i <;> simp

theorem State.locked_iff (hw : s.TablesCanonical) :
    s.attends .accountLocked = true ↔ ∃ k, (s.account k).cfg.valid = true ∧ (s.account k).state = .locked := by
  have any := Tbl.any_iff (d := Account.factory) (f := fun _ (a : Account) => a.cfg.valid && a.state == .locked)
    (Tbl.wf_iff.1 hw.accounts).1 (fun _ => rfl)
  refine any.trans (exists_congr fun k => ?_)
  rw [Bool.and_eq_true, beq_iff_eq]
  rfl

theorem mem_attentionRanks (x : Attention) : x ∈ attentionRanks := by cases x <;> decide

theorem State.mem_attention (s : State) (x : Attention) : x ∈ s.attention ↔ s.attends x = true := by
  rw [State.attention, List.mem_filter]
  exact and_iff_right (mem_attentionRanks x)

/-- R178: the conditions stand in rank order. -/
theorem State.attention_ranked (s : State) : (s.attention.map Attention.code).Pairwise (· < ·) := by
  have ranks : (attentionRanks.map Attention.code).Pairwise (· < ·) := by decide
  exact ranks.sublist (List.filter_sublist.map _)

theorem State.restartIdle_attention (s : State) : s.restartIdle.attention = s.attention := by
  obtain ⟨c, e⟩ := s.restartIdle_eq
  rw [e]
  exact List.filter_congr fun x _ => by cases x <;> rfl

end Attention

/-- Settles O56: a read by its table and its index, and the conditions of a QUERY one by one. -/
theorem readCommands : Obligations.ReadCommands := by
  refine ⟨fun h x i s hr => ?_, fun h clear s hr hw => ?_⟩
  · refine ⟨fun r first => ?_, fun within record => ⟨s.readBody i x, ?_, ?_⟩⟩
    · exact tableRead_refused hr (by cases x <;> exact first)
    · exact tableRead_done hr (by cases x <;> exact within) record
    · cases x
      case settings =>
        unfold State.readBody State.settingsView
        simp
      case printer => exact ⟨s.printerView i, rfl, rfl, rfl, rfl, rfl, rfl⟩
      case job =>
        obtain ⟨j, named⟩ := Option.ne_none_iff_exists'.1 (record rfl)
        have body : s.readBody i .job = .job j j.scaled := by
          unfold State.readBody
          rw [named]
        exact ⟨j, named, body⟩
      all_goals rfl
  · have e : exec (.query h (some clear)) s = mgmtRequest h (some clear) queryRule s := rfl
    have moves := queryRule_moves s.restartIdle clear
    have rule : queryRule clear s.restartIdle = { state := (queryRule clear s.restartIdle).state, result := .ok
                                                  body := .attention s.attention s.attention.head? } := by
      unfold queryRule
      rw [State.restartIdle_attention]
    have low : s.attends .spoolLow = true ↔ s.spool.headroom < 17408 := decide_eq_true_iff
    refine ⟨s.attention, _, carriedOut_of hr e rule moves, ?_, (s.restartIdle_changes.mono (by decide)).trans
      (moves.changesOnly.mono (by decide)), s.attention_ranked, ?_, s.mem_attention _, ?_, ?_, ?_, ?_, ?_, ?_,
      s.mem_attention _, s.mem_attention _⟩
    · unfold queryRule
      rw [← s.restartIdle_changes.console]
      cases clear <;> rfl
    · exact (s.mem_attention _).trans (State.unacknowledged_iff hw .urgent)
    · exact (s.mem_attention _).trans (State.unacknowledged_iff hw .service)
    · exact (s.mem_attention _).trans low
    · exact (s.mem_attention _).trans (State.notified_iff hw)
    · exact (s.mem_attention _).trans (State.unacknowledged_iff hw .attention)
    · exact (s.mem_attention _).trans (State.locked_iff hw)
    · exact (s.mem_attention _).trans Option.isNone_iff_eq_none

end Sys2Proof.Machine

/-! PROOFS. The producers of the two ports (R64, R90, R175, R180, R184, R185): whose turn it is, what each places, and when a
printer has a message ready. -/

namespace Sys2Proof.Machine

set_option Elab.async false

variable {s t u v : State}

/-! ### Turns (R184) -/

/-- R184: the turns of two producers, the one served last being asked last. -/
theorem nextTurn_two {k : Nat} (ready : Nat → Bool) (hk : k ≤ 1) :
    (nextTurn 2 k ready = some 0 ↔ ready 0 = true ∧ (k = 1 ∨ ready 1 = false)) ∧
    (nextTurn 2 k ready = some 1 ↔ ready 1 = true ∧ (k = 0 ∨ ready 0 = false)) := by
  have served : k = 0 ∨ k = 1 := by omega
  rcases served with rfl | rfl
  · show ([1, 0].find? ready = some 0 ↔ _) ∧ ([1, 0].find? ready = some 1 ↔ _)
    cases h0 : ready 0 <;> cases h1 : ready 1 <;> simp [List.find?, h0, h1]
  · show ([0, 1].find? ready = some 0 ↔ _) ∧ ([0, 1].find? ready = some 1 ↔ _)
    cases h0 : ready 0 <;> cases h1 : ready 1 <;> simp [List.find?, h0, h1]

/-- R184: the turns of three producers. -/
theorem nextTurn_three {k : Nat} (ready : Nat → Bool) (hk : k ≤ 2) :
    (nextTurn 3 k ready = some 0 ↔ ready 0 = true ∧ (k = 2 ∨ (ready 2 = false ∧ (k = 1 ∨ ready 1 = false)))) ∧
    (nextTurn 3 k ready = some 1 ↔ ready 1 = true ∧ (k = 0 ∨ (ready 0 = false ∧ (k = 2 ∨ ready 2 = false)))) ∧
    (nextTurn 3 k ready = some 2 ↔ ready 2 = true ∧ (k = 1 ∨ (ready 1 = false ∧ (k = 0 ∨ ready 0 = false)))) := by
  have served : k = 0 ∨ k = 1 ∨ k = 2 := by omega
  rcases served with rfl | rfl | rfl
  · show ([1, 2, 0].find? ready = some 0 ↔ _) ∧ ([1, 2, 0].find? ready = some 1 ↔ _) ∧ ([1, 2, 0].find? ready = some 2 ↔ _)
    cases h0 : ready 0 <;> cases h1 : ready 1 <;> cases h2 : ready 2 <;> simp [List.find?, h0, h1, h2]
  · show ([2, 0, 1].find? ready = some 0 ↔ _) ∧ ([2, 0, 1].find? ready = some 1 ↔ _) ∧ ([2, 0, 1].find? ready = some 2 ↔ _)
    cases h0 : ready 0 <;> cases h1 : ready 1 <;> cases h2 : ready 2 <;> simp [List.find?, h0, h1, h2]
  · show ([0, 1, 2].find? ready = some 0 ↔ _) ∧ ([0, 1, 2].find? ready = some 1 ↔ _) ∧ ([0, 1, 2].find? ready = some 2 ↔ _)
    cases h0 : ready 0 <;> cases h1 : ready 1 <;> cases h2 : ready 2 <;> simp [List.find?, h0, h1, h2]

/-- R90: among the printers, the ready one that comes soonest after the one served last. -/
theorem nextTurn_printers {k p : Nat} (ready : Nat → Bool) (hk : k ≤ 63) : nextTurn 64 k ready = some p ↔
    p ≤ 63 ∧ ready p = true ∧ ∀ q ≤ 63, ready q = true → (p + 63 - k) % 64 ≤ (q + 63 - k) % 64 := by
  have found : nextTurn 64 k ready = some p ↔ ∃ i, (ready ((k + 1 + i) % 64) = true ∧ i ∈ List.range 64 ∧
      ∀ j < i, (!ready ((k + 1 + j) % 64)) = true) ∧ (k + 1 + i) % 64 = p := by
    unfold nextTurn
    rw [List.find?_map, Option.map_eq_some_iff]
    exact exists_congr fun i => and_congr List.find?_range_eq_some Iff.rfl
  rw [found]
  constructor
  · rintro ⟨i, ⟨now, inside, before⟩, rfl⟩
    have hi := List.mem_range.1 inside
    refine ⟨by omega, now, fun q hq ready' => ?_⟩
    by_contra sooner
    have earlier := before ((q + 63 - k) % 64) (by omega)
    rw [show (k + 1 + (q + 63 - k) % 64) % 64 = q by omega, ready'] at earlier
    exact Bool.false_ne_true earlier
  · rintro ⟨hp, now, first⟩
    have place : (k + 1 + (p + 63 - k) % 64) % 64 = p := by omega
    refine ⟨(p + 63 - k) % 64, ⟨by rw [place]; exact now, List.mem_range.2 (by omega), fun j hj => ?_⟩, place⟩
    by_contra ready'
    have later := first ((k + 1 + j) % 64) (by omega) (by simpa using ready')
    omega

/-! ### The O-port (R175, R180, R184, R185) -/

theorem State.officeTurn_iff (hk : s.oport.served ≤ 2) :
    (s.officeTurn 0 = true ↔ s.oport.own.length < 32 ∧ s.jobs.outgoing ≠ [] ∧ (s.oport.served = 2 ∨ (s.console.notices = [] ∧
      (s.oport.served = 1 ∨ s.console.reply = none)))) ∧
    (s.officeTurn 1 = true ↔ s.oport.own.length < 32 ∧ s.console.reply ≠ none ∧ (s.oport.served = 0 ∨ (s.jobs.outgoing = [] ∧
      (s.oport.served = 2 ∨ s.console.notices = [])))) ∧
    (s.officeTurn 2 = true ↔ s.oport.own.length < 32 ∧ s.console.notices ≠ [] ∧ (s.oport.served = 1 ∨ (s.console.reply = none ∧
      (s.oport.served = 0 ∨ s.jobs.outgoing = [])))) := by
  obtain ⟨zero, one, two⟩ := nextTurn_three s.officeReady hk
  have room : s.oport.room = true ↔ s.oport.own.length < 32 := decide_eq_true_iff
  have jobs : s.officeReady 0 = !s.jobs.outgoing.isEmpty := rfl
  have reply : s.officeReady 1 = s.console.reply.isSome := rfl
  have notices : s.officeReady 2 = !s.console.notices.isEmpty := rfl
  unfold State.officeTurn
  simp only [Bool.and_eq_true, beq_iff_eq, room, zero, one, two, jobs, reply, notices]
  simp [Option.isSome_iff_ne_none]

/-- A change of the port and of one other piece. -/
theorem State.placedOffice_changes {w : State} {l : List Piece} (h : ChangesOnly (l ++ [.officeOwn, .officeOther]) s w) :
    ChangesOnly (l ++ [Piece.officeOwn, .officeOther] ++ endOfStep) s w.finish :=
  (h.mono fun _ hx => List.mem_append_left _ hx).trans ((State.finish_changes w).mono fun _ hx => List.mem_append_right _ hx)

/-- R185: the Job Table's turn. -/
theorem jobOutgoing_placed (up : s.phase = .up) (hk : s.oport.served ≤ 2) :
    let turn : Prop := s.oport.own.length < 32 ∧ (s.oport.served = 2 ∨ (s.console.notices = [] ∧
      (s.oport.served = 1 ∨ s.console.reply = none)))
    (∀ m rest, s.jobs.outgoing = m :: rest → turn → ∃ t, exec .jobOutgoingPlace s = .next t ∧
      t.oport = { s.oport with own := s.oport.own ++ [m], served := 0 } ∧ t.jobs.outgoing = rest ∧
      ChangesOnly ([Piece.outgoing, .officeOwn, .officeOther] ++ endOfStep) s t) ∧
    (s.jobs.outgoing = [] ∨ ¬turn → ∃ t, exec .jobOutgoingPlace s = .next t ∧ ChangesOnly endOfStep s t) := by
  intro turn
  have iff := (State.officeTurn_iff hk).1
  refine ⟨fun m rest out now => ?_, fun idle => ⟨s.finish, ?_, State.finish_changes _⟩⟩
  · have mine : s.officeTurn 0 = true := iff.2 ⟨now.1, by simp [out], now.2⟩
    let w : State := { s with jobs := { s.jobs with outgoing := rest }, oport := s.oport.placeFrom 0 m }
    refine ⟨w.finish, ?_, State.finish_oport, ?_, ?_⟩
    · show execJobOutgoingPlace s = _
      rw [execJobOutgoingPlace, State.whenUp_up _ up, out]
      dsimp only
      rw [if_pos mine]
    · exact State.finish_changes w .outgoing (by decide)
    · refine State.placedOffice_changes (l := [.outgoing]) fun x hx => ?_
      cases x <;>
        first | exact rfl | exact ⟨rfl, rfl⟩ | exact ⟨rfl, rfl, rfl⟩ | exact ⟨rfl, rfl, rfl, rfl⟩ | exact absurd (by simp) hx
  · show execJobOutgoingPlace s = _
    rw [execJobOutgoingPlace, State.whenUp_up _ up]
    cases out : s.jobs.outgoing with
    | nil => rfl
    | cons m rest =>
      have other : ¬s.officeTurn 0 = true := fun mine => by
        obtain ⟨room, -, order⟩ := iff.1 mine
        exact idle.elim (by simp [out]) fun no => no ⟨room, order⟩
      dsimp only
      rw [if_neg other]

/-- R175: the turn of the reply that waits. -/
theorem mgmtReply_placed (up : s.phase = .up) (hk : s.oport.served ≤ 2) :
    let turn : Prop := s.oport.own.length < 32 ∧ (s.oport.served = 0 ∨ (s.jobs.outgoing = [] ∧
      (s.oport.served = 2 ∨ s.console.notices = [])))
    (∀ m, s.console.reply = some m → turn → ∃ t, exec .mgmtReplyPlace s = .next t ∧
      t.oport = { s.oport with own := s.oport.own ++ [m], served := 1 } ∧ t.console.reply = none ∧
      ChangesOnly ([Piece.reply, .officeOwn, .officeOther] ++ endOfStep) s t) ∧
    (s.console.reply = none ∨ ¬turn → ∃ t, exec .mgmtReplyPlace s = .next t ∧ ChangesOnly endOfStep s t) := by
  intro turn
  have iff := (State.officeTurn_iff hk).2.1
  refine ⟨fun m waits now => ?_, fun idle => ⟨s.finish, ?_, State.finish_changes _⟩⟩
  · have mine : s.officeTurn 1 = true := iff.2 ⟨now.1, by simp [waits], now.2⟩
    let w : State := { s with console := { s.console with reply := none }, oport := s.oport.placeFrom 1 m }
    refine ⟨w.finish, ?_, State.finish_oport, ?_, ?_⟩
    · show execMgmtReplyPlace s = _
      rw [execMgmtReplyPlace, State.whenUp_up _ up, waits]
      dsimp only
      rw [if_pos mine]
    · exact State.finish_changes w .reply (by decide)
    · refine State.placedOffice_changes (l := [.reply]) fun x hx => ?_
      cases x <;>
        first | exact rfl | exact ⟨rfl, rfl⟩ | exact ⟨rfl, rfl, rfl⟩ | exact ⟨rfl, rfl, rfl, rfl⟩ | exact absurd (by simp) hx
  · show execMgmtReplyPlace s = _
    rw [execMgmtReplyPlace, State.whenUp_up _ up]
    cases waits : s.console.reply with
    | none => rfl
    | some m =>
      have other : ¬s.officeTurn 1 = true := fun mine => by
        obtain ⟨room, -, order⟩ := iff.1 mine
        exact idle.elim (by simp [waits]) fun no => no ⟨room, order⟩
      dsimp only
      rw [if_neg other]

/-- R180: the turn of the notices. -/
theorem notice_placed (up : s.phase = .up) (hk : s.oport.served ≤ 2) :
    let turn : Prop := s.oport.own.length < 32 ∧ (s.oport.served = 1 ∨ (s.console.reply = none ∧
      (s.oport.served = 0 ∨ s.jobs.outgoing = [])))
    (∀ q rest, s.console.notices = q :: rest → turn → ∃ t, exec .noticeSend s = .next t ∧
      t.oport = { s.oport with served := 2, own := s.oport.own ++
        [{ etherType := q.etherType, src := q.src, dst := s.settings.noticeStation, jobTag := 0, reqTag := 0
           body := .notice q.notice }] } ∧
      t.console.notices = rest ∧ ChangesOnly ([Piece.notices, .officeOwn, .officeOther] ++ endOfStep) s t) ∧
    (s.console.notices = [] ∨ ¬turn → ∃ t, exec .noticeSend s = .next t ∧ ChangesOnly endOfStep s t) := by
  intro turn
  have iff := (State.officeTurn_iff hk).2.2
  refine ⟨fun q rest waits now => ?_, fun idle => ⟨s.finish, ?_, State.finish_changes _⟩⟩
  · have mine : s.officeTurn 2 = true := iff.2 ⟨now.1, by simp [waits], now.2⟩
    let w : State := { s with console := { s.console with notices := rest }, oport := s.oport.placeFrom 2 (s.addressed q) }
    refine ⟨w.finish, ?_, State.finish_oport, ?_, ?_⟩
    · show execNoticeSend s = _
      rw [execNoticeSend, State.whenUp_up _ up, waits]
      dsimp only
      rw [if_pos mine]
    · exact State.finish_changes w .notices (by decide)
    · refine State.placedOffice_changes (l := [.notices]) fun x hx => ?_
      cases x <;>
        first | exact rfl | exact ⟨rfl, rfl⟩ | exact ⟨rfl, rfl, rfl⟩ | exact ⟨rfl, rfl, rfl, rfl⟩ | exact absurd (by simp) hx
  · show execNoticeSend s = _
    rw [execNoticeSend, State.whenUp_up _ up]
    cases waits : s.console.notices with
    | nil => rfl
    | cons q rest =>
      have other : ¬s.officeTurn 2 = true := fun mine => by
        obtain ⟨room, -, order⟩ := iff.1 mine
        exact idle.elim (by simp [waits]) fun no => no ⟨room, order⟩
      dsimp only
      rw [if_neg other]

/-! ### The F-port (R64, R90, R184) -/

theorem State.fleetReady_one (s : State) : s.fleetReady 1 = s.printerTurn.isSome := rfl

/-- R64: the turn of the answer that waits. -/
theorem releaseAnswer_placed (up : s.phase = .up) (hk : s.fport.served ≤ 1) :
    let turn : Prop := s.fport.own.length < 32 ∧ (s.fport.served = 1 ∨ s.printerTurn = none)
    (∀ m, s.answer = some m → turn → ∃ t, exec .releaseAnswerPlace s = .next t ∧
      t.fport = { s.fport with own := s.fport.own ++ [m], served := 0 } ∧ t.answer = none ∧
      ChangesOnly ([Piece.answer, .fleetOwn, .fleetOther] ++ endOfStep) s t) ∧
    (s.answer = none ∨ ¬turn → ∃ t, exec .releaseAnswerPlace s = .next t ∧ ChangesOnly endOfStep s t) := by
  intro turn
  have iff : (s.fport.room && nextTurn 2 s.fport.served s.fleetReady == some 0) = true ↔ s.answer ≠ none ∧ turn := by
    have room : s.fport.room = true ↔ s.fport.own.length < 32 := decide_eq_true_iff
    have answer : s.fleetReady 0 = s.answer.isSome := rfl
    rw [Bool.and_eq_true, beq_iff_eq, (nextTurn_two s.fleetReady hk).1, room, answer, State.fleetReady_one,
      Option.isSome_iff_ne_none, Option.isSome_eq_false_iff, Option.isNone_iff_eq_none]
    exact and_left_comm
  refine ⟨fun m waits now => ?_, fun idle => ⟨s.finish, ?_, State.finish_changes _⟩⟩
  · let w : State := { s with answer := none, fport := s.fport.placeFrom 0 m }
    refine ⟨w.finish, ?_, State.finish_fport, State.finish_changes w .answer (by decide), ?_⟩
    · show execReleaseAnswerPlace s = _
      rw [execReleaseAnswerPlace, State.whenUp_up _ up, waits]
      dsimp only
      rw [if_pos (iff.2 ⟨by simp [waits], now⟩)]
    · refine ChangesOnly.trans (t := w) (fun x hx => ?_) ((State.finish_changes w).mono (by decide))
      cases x <;> first | exact rfl | exact ⟨rfl, rfl⟩ | exact ⟨rfl, rfl, rfl⟩ | exact absurd (by decide) hx
  · show execReleaseAnswerPlace s = _
    rw [execReleaseAnswerPlace, State.whenUp_up _ up]
    cases waits : s.answer with
    | none => rfl
    | some m =>
      dsimp only
      rw [if_neg fun mine => idle.elim (by simp [waits]) fun no => no (iff.1 mine).2]

/-- R90, R184: the turn of a printer's stream message. -/
theorem State.streamTurn_iff (hk : s.fport.served ≤ 1) (p : Nat) : s.streamTurn p = true ↔
    s.fport.own.length < 32 ∧ (s.fport.served = 0 ∨ s.answer = none) ∧ s.printerTurn = some p := by
  have room : s.fport.room = true ↔ s.fport.own.length < 32 := decide_eq_true_iff
  have answer : s.fleetReady 0 = s.answer.isSome := rfl
  unfold State.streamTurn
  rw [Bool.and_eq_true, Bool.and_eq_true, beq_iff_eq, beq_iff_eq, (nextTurn_two s.fleetReady hk).2, room, answer,
    State.fleetReady_one, Option.isSome_eq_false_iff, Option.isNone_iff_eq_none, and_assoc]
  refine and_congr_right fun _ => ⟨fun ⟨⟨_, order⟩, turn⟩ => ⟨order, turn⟩, fun ⟨order, turn⟩ => ⟨⟨?_, order⟩, turn⟩⟩
  rw [turn]
  rfl

section Ready
variable (s) (p : Nat)

/-- R90: a chunk may be formed for the Printing job. -/
theorem State.chunkJob_iff (j : Job) : s.chunkJob p = some j ↔ (s.printer p).control = [] ∧
    (s.printer p).standing = Standing.none ∧ s.firstIn p .printing = some j ∧ j.sent < j.allowed ∧
      j.sent < ceilDiv j.received 1024 := by
  unfold State.chunkJob
  split
  next open_ =>
    rw [Bool.and_eq_true, List.isEmpty_iff, Standing.isEmpty_iff] at open_
    rw [Option.filter_eq_some_iff, decide_eq_true_eq]
    exact ⟨fun ⟨first, counts⟩ => ⟨open_.1, open_.2, first, counts⟩, fun ⟨_, _, first, counts⟩ => ⟨first, counts⟩⟩
  next shut =>
    rw [Bool.and_eq_true, List.isEmpty_iff, Standing.isEmpty_iff] at shut
    exact ⟨nofun, fun ⟨control, standing, _⟩ => absurd ⟨control, standing⟩ shut⟩

/-- R92: STREAM_END may be formed for the Printing job. -/
theorem State.endingJob_iff (j : Job) : s.endingJob p = some j ↔ (s.printer p).control = [] ∧
    s.firstIn p .printing = some j ∧ ceilDiv j.received 1024 ≤ j.sent := by
  unfold State.endingJob
  split
  next open_ =>
    rw [List.isEmpty_iff] at open_
    rw [Option.filter_eq_some_iff, decide_eq_true_eq]
    exact ⟨fun ⟨first, sent⟩ => ⟨open_, first, sent⟩, fun ⟨_, first, sent⟩ => ⟨first, sent⟩⟩
  next shut =>
    rw [List.isEmpty_iff] at shut
    exact ⟨nofun, fun ⟨control, _⟩ => absurd control shut⟩

theorem State.streamReady_iff : s.streamReady p = true ↔ (s.printer p).control ≠ [] ∨
    ∃ j, s.chunkJob p = some j ∨ s.endingJob p = some j := by
  unfold State.streamReady
  rw [Bool.or_eq_true, Bool.or_eq_true, Option.isSome_iff_exists, Option.isSome_iff_exists, exists_or, or_assoc,
    or_comm (a := ∃ a, s.endingJob p = some a)]
  simp

end Ready

/-- R90, R92, R93: STREAM_DATA and STREAM_END of a printer that has none of theirs. -/
theorem streamData_idle {p : Nat} (up : s.phase = .up) (idle : s.streamTurn p = false ∨ s.chunkJob p = none) :
    exec (.streamData p) s = .next s.finish := by
  have nothing : s.whenUp id = .next s.finish := State.whenUp_up _ up
  show execStreamData p s = _
  unfold execStreamData
  split
  next now =>
    have turn : s.streamTurn p = true := (Bool.and_eq_true _ _ ▸ now).2
    rw [idle.resolve_left (by simp [turn])]
    exact nothing
  next => exact nothing

theorem streamEnd_idle {p : Nat} (up : s.phase = .up) (idle : s.streamTurn p = false ∨ s.endingJob p = none) :
    exec (.streamEnd p) s = .next s.finish := by
  show execStreamEnd p s = _
  rw [execStreamEnd, State.whenUp_up _ up]
  split
  next turn => rw [idle.resolve_left (by simp [turn])]
  next => rfl

theorem streamControl_idle {p : Nat} (up : s.phase = .up) (idle : s.streamTurn p = false ∨ (s.printer p).control = []) :
    exec (.streamControlPlace p) s = .next s.finish := by
  show execStreamControlPlace p s = _
  rw [execStreamControlPlace, State.whenUp_up _ up]
  split
  next turn =>
    have empty := idle.resolve_left (by simp [turn])
    unfold State.placeControl
    rw [empty]
  next => rfl

/-- Settles O57: each producer's turn, and the printer whose turn it is. -/
theorem producersPlace : Obligations.ProducersPlace := by
  intro s up office fleet last
  refine ⟨jobOutgoing_placed up office, mgmtReply_placed up office, notice_placed up office, releaseAnswer_placed up fleet,
    State.streamTurn_iff fleet, fun p => nextTurn_printers s.streamReady last,
    fun p idle => ⟨_, streamControl_idle up idle, State.finish_changes s⟩, fun p idle c hc => ?_, fun p => ?_⟩
  · simp only [List.mem_cons, List.not_mem_nil, or_false] at hc
    rcases hc with rfl | rfl
    · exact ⟨_, streamData_idle up (.inl idle), State.finish_changes s⟩
    · exact ⟨_, streamEnd_idle up (.inl idle), State.finish_changes s⟩
  · intro chunk ends
    refine ⟨?_, fun none => ⟨_, streamData_idle up (.inr ?_), State.finish_changes s⟩,
      fun none => ⟨_, streamEnd_idle up (.inr ?_), State.finish_changes s⟩⟩
    · rw [State.streamReady_iff]
      exact or_congr Iff.rfl (exists_congr fun j => or_congr (s.chunkJob_iff p j) (s.endingJob_iff p j))
    · exact Option.eq_none_iff_forall_ne_some.2 fun j found => none j ((s.chunkJob_iff p j).1 found)
    · exact Option.eq_none_iff_forall_ne_some.2 fun j found => none j ((s.endingJob_iff p j).1 found)

end Sys2Proof.Machine

/-! PROOFS. The bytes of the messages the part sends (R182, R184, R186). -/

namespace Sys2Proof.Machine

set_option Elab.async false

variable {s t u v : State}

/-! ### Numbers (R186) -/

@[simp] theorem length_bytesOf (n v : Nat) : (bytesOf n v).length = n := by
  induction n with
  | zero => rfl
  | succ n ih => rw [bytesOf, List.length_cons, ih]

theorem foldl_bytes (l : List Byte) (n : Nat) :
    l.foldl (fun n b => n * 256 + b.toNat) n = n * 256 ^ l.length + valueOf l := by
  unfold valueOf
  induction l generalizing n with
  | nil => simp
  | cons b l ih =>
    rw [List.foldl_cons, List.foldl_cons, ih, ih (0 * 256 + b.toNat), List.length_cons, pow_succ]
    ring_nf

theorem valueOf_cons (b : Byte) (l : List Byte) : valueOf (b :: l) = b.toNat * 256 ^ l.length + valueOf l := by
  rw [valueOf, List.foldl_cons, foldl_bytes, Nat.zero_mul, Nat.zero_add]

/-- R186: numbers go most significant byte first. -/
theorem valueOf_bytesOf (n v : Nat) : valueOf (bytesOf n v) = v % 256 ^ n := by
  induction n with
  | zero => rw [pow_zero, Nat.mod_one]; rfl
  | succ n ih =>
    have split : v % 256 ^ (n + 1) = v % 256 ^ n + 256 ^ n * (v / 256 ^ n % 256) := by rw [pow_succ, Nat.mod_mul]
    rw [split, bytesOf, valueOf_cons, length_bytesOf, ih, BitVec.toNat_ofNat]
    exact (Nat.add_comm _ _).trans (congrArg _ (Nat.mul_comm _ _))

/-! ### Codes (R186) -/

/-- The result codes in order. -/
def resultCodes : List Result :=
  [.ok, .busy, .notAccepted, .unknownAccount, .accountBlocked, .holdLimit, .spoolLow, .tooLarge, .emptyJob, .outOfOrder,
    .noSuchJob, .tooLate, .authFailed, .waking, .notPermitted, .badIndex, .entryLocked, .unknownRequest, .badLength]

theorem resultCodes_code (r : Result) : resultCodes[r.code]? = some r := by cases r <;> rfl

theorem JobEvent.code_spec (e : JobEvent) : [JobEvent.held, .released, .printing, .ended][e.code]? = some e := by cases e <;> rfl

theorem EndReason.code_spec (r : EndReason) :
    [EndReason.printed, .printerCancelled, .userCancelled, .expired, .purged, .abandoned, .refused][r.code]? = some r := by
  cases r <;> rfl

theorem Fate.code_spec (f : Fate) :
    [Fate.released, .skippedQuota, .skippedCapability, .skippedQueue, .deleted][f.code]? = some f := by cases f <;> rfl

theorem flagsValue_three {α β γ : Type} [DecidableEq α] [DecidableEq β] [DecidableEq γ] (p : Option α) (w : Option β)
    (c : Option γ) :
    flagsValue [p.isSome, w.isSome, c.isSome] =
      (if p = none then 0 else 1) + (if w = none then 0 else 2) + (if c = none then 0 else 4) := by
  cases p <;> cases w <;> cases c <;> rfl

/-! ### Answers and notices (R63, R186) -/

theorem AnswerEntry.length_bytes (e : AnswerEntry) : (AnswerEntry.bytes e).length = 12 + (e.name.getD []).length := by
  unfold AnswerEntry.bytes flagByte textBytes
  simp only [List.length_append, length_bytesOf]
  omega

/-- R186: a list that has room in its count. -/
theorem listBytes_short {α : Type} (ns : List Nat) (f : α → List Byte) {l : List α} (h : l.length ≤ 255) :
    listBytes ns f l = bytesOf 1 l.length ++ (l.map f).flatten := by
  unfold listBytes
  rw [if_pos h, List.flatMap_def]

theorem answers_short {es : List AnswerEntry} (names : ∀ e ∈ es, (e.name.getD []).length ≤ 40) :
    (es.map AnswerEntry.bytes).flatten.length ≤ 52 * es.length := by
  induction es with
  | nil => exact le_refl _
  | cons e es ih =>
    have first := names e (List.mem_cons_self ..)
    have rest := ih fun x hx => names x (List.mem_cons_of_mem _ hx)
    rw [List.map_cons, List.flatten_cons, List.length_append, AnswerEntry.length_bytes, List.length_cons]
    omega

theorem CalloutCause.length_bytes (c : CalloutCause) : (CalloutCause.bytes c).length = 2 := by cases c <;> rfl

theorem CalloutDetail.length_bytes (d : CalloutDetail) :
    (CalloutDetail.bytes d).1.length = 1 ∧ (CalloutDetail.bytes d).2.length ≤ 1 := by
  cases d <;> exact ⟨rfl, by simp [CalloutDetail.bytes]⟩

theorem ReorderDetail.length_bytes (d : ReorderDetail) :
    (ReorderDetail.bytes d).1.length = 1 ∧ (ReorderDetail.bytes d).2.length ≤ 1 := by
  cases d <;> exact ⟨rfl, by simp [ReorderDetail.bytes]⟩

theorem length_optNumber (n : Nat) (o : Option Nat) : (optNumber n o).length = 1 + n := by
  unfold optNumber optBytes
  cases o <;> simp

theorem length_budgetBytes (b : Budget) : (budgetBytes b).length = 4 := by cases b <;> rfl

theorem Notice.length_subject (n : Notice) : (Notice.subject n).length = 4 := by cases n <;> rfl

/-- R179, R186: the detail of a notice is short. -/
theorem Notice.length_detail (n : Notice) : (Notice.detail n).length ≤ 32 := by
  cases n with
  | callout i r d =>
    obtain ⟨word, reason⟩ := CalloutDetail.length_bytes d
    unfold Notice.detail flagByte
    simp only [List.length_append, length_bytesOf, word, CalloutCause.length_bytes]
    omega
  | reorder i r current d =>
    obtain ⟨word, reason⟩ := ReorderDetail.length_bytes d
    unfold Notice.detail flagByte
    simp only [List.length_append, length_bytesOf, word, length_optNumber]
    omega
  | accountOverdrawn k spent budget =>
    unfold Notice.detail
    simp [length_budgetBytes]
  | _ => unfold Notice.detail; simp

theorem noticeBody_length (n : Notice) :
    6 ≤ (MsgBody.bytes (.notice n)).length ∧ (MsgBody.bytes (.notice n)).length ≤ 38 := by
  have short := n.length_detail
  have bytes : (MsgBody.bytes (.notice n)).length = 6 + (Notice.detail n).length := by
    unfold MsgBody.bytes textBytes
    simp only [List.length_append, length_bytesOf, Notice.length_subject]
    omega
  omega

/-- Settles O59: the header by definition, and the body of each kind by its fields. -/
theorem wireFormat : Obligations.WireFormat := by
  refine ⟨fun n v => ⟨length_bytesOf n v, valueOf_bytesOf n v⟩, fun m =>
    ⟨m.body.kind, m.body.bytes, rfl, ?_, ?_, ?_, ?_, ?_, ?_, ?_, ?_, ?_⟩⟩
  · intro r n body
    rw [body]
    exact ⟨rfl, r.code, rfl, resultCodes_code r⟩
  · intro e p why charged body
    rw [body]
    refine ⟨rfl, e.code, (why.map EndReason.code).getD 0, e.code_spec, fun none => by rw [none]; rfl, fun r some => ?_, ?_⟩
    · rw [some]
      exact r.code_spec
    · rw [← flagsValue_three]
      rfl
  · intro r t es body
    rw [body]
    have bytes (few : es.length ≤ 16) : MsgBody.bytes (.releaseAnswer r t es) =
        bytesOf 1 r.code ++ bytesOf 1 (t.getD 255) ++ bytesOf 1 es.length ++ (es.map AnswerEntry.bytes).flatten := by
      have count := listBytes_short (es.map AnswerEntry.tag) AnswerEntry.bytes (l := es) (by omega)
      rw [List.append_assoc, ← count]
      rfl
    refine ⟨rfl, fun few names => ?_, fun few => ⟨r.code, es.map AnswerEntry.bytes, resultCodes_code r, bytes few,
      List.length_map _, fun i e entry => ⟨e.fate.code, e.fate.code_spec, ?_⟩⟩⟩
    · have entries := answers_short names
      rw [bytes few]
      simp only [List.length_append, length_bytesOf]
      omega
    · rw [List.getElem?_map, entry, Option.map_some]
      unfold AnswerEntry.bytes flagByte textBytes
      rw [← List.append_assoc]
  · intro n x b body
    rw [body]
    exact ⟨rfl, by cases x <;> rfl⟩
  · intro k d body
    rw [body]
    exact ⟨rfl, rfl⟩
  · intro n body
    rw [body]
    exact ⟨rfl, rfl⟩
  · intro body
    rw [body]
    exact ⟨rfl, rfl⟩
  · intro r b body
    rw [body]
    exact ⟨rfl, r.code, b.bytes, rfl, resultCodes_code r⟩
  · intro n body
    rw [body]
    exact ⟨rfl, noticeBody_length n⟩

end Sys2Proof.Machine

/-! PROOFS. The ports (R181, R182, R184): frames that pass through, frames that are discarded, and the arbiter. -/

namespace Sys2Proof.Machine

set_option Elab.async false

variable {s t u v : State}

theorem finish_of_ports {l : List Piece} {w : State} (h : ChangesOnly l s w) : ChangesOnly (l ++ endOfStep) s w.finish :=
  (h.mono fun _ hx => List.mem_append_left _ hx).trans ((State.finish_changes w).mono fun _ hx => List.mem_append_right _ hx)

/-- R184: a change of the Pass-through Queue of a port keeps its Own-frame Queue. -/
theorem PortState.pass1_own (q : PortState) (f : EthFrame) : (q.pass1 f).own = q.own := by
  unfold PortState.pass1
  split <;> rfl

/-- R181, R184: a frame that passes through. -/
theorem passThrough_done (up : s.phase = .up) (port : Port) (f : EthFrame) : ∃ t, exec (.passThroughFrame port f) s = .next t ∧
    let passed (q : PortState) : PortState :=
      if (q.pass.map (fun x => x.bytes.length)).sum + f.bytes.length ≤ 65536 then { q with pass := q.pass ++ [f] } else q
    (port = .office → t.fport = passed s.fport ∧ ChangesOnly ([Piece.fleetOther] ++ endOfStep) s t) ∧
    (port = .fleet → t.oport = passed s.oport ∧ ChangesOnly ([Piece.officeOther] ++ endOfStep) s t) := by
  cases port with
  | office =>
    let w : State := { s with fport := s.fport.pass1 f }
    refine ⟨w.finish, ?_, fun _ => ⟨State.finish_fport, finish_of_ports fun x hx => ?_⟩, nofun⟩
    · show execPassThroughFrame .office f s = _
      rw [execPassThroughFrame, State.whenUp_up _ up]
    · cases x <;>
        first
        | exact rfl | exact ⟨rfl, rfl⟩ | exact ⟨rfl, rfl, rfl⟩ | exact ⟨rfl, rfl, rfl, rfl⟩
        | exact PortState.pass1_own _ _ | exact absurd (by simp) hx
  | fleet =>
    let w : State := { s with oport := s.oport.pass1 f }
    refine ⟨w.finish, ?_, nofun, fun _ => ⟨State.finish_oport, finish_of_ports fun x hx => ?_⟩⟩
    · show execPassThroughFrame .fleet f s = _
      rw [execPassThroughFrame, State.whenUp_up _ up]
    · cases x <;>
        first
        | exact rfl | exact ⟨rfl, rfl⟩ | exact ⟨rfl, rfl, rfl⟩ | exact ⟨rfl, rfl, rfl, rfl⟩
        | exact PortState.pass1_own _ _ | exact absurd (by simp) hx

/-! ### Discarded frames (R181, R182) -/

theorem isPrinterKind_iff (k : Nat) :
    isPrinterKind k = true ↔ k = 0x20 ∨ k = 0x38 ∨ k = 0x39 ∨ k = 0x3A ∨ k = 0x3B := by
  simp [isPrinterKind, or_assoc]

theorem byte_eq_iff (a : Byte) (n : Nat) (h : n < 256) : a.toNat = n ↔ a = BitVec.ofNat 8 n := by
  rw [← BitVec.toNat_inj, BitVec.toNat_ofNat, Nat.mod_eq_of_lt h]

/-- R182: a discarded frame that is a stray printer message. -/
theorem State.isStray_iff (s : State) (port : Port) (payload : List Byte) : s.isStray port payload = true ↔
    14 ≤ payload.length ∧ payload[0]? = some 1 ∧
      (∃ k, payload[1]? = some k ∧ (k = 0x20 ∨ k = 0x38 ∨ k = 0x39 ∨ k = 0x3A ∨ k = 0x3B)) ∧
      (port = .office ∨ ∃ a b c, payload[2]? = some a ∧ payload[3]? = some b ∧ payload[4]? = some c ∧
        s.printerOf (a.toNat * 65536 + b.toNat * 256 + c.toNat) = none) := by
  have header (h : 14 ≤ payload.length) : ∃ a0 a1 a2 a3 a4 rest, payload = a0 :: a1 :: a2 :: a3 :: a4 :: rest := by
    match payload, h with
    | a0 :: a1 :: a2 :: a3 :: a4 :: rest, _ => exact ⟨a0, a1, a2, a3, a4, rest, rfl⟩
  unfold State.isStray
  rw [Bool.and_eq_true, Bool.and_eq_true, Bool.and_eq_true, decide_eq_true_eq, and_assoc, and_assoc]
  refine and_congr_right fun long => ?_
  obtain ⟨a0, a1, a2, a3, a4, rest, rfl⟩ := header long
  have version : (valueOf (List.take 1 (a0 :: a1 :: a2 :: a3 :: a4 :: rest)) == Config.version) = true ↔ a0 = 1 := by
    rw [beq_iff_eq]
    show 0 * 256 + a0.toNat = 1 ↔ _
    rw [Nat.zero_mul, Nat.zero_add]
    exact byte_eq_iff a0 1 (by decide)
  have kind : isPrinterKind (valueOf (List.take 1 (List.drop 1 (a0 :: a1 :: a2 :: a3 :: a4 :: rest)))) = true ↔
      a1 = 0x20 ∨ a1 = 0x38 ∨ a1 = 0x39 ∨ a1 = 0x3A ∨ a1 = 0x3B := by
    show isPrinterKind (0 * 256 + a1.toNat) = true ↔ _
    rw [Nat.zero_mul, Nat.zero_add, isPrinterKind_iff]
    exact or_congr (byte_eq_iff a1 _ (by decide)) (or_congr (byte_eq_iff a1 _ (by decide)) (or_congr
      (byte_eq_iff a1 _ (by decide)) (or_congr (byte_eq_iff a1 _ (by decide)) (byte_eq_iff a1 _ (by decide)))))
  have station : valueOf (List.take 3 (List.drop 2 (a0 :: a1 :: a2 :: a3 :: a4 :: rest))) =
      a2.toNat * 65536 + a3.toNat * 256 + a4.toNat := by
    show ((0 * 256 + a2.toNat) * 256 + a3.toNat) * 256 + a4.toNat = _
    ring
  rw [version, kind, station, Bool.or_eq_true, beq_iff_eq, Option.isNone_iff_eq_none]
  simp

/-- R182: a frame that is discarded. -/
theorem fptDiscard_done (up : s.phase = .up) (port : Port) (payload : List Byte) :
    exec (.fptDiscard port payload) s = .next (if s.isStray port payload then s.stray else s).finish := by
  show execFptDiscard port payload s = _
  rw [execFptDiscard, State.whenUp_up _ up]

theorem State.stray_changes (s : State) : ChangesOnly [.sticky] s s.stray := by
  intro x hx
  cases x <;>
    first
    | exact rfl | exact ⟨rfl, rfl⟩ | exact ⟨rfl, rfl, rfl⟩ | exact ⟨rfl, rfl, rfl, rfl⟩ | exact absurd (by simp) hx

/-! ### The arbiter (R184) -/

/-- R184: what a port sends: the queue that was not served last goes first. -/
theorem PortState.transmit_spec (q : PortState) :
    (q.pass = [] → q.own = [] → q.transmit = q) ∧
    (∀ f fs, q.pass = f :: fs → q.own = [] ∨ q.lastOwn = true →
      q.transmit = { q with pass := fs, lastOwn := false, wire := some (.passed f) }) ∧
    (∀ m ms, q.own = m :: ms → q.pass = [] ∨ q.lastOwn = false →
      q.transmit = { q with own := ms, lastOwn := true, wire := some (.own m m.bytes) }) := by
  unfold PortState.transmit
  refine ⟨fun pass own => by rw [pass, own], fun f fs pass first => ?_, fun m ms own first => ?_⟩
  · rw [pass]
    cases own : q.own with
    | nil => rfl
    | cons m ms =>
      rw [own] at first
      exact if_pos (first.resolve_left nofun)
  · rw [own]
    cases pass : q.pass with
    | nil => rfl
    | cons f fs =>
      rw [pass] at first
      exact if_neg (by rw [first.resolve_left nofun]; decide)

theorem frameTransmit_done (up : s.phase = .up) (port : Port) : ∃ t, exec (.frameTransmit port) s = .next t ∧
    (port = .office → t.oport = s.oport.transmit ∧ ChangesOnly ([Piece.officeOwn, .officeOther] ++ endOfStep) s t) ∧
    (port = .fleet → t.fport = s.fport.transmit ∧ ChangesOnly ([Piece.fleetOwn, .fleetOther] ++ endOfStep) s t) := by
  cases port with
  | office =>
    let w : State := { s with oport := s.oport.transmit }
    refine ⟨w.finish, ?_, fun _ => ⟨State.finish_oport, finish_of_ports fun x hx => ?_⟩, nofun⟩
    · show execFrameTransmit .office s = _
      rw [execFrameTransmit, State.whenUp_up _ up]
    · cases x <;>
        first
        | exact rfl | exact ⟨rfl, rfl⟩ | exact ⟨rfl, rfl, rfl⟩ | exact ⟨rfl, rfl, rfl, rfl⟩ | exact absurd (by simp) hx
  | fleet =>
    let w : State := { s with fport := s.fport.transmit }
    refine ⟨w.finish, ?_, nofun, fun _ => ⟨State.finish_fport, finish_of_ports fun x hx => ?_⟩⟩
    · show execFrameTransmit .fleet s = _
      rw [execFrameTransmit, State.whenUp_up _ up]
    · cases x <;>
        first
        | exact rfl | exact ⟨rfl, rfl⟩ | exact ⟨rfl, rfl, rfl⟩ | exact ⟨rfl, rfl, rfl, rfl⟩ | exact absurd (by simp) hx

/-- Settles O58: each port's frames, received, discarded and sent. -/
theorem portFrames : Obligations.PortFrames := by
  refine fun s up => ⟨passThrough_done up, fun port f other => ?_, fun port payload => ?_, fun port => ?_⟩
  · unfold State.receive frameCommand
    rw [if_pos other]
  · intro stray
    have iff : s.isStray port payload = true ↔ stray := s.isStray_iff port payload
    refine ⟨_, fptDiscard_done up port payload, fun known => ?_, fun strays => ?_⟩
    · rw [if_neg (iff.not.2 known)]
      exact State.finish_changes s
    · rw [if_pos (iff.2 strays)]
      exact ⟨State.finish_console, finish_of_ports s.stray_changes⟩
  · obtain ⟨t, e, office, fleet⟩ := frameTransmit_done up port
    refine ⟨t, e, fun isOffice => ⟨?_, (office isOffice).2⟩, fun isFleet => ⟨?_, (fleet isFleet).2⟩⟩
    · rw [(office isOffice).1]
      exact s.oport.transmit_spec
    · rw [(fleet isFleet).1]
      exact s.fport.transmit_spec

end Sys2Proof.Machine

/-! PROOFS. Power (R24, R45, R60, R132, R151, R163, R169 to R171): its loss, the cold start from the slots, and the start-up. -/

namespace Sys2Proof.Machine

set_option Elab.async false

variable {s t u v : State}

/-! ### The loss of power (R24, R167) -/

theorem Store.torn_idle {st : Store} (h : st.underWay = none) : st.torn = st := by unfold Store.torn; rw [h]

theorem Store.torn_underWay {st : Store} {n : Nat} {img : Image} (h : st.underWay = some (n, img)) :
    st.torn = st.setSlot n none := by unfold Store.torn; rw [h]

/-- R167: the slot under program is left failed, and the others are kept. -/
theorem Store.torn_slot (st : Store) :
    (∀ n, (∀ img, st.underWay ≠ some (n, img)) → st.torn.slot n = st.slot n) ∧
    (∀ n img, st.underWay = some (n, img) → st.torn.slot n = none) := by
  refine ⟨fun n other => ?_, fun n img way => ?_⟩
  · cases way : st.underWay with
    | none => rw [Store.torn_idle way]
    | some w =>
      rw [Store.torn_underWay (n := w.1) (img := w.2) way, Store.slot_setSlot, if_neg]
      rintro rfl
      exact other w.2 way
  · rw [Store.torn_underWay way, Store.slot_setSlot, if_pos rfl]

/-- R167: which slots a loss of power leaves depends on the slots and on the slot under program alone. -/
theorem Store.torn_slots_congr {st st' : Store} (slots : st'.slots = st.slots)
    (way : st'.underWay.map Prod.fst = st.underWay.map Prod.fst) : st'.torn.slots = st.torn.slots := by
  cases h : st.underWay with
  | none =>
    rw [h] at way
    rw [Store.torn_idle h, Store.torn_idle (Option.map_eq_none_iff.1 way), slots]
  | some w =>
    rw [h] at way
    obtain ⟨w', h', same⟩ := Option.map_eq_some_iff.1 way
    rw [Store.torn_underWay (n := w.1) (img := w.2) h, Store.torn_underWay (n := w.1) (img := w'.2) (by rw [h', ← same])]
    exact congrArg (Tbl.put (some (factoryImage w.1)) · w.1 none) slots

theorem powerLoss_done (s : State) :
    (s.phase = .off → exec .powerLoss s = .next s) ∧
    (s.phase ≠ .off → ∃ t, exec .powerLoss s = .next t ∧ t.phase = .off ∧ t.pending = s.pending ∧
      t.freeCount = s.freeCount ∧
      (∀ n, (∀ img, s.store.underWay ≠ some (n, img)) → t.store.slot n = s.store.slot n) ∧
      (∀ n img, s.store.underWay = some (n, img) → t.store.slot n = none)) ∧
    (∀ s' : State, s.phase ≠ .off → s'.phase ≠ .off → s'.store.slots = s.store.slots →
      s'.store.underWay.map Prod.fst = s.store.underWay.map Prod.fst → s'.freeCount = s.freeCount →
      s'.pending = s.pending → exec .powerLoss s' = exec .powerLoss s) := by
  have e (s : State) : exec .powerLoss s = .next (if s.phase = .off then s else s.unpowered) := rfl
  refine ⟨fun off => by rw [e, if_pos off], fun on => ?_, fun s' on on' slots way free waiting => ?_⟩
  · exact ⟨s.unpowered, by rw [e, if_neg on], rfl, rfl, rfl, s.store.torn_slot⟩
  · rw [e, e, if_neg on, if_neg on', State.unpowered, State.unpowered, State.bare, State.bare,
      Store.torn_slots_congr slots way, free, waiting]

/-! ### Tables that are read from the slots -/

section

variable {α : Type} [DecidableEq α] {d : α}

theorem Tbl.get_foldl_put (f : Nat → α) (is : List Nat) (i : Nat) : ∀ t : Tbl α,
    Tbl.get d (is.foldl (fun t j => t.put d j (f j)) t) i = if i ∈ is then f i else Tbl.get d t i := by
  induction is with
  | nil => exact fun t => (if_neg (List.not_mem_nil)).symm
  | cons j is ih =>
    intro t
    rw [List.foldl_cons, ih, Tbl.get_put]
    by_cases later : i ∈ is
    · rw [if_pos later, if_pos (List.mem_cons_of_mem _ later)]
    · rw [if_neg later]
      by_cases here : i = j
      · rw [if_pos here, if_pos (List.mem_cons.2 (.inl here)), here]
      · rw [if_neg here, if_neg (by simp [here, later])]

/-- A record of a table that is built is the one given, if those that are not listed are the factory one. -/
theorem Tbl.get_build {f : Nat → α} {is : List Nat} {i : Nat} (h : i ∉ is → f i = d) :
    Tbl.get d (Tbl.build d f is) i = f i := by
  rw [Tbl.build, Tbl.get_foldl_put]
  split
  next => rfl
  next out => exact (h out).symm

theorem Tbl.rising_of_wf {t : Tbl α} (h : Tbl.wf d t = true) : (t.map Prod.fst).Pairwise (· < ·) := (Tbl.wf_iff.1 h).1

omit [DecidableEq α] in
/-- A record that is not the factory one is listed. -/
theorem Tbl.mem_of_get {t : Tbl α} {i : Nat} (h : Tbl.get d t i ≠ d) : (i, Tbl.get d t i) ∈ t := by
  induction t with
  | nil => exact absurd rfl h
  | cons e t ih =>
    by_cases here : e.1 = i
    · rw [show Tbl.get d (e :: t) i = e.2 from if_pos here, ← here]
      exact List.mem_cons_self ..
    · rw [show Tbl.get d (e :: t) i = Tbl.get d t i from if_neg here] at h ⊢
      exact List.mem_cons_of_mem _ (ih h)

theorem Tbl.get_mapIdx {f : Nat → α → α} {t : Tbl α} (hd : ∀ i, f i d = d) (hs : (t.map Prod.fst).Nodup) (i : Nat) :
    Tbl.get d (Tbl.mapIdx d f t) i = f i (Tbl.get d t i) := by
  induction t with
  | nil => exact (hd i).symm
  | cons e t ih =>
    obtain ⟨fresh, hs⟩ := List.nodup_cons.1 hs
    have ih := ih hs
    unfold Tbl.mapIdx at ih ⊢
    rw [List.map_cons, List.filter_cons]
    by_cases here : e.1 = i
    · have rest : Tbl.get d (((t.map fun e => (e.1, f e.1 e.2))).filter fun e => decide (e.2 ≠ d)) i = d := by
        refine Tbl.get_of_not_listed fun x hx same => fresh ?_
        obtain ⟨y, hy, rfl⟩ := List.mem_map.1 (List.mem_of_mem_filter hx)
        exact List.mem_map.2 ⟨y, hy, same.trans here.symm⟩
      rw [show Tbl.get d (e :: t) i = e.2 from if_pos here]
      split
      · rw [show Tbl.get d ((e.1, f e.1 e.2) :: _) i = f e.1 e.2 from if_pos here, here]
      next gone => rw [rest, ← here]; exact (not_not.1 fun ne => gone (decide_eq_true ne)).symm
    · rw [show Tbl.get d (e :: t) i = Tbl.get d t i from if_neg here]
      split
      · rw [show Tbl.get d ((e.1, f e.1 e.2) :: _) i = _ from if_neg here, ih]
      · exact ih

/-- The records that a change moves. -/
theorem Tbl.mem_moved {f : Nat → α → α} {t : Tbl α} (hd : ∀ i, f i d = d) (hs : (t.map Prod.fst).Nodup) (i : Nat) :
    i ∈ Tbl.moved f t ↔ f i (Tbl.get d t i) ≠ Tbl.get d t i := by
  simp only [Tbl.moved, List.mem_map, List.mem_filter, decide_eq_true_eq]
  constructor
  · rintro ⟨⟨j, v⟩, ⟨mem, moved⟩, rfl⟩
    rwa [Tbl.get_of_mem hs mem]
  · intro moved
    have mem := Tbl.mem_of_get (d := d) (t := t) (i := i) fun factory => moved (by rw [factory, hd])
    exact ⟨_, ⟨mem, moved⟩, rfl⟩

omit [DecidableEq α] in
/-- R169: whether an entry of lower index passes a test that the factory record does not pass. -/
theorem heldBelow_iff {t : Tbl α} {p : α → Bool} (hs : (t.map Prod.fst).Pairwise (· < ·)) (hd : p d = false) (i : Nat) :
    heldBelow t i p = true ↔ ∃ j < i, p (Tbl.get d t j) = true := by
  unfold heldBelow
  rw [Tbl.any_iff (f := fun j e => decide (j < i) && p e) hs fun _ => by rw [hd, Bool.and_false]]
  simp only [Bool.and_eq_true, decide_eq_true_eq]

end

/-- A slot that is not listed holds its good factory image (log 4). -/
theorem Store.slot_unlisted (st : Store) {first n i : Nat} (hi : i < n) (h : i ∉ st.listed first n) :
    st.slot (first + i) = some (factoryImage (first + i)) := by
  refine Tbl.get_of_not_listed fun e he same => h (List.mem_map.2 ⟨e, List.mem_filter.2 ⟨he, ?_⟩, ?_⟩)
  · rw [decide_eq_true_eq, same]; omega
  · rw [same]; exact Nat.add_sub_cancel_left ..

theorem Store.lt_of_listed {st : Store} {first n i : Nat} (h : i ∈ st.listed first n) : i < n := by
  obtain ⟨e, he, rfl⟩ := List.mem_map.1 h
  have := of_decide_eq_true (List.mem_filter.1 he).2
  omega

theorem factoryImage_class {i : Nat} (h : i < 24) : factoryImage (1 + i) = .classifier ClassEntry.factory := by
  rw [factoryImage, if_neg (by omega), if_pos (by omega)]

theorem factoryImage_row {n : Nat} (h : 26 ≤ n) (h' : n < 58) : factoryImage n = .row Row.factory := by
  rw [factoryImage, if_neg (by omega), if_neg (by omega), if_neg (by omega), if_pos (by omega)]

theorem factoryImage_printer {i : Nat} (h : i < 64) : factoryImage (58 + i) = .printerConfig printerConfigFactory := by
  rw [factoryImage, if_neg (by omega), if_neg (by omega), if_neg (by omega), if_neg (by omega), if_pos (by omega)]

theorem factoryImage_account {i : Nat} (h : i < 4096) : factoryImage (186 + i) = .accountConfig AccountConfig.factory := by
  rw [factoryImage, if_neg (by omega), if_neg (by omega), if_neg (by omega), if_neg (by omega), if_neg (by omega),
    if_neg (by omega), if_pos (by omega)]

theorem factoryImage_balance {i : Nat} (h : i < 4096) : factoryImage (4282 + i) = .balance 0 .isOpen 0 := by
  rw [factoryImage, if_neg (by omega), if_neg (by omega), if_neg (by omega), if_neg (by omega), if_neg (by omega),
    if_neg (by omega), if_neg (by omega), if_pos (by omega)]

theorem factoryImage_reorder {i : Nat} (h : i < 64) : factoryImage (8634 + i) = .reorder none := by
  rw [factoryImage, if_neg (by omega), if_neg (by omega), if_neg (by omega), if_neg (by omega), if_neg (by omega),
    if_neg (by omega), if_neg (by omega), if_neg (by omega), if_neg (by omega), if_pos (by omega)]

theorem factoryImage_callout {i : Nat} : factoryImage (8698 + i) = .callout none := by
  rw [factoryImage, if_neg (by omega), if_neg (by omega), if_neg (by omega), if_neg (by omega), if_neg (by omega),
    if_neg (by omega), if_neg (by omega), if_neg (by omega), if_neg (by omega), if_neg (by omega)]

end Sys2Proof.Machine

/-! PROOFS. The records that a cold start restores from the slots (R6, R45, R60, R108, R132, R151, R169, R170). -/

namespace Sys2Proof.Machine

set_option Elab.async false

variable {s t u v : State}

/-! ### Accounts (R45, R169, R170) -/

/-- R45: the accounts as the slots give them, before numbers and badges held twice are resolved. -/
def Store.accounts (st : Store) : Tbl Account := Tbl.build Account.factory st.account (st.listed 186 4096 ++ st.listed 4282 4096)

theorem Store.accounts_wf (st : Store) : Tbl.wf Account.factory st.accounts = true := Tbl.wf_build ..

theorem State.restored_accounts (s : State) (c : ResetCause) :
    (s.restored c).accounts = Tbl.mapIdx Account.factory (resolveAccount s.store.accounts) s.store.accounts := rfl

section

variable {st : Store} {k : Nat} {c : AccountConfig}

theorem Store.accountConfig_iff : st.accountConfig k = some c ↔ st.slot (accountSlot k) = some (.accountConfig c) := by
  unfold Store.accountConfig
  split
  next d h => rw [h, Option.some_inj, Option.some_inj, Image.accountConfig.injEq]
  next other => exact ⟨nofun, fun h => absurd h (other c)⟩

theorem Store.account_failed (h : st.accountConfig k = none) : st.account k = Account.factory := by
  unfold Store.account
  rw [h]

/-- R45: an account whose configuration is good: its balance is the one its slot holds, or restored conservatively. -/
theorem Store.account_good (h : st.accountConfig k = some c) :
    (st.account k).cfg = c ∧ (st.account k).reserved = 0 ∧ (st.account k).held = [] ∧
    (st.account k).overdrawn = overdrawnFlag c.budget (st.account k).spent ∧
    (∀ n x f, st.slot (balanceSlot k) = some (.balance n x f) →
      (st.account k).spent = n ∧ (st.account k).state = x ∧ (st.account k).failures = f) ∧
    (st.slot (balanceSlot k) = none → (st.account k).state = .isOpen ∧ (st.account k).failures = 0 ∧
      (st.account k).spent = conservativeSpent c) := by
  unfold Store.account
  rw [h]
  dsimp only
  split
  next n x f good =>
    refine ⟨rfl, rfl, rfl, rfl, fun n' x' f' same => ?_, fun failed => absurd (good.symm.trans failed) nofun⟩
    cases good.symm.trans same
    exact ⟨rfl, rfl, rfl⟩
  next other => exact ⟨rfl, rfl, rfl, rfl, fun n x f same => absurd same (other n x f), fun _ => ⟨rfl, rfl, rfl⟩⟩

theorem Store.account_unlisted (hk : k ≤ 4095) (h : k ∉ st.listed 186 4096 ++ st.listed 4282 4096) :
    st.account k = Account.factory := by
  rw [List.mem_append, not_or] at h
  have config : st.accountConfig k = some AccountConfig.factory := by
    rw [Store.accountConfig_iff, ← factoryImage_account (by omega : k < 4096)]
    exact st.slot_unlisted (by omega) h.1
  have balance : st.slot (balanceSlot k) = some (.balance 0 .isOpen 0) := by
    rw [← factoryImage_balance (by omega : k < 4096)]
    exact st.slot_unlisted (by omega) h.2
  unfold Store.account
  rw [config]
  dsimp only
  rw [balance]
  rfl

theorem Store.get_accounts (hk : k ≤ 4095) : Tbl.get Account.factory st.accounts k = st.account k :=
  Tbl.get_build (Store.account_unlisted hk)

theorem Store.get_accounts_above (hk : 4095 < k) : Tbl.get Account.factory st.accounts k = Account.factory := by
  unfold Store.accounts Tbl.build
  rw [Tbl.get_foldl_put, if_neg]
  · rfl
  · rw [List.mem_append]
    rintro (h | h)
    all_goals have := Store.lt_of_listed h; omega

/-- A test that the factory record does not pass is one of the good configurations. -/
theorem Store.held_below {p : Account → Bool} (hd : p Account.factory = false) (hk : k ≤ 4095) :
    heldBelow st.accounts k p = true ↔ ∃ i < k, ∃ d, st.accountConfig i = some d ∧ p (st.account i) = true := by
  rw [heldBelow_iff (Tbl.rising_of_wf st.accounts_wf) hd]
  refine exists_congr fun i => and_congr_right fun hi => ?_
  rw [Store.get_accounts (by omega)]
  refine ⟨fun pass => ?_, fun ⟨d, _, pass⟩ => pass⟩
  cases config : st.accountConfig i with
  | none => rw [Store.account_failed config, hd] at pass; exact nomatch pass
  | some d => exact ⟨d, rfl, pass⟩

/-- R169: whether an account of lower index holds a number. -/
theorem Store.numberHeld_iff (hk : k ≤ 4095) (n : Nat) :
    heldBelow st.accounts k (fun b => b.cfg.valid && b.cfg.number == n) = true ↔
      ∃ i < k, ∃ d, st.accountConfig i = some d ∧ d.valid = true ∧ d.number = n := by
  rw [Store.held_below rfl hk]
  refine exists_congr fun i => and_congr_right fun _ => exists_congr fun d => and_congr_right fun config => ?_
  rw [(Store.account_good config).1, Bool.and_eq_true, beq_iff_eq]

/-- R169: whether an account of lower index holds a badge. -/
theorem Store.badgeHeld_iff (hk : k ≤ 4095) {b : Nat} :
    heldBelow st.accounts k (fun a => a.cfg.badge == some b) = true ↔
      ∃ i < k, ∃ d, st.accountConfig i = some d ∧ d.badge = some b := by
  rw [Store.held_below rfl hk]
  refine exists_congr fun i => and_congr_right fun _ => exists_congr fun d => and_congr_right fun config => ?_
  rw [(Store.account_good config).1, beq_iff_eq]

end

theorem resolveAccount_factory (t : Tbl Account) (k : Nat) : resolveAccount t k Account.factory = Account.factory := rfl

theorem State.restored_account (s : State) (c : ResetCause) (k : Nat) :
    (s.restored c).account k = resolveAccount s.store.accounts k (Tbl.get Account.factory s.store.accounts k) := by
  unfold State.account
  rw [State.restored_accounts, Tbl.get_mapIdx (resolveAccount_factory _) (Tbl.nodup_of_wf s.store.accounts_wf)]

/-- R169: an account whose configuration is good keeps it, but for a number or a badge that a lower index holds. -/
theorem resolveAccount_keys {st : Store} {k : Nat} {c : AccountConfig} (hk : k ≤ 4095) {a : Account} (cfg : a.cfg = c) :
    let r := resolveAccount st.accounts k a
    r.cfg = { c with valid := r.cfg.valid, badge := r.cfg.badge } ∧
    (r.cfg.valid = true ↔ c.valid = true ∧
      ∀ i < k, ∀ d, st.accountConfig i = some d → ¬(d.valid = true ∧ d.number = c.number)) ∧
    r.cfg.badge = r.cfg.badge.filter (fun x => c.badge = some x) ∧
    (r.cfg.badge ≠ none ↔ c.badge ≠ none ∧ ∀ i < k, ∀ d, st.accountConfig i = some d → d.badge ≠ c.badge) := by
  subst cfg
  refine ⟨rfl, ?_, ?_⟩
  · show (a.cfg.valid && !(a.cfg.valid && heldBelow _ _ _)) = true ↔ _
    cases a.cfg.valid with
    | false => exact iff_of_false nofun fun h => nomatch h.1
    | true =>
      rw [Bool.true_and, Bool.true_and, Bool.not_eq_true', ← Bool.not_eq_true, Store.numberHeld_iff hk]
      simp only [true_and, not_exists, not_and]
  · show (if a.cfg.badge.isSome && heldBelow _ _ _ then none else a.cfg.badge) = _ ∧ _
    cases badge : a.cfg.badge with
    | none =>
      simp only [resolveAccount, badge]
      exact ⟨rfl, iff_of_false (fun h => h rfl) fun h => h.1 rfl⟩
    | some b =>
      simp only [resolveAccount, badge, Option.isSome_some, Bool.true_and]
      by_cases held : heldBelow st.accounts k (fun a => a.cfg.badge == some b) = true
      · obtain ⟨i, hi, d, config, same⟩ := (Store.badgeHeld_iff hk).1 held
        rw [if_pos held]
        exact ⟨rfl, iff_of_false (fun h => h rfl) fun h => h.2 i hi d config same⟩
      · rw [if_neg held]
        refine ⟨(if_pos (decide_eq_true rfl)).symm, iff_of_true nofun ⟨nofun, fun i hi d config same => held ?_⟩⟩
        exact (Store.badgeHeld_iff hk).2 ⟨i, hi, d, config, same⟩

/-! ### Printers (R108, R132, R151, R169) -/

/-- R108: the configuration of an entry, none when its slot has failed. -/
def Store.printerConfig (st : Store) (p : Nat) : Option PrinterConfig :=
  match st.slot (printerSlot p) with
  | some (.printerConfig c) => some c
  | _ => none

/-- R108: the entries as the slots give them, before station codes held twice are resolved. -/
def Store.printers (st : Store) : Tbl Printer := Tbl.build printerFactory st.printer (st.listed 58 64)

theorem Store.printers_wf (st : Store) : Tbl.wf printerFactory st.printers = true := Tbl.wf_build ..

theorem State.restored_printers (s : State) (c : ResetCause) :
    (s.restored c).printers = Tbl.mapIdx printerFactory (resolvePrinter s.store.printers) s.store.printers := rfl

section

variable {st : Store} {p : Nat} {c : PrinterConfig}

theorem Store.printerConfig_iff : st.printerConfig p = some c ↔ st.slot (printerSlot p) = some (.printerConfig c) := by
  unfold Store.printerConfig
  split
  next d h => rw [h, Option.some_inj, Option.some_inj, Image.printerConfig.injEq]
  next other => exact ⟨nofun, fun h => absurd h (other c)⟩

theorem Store.printer_failed (h : st.printerConfig p = none) : st.printer p = printerFactory := by
  unfold Store.printer
  split
  next c good => exact absurd (Store.printerConfig_iff.2 good) (by rw [h]; nofun)
  next => rfl

theorem Store.printer_unused (h : st.printerConfig p = some c) (vacant : c.station = none) :
    st.printer p = { printerFactory with cfg := c } := by
  unfold Store.printer
  rw [Store.printerConfig_iff.1 h]
  dsimp only
  rw [if_pos (by rw [vacant]; rfl)]

/-- R108, R132, R151: an entry with a station. -/
theorem Store.printer_configured (h : st.printerConfig p = some c) (taken : c.station ≠ none) :
    st.printer p = { printerFactory with
      cfg := c
      service := if (st.health p).2 then .inService else .parked
      score := if (st.health p).1 then 640 else 0
      health := if (st.health p).1 then .withdrawn else .active
      standing := { Standing.none with unreachable := c.mode != .silent }
      k := some (st.supply p .k)
      c := if c.colourCapable then some (st.supply p .c) else none
      m := if c.colourCapable then some (st.supply p .m) else none
      y := if c.colourCapable then some (st.supply p .y) else none } := by
  unfold Store.printer
  rw [Store.printerConfig_iff.1 h]
  dsimp only
  rw [if_neg (by rwa [Option.isNone_iff_eq_none])]

theorem Store.printer_cfg (h : st.printerConfig p = some c) : (st.printer p).cfg = c := by
  by_cases vacant : c.station = none
  · rw [Store.printer_unused h vacant]
  · rw [Store.printer_configured h vacant]

theorem Store.printer_unlisted (hp : p ≤ 63) (h : p ∉ st.listed 58 64) : st.printer p = printerFactory := by
  have config : st.printerConfig p = some printerConfigFactory := by
    rw [Store.printerConfig_iff, ← factoryImage_printer (by omega : p < 64)]
    exact st.slot_unlisted (by omega) h
  exact Store.printer_unused config rfl

theorem Store.get_printers (hp : p ≤ 63) : Tbl.get printerFactory st.printers p = st.printer p :=
  Tbl.get_build (Store.printer_unlisted hp)

theorem Store.get_printers_above (hp : 63 < p) : Tbl.get printerFactory st.printers p = printerFactory := by
  unfold Store.printers Tbl.build
  rw [Tbl.get_foldl_put, if_neg]
  · rfl
  · intro h
    have := Store.lt_of_listed h
    omega

/-- R169: whether an entry of lower index holds a station code. -/
theorem Store.stationHeld_iff (hp : p ≤ 63) {x : Option Nat} (taken : x ≠ none) :
    heldBelow st.printers p (fun e => e.cfg.station == x) = true ↔
      ∃ i < p, ∃ d, st.printerConfig i = some d ∧ d.station = x := by
  have factory : (printerFactory.cfg.station == x) = false := beq_false_of_ne taken.symm
  rw [heldBelow_iff (Tbl.rising_of_wf st.printers_wf) factory]
  refine exists_congr fun i => and_congr_right fun hi => ?_
  rw [Store.get_printers (by omega), beq_iff_eq]
  constructor
  · intro same
    cases config : st.printerConfig i with
    | none => rw [Store.printer_failed config] at same; exact absurd same.symm taken
    | some d => exact ⟨d, rfl, Store.printer_cfg config ▸ same⟩
  · rintro ⟨d, config, same⟩
    rwa [Store.printer_cfg config]

end

theorem resolvePrinter_vacant (t : Tbl Printer) (p : Nat) {e : Printer} (h : e.cfg.station = none) :
    resolvePrinter t p e = e := by
  unfold resolvePrinter
  rw [h]
  rfl

theorem State.restored_printer (s : State) (c : ResetCause) (p : Nat) :
    (s.restored c).printer p = resolvePrinter s.store.printers p (Tbl.get printerFactory s.store.printers p) := by
  unfold State.printer
  rw [State.restored_printers, Tbl.get_mapIdx (fun p => resolvePrinter_vacant _ p rfl) (Tbl.nodup_of_wf s.store.printers_wf)]

/-- R169: an entry with a station is kept, unless a lower index holds its station code. -/
theorem resolvePrinter_taken {st : Store} {p : Nat} {c : PrinterConfig} (hp : p ≤ 63) {e : Printer} (cfg : e.cfg = c)
    (taken : c.station ≠ none) :
    ((∃ i < p, ∃ d, st.printerConfig i = some d ∧ d.station = c.station) → resolvePrinter st.printers p e = printerFactory) ∧
    ((∀ i < p, ∀ d, st.printerConfig i = some d → d.station ≠ c.station) → resolvePrinter st.printers p e = e) := by
  subst cfg
  have some : e.cfg.station.isSome = true := Option.isSome_iff_ne_none.2 taken
  unfold resolvePrinter
  rw [some, Bool.true_and]
  refine ⟨fun held => if_pos ((Store.stationHeld_iff hp taken).2 held), fun free => if_neg fun held => ?_⟩
  obtain ⟨i, hi, d, config, same⟩ := (Store.stationHeld_iff hp taken).1 held
  exact free i hi d config same

end Sys2Proof.Machine

/-! PROOFS. The cold start (R22, R163, R169, R170): the small tables, the summary, the dirty marks, and the state it leaves. -/

namespace Sys2Proof.Machine

set_option Elab.async false

variable {s t u v : State}

/-! ### The small tables (R6, R60, R132, R151) -/

section

variable (s) (c : ResetCause) {i : Nat}

theorem State.restored_classEntry (hi : i ≤ 24) : (s.restored c).classEntry i = s.store.classEntry i := by
  unfold State.classEntry
  split
  next low =>
    refine Tbl.get_build fun out => ?_
    have good := s.store.slot_unlisted low out
    rw [factoryImage_class low] at good
    unfold Store.classEntry classSlot
    rw [good]
  next high =>
    obtain rfl : i = 24 := by omega
    rfl

theorem Store.row_unlisted {st : Store} {first : Nat} (hi : i ≤ 15) (low : 26 ≤ first) (high : first ≤ 42)
    (out : i ∉ st.listed first 16) : st.row (first + i) = Row.factory := by
  have good := st.slot_unlisted (by omega) out
  rw [factoryImage_row (by omega) (by omega)] at good
  unfold Store.row
  rw [good]

theorem State.restored_tariff (hi : i ≤ 15) :
    Tbl.get Row.factory (s.restored c).tariff.active i = s.store.row (activeSlot i) ∧
    Tbl.get Row.factory (s.restored c).tariff.pending i = s.store.row (pendingSlot i) :=
  ⟨Tbl.get_build (Store.row_unlisted hi (by omega) (by omega)), Tbl.get_build (Store.row_unlisted hi (by omega) (by omega))⟩

theorem State.restored_reorder (hi : i ≤ 63) : (s.restored c).reorder i = s.store.reorder i := by
  refine Tbl.get_build fun out => ?_
  have good := s.store.slot_unlisted (by omega) out
  rw [factoryImage_reorder (by omega)] at good
  unfold Store.reorder reorderSlot
  rw [good]

theorem State.restored_callout (hi : i ≤ 31) : (s.restored c).callout i = s.store.callout i := by
  refine Tbl.get_build fun out => ?_
  have good := s.store.slot_unlisted (by omega) out
  rw [factoryImage_callout] at good
  unfold Store.callout calloutSlot
  rw [good]

end

/-! ### The summary (R169, R170) -/

theorem Store.failed_of_slot {st : Store} {n : Nat} (h : st.slot n = none) : n ∈ st.failedSlots := by
  have mem := Tbl.mem_of_get (d := some (factoryImage n)) (t := st.slots) (i := n)
    (by rw [show Tbl.get _ _ _ = none from h]; nofun)
  rw [show Tbl.get _ _ _ = none from h] at mem
  exact List.mem_map.2 ⟨_, List.mem_filter.2 ⟨mem, rfl⟩, rfl⟩

theorem Store.mem_failedSlots {st : Store} (hc : st.SlotsCanonical) (n : Nat) : n ∈ st.failedSlots ↔ st.slot n = none := by
  refine ⟨fun h => ?_, Store.failed_of_slot⟩
  obtain ⟨⟨m, v⟩, he, rfl⟩ := List.mem_map.1 h
  obtain ⟨mem, failed⟩ := List.mem_filter.1 he
  rw [Store.slot, Tbl.get_of_mem (hc.1.imp Nat.ne_of_lt) mem]
  exact Option.isNone_iff_eq_none.1 failed

theorem Store.failedSlots_nodup {st : Store} (hc : st.SlotsCanonical) : st.failedSlots.Nodup :=
  (hc.1.imp Nat.ne_of_lt).sublist (List.filter_sublist.map _)

/-- Two counts of the same numbers, one of them from a first number on. -/
theorem length_filter_shift {l : List Nat} (hl : l.Nodup) {first n : Nat} {p q : Nat → Bool}
    (within : ∀ m ∈ l, p m = true → first ≤ m ∧ m < first + n)
    (same : ∀ i < n, q i = true ↔ first + i ∈ l ∧ p (first + i) = true) :
    (l.filter p).length = ((List.range n).filter q).length := by
  have perm : (l.filter p).Perm (((List.range n).filter q).map (first + ·)) := by
    refine (List.perm_ext_iff_of_nodup (hl.filter _) ?_).2 fun m => ?_
    · exact (List.nodup_range.filter _).map fun _ _ => Nat.add_left_cancel
    · simp only [List.mem_filter, List.mem_map, List.mem_range]
      constructor
      · rintro ⟨mem, pass⟩
        obtain ⟨low, high⟩ := within m mem pass
        have e : first + (m - first) = m := by omega
        have lt : m - first < n := by omega
        exact ⟨m - first, ⟨lt, (same _ lt).2 (e.symm ▸ ⟨mem, pass⟩)⟩, e⟩
      · rintro ⟨i, ⟨hi, pass⟩, rfl⟩
        exact (same i hi).1 pass
  rw [perm.length_eq, List.length_map]

/-- R169: the number of failed slots of a kind. -/
theorem Store.failedCount {st : Store} (hc : st.SlotsCanonical) (first n : Nat) :
    (st.failedSlots.filter (fun m => decide (first ≤ m ∧ m < first + n))).length =
      ((List.range n).filter (fun i => st.slot (first + i) = none)).length := by
  refine length_filter_shift (Store.failedSlots_nodup hc) (fun m _ => of_decide_eq_true) fun i hi => ?_
  have here : first ≤ first + i ∧ first + i < first + n := by omega
  rw [decide_eq_true_eq, decide_eq_true_eq, Store.mem_failedSlots hc, and_iff_left here]

/-- R169: the number of accounts restored conservatively. -/
theorem Store.conservativeCount_eq {st : Store} (hc : st.SlotsCanonical) :
    st.conservativeCount = ((List.range 4096).filter (fun k => (st.slot (balanceSlot k)).isNone &&
      ((st.accountConfig k).map AccountConfig.valid).getD false)).length := by
  refine length_filter_shift (first := 4282) (Store.failedSlots_nodup hc) (fun m _ pass => ?_) fun i hi => ?_
  · have := of_decide_eq_true (Bool.and_eq_true_iff.1 pass).1
    omega
  · have here : 4282 ≤ 4282 + i ∧ 4282 + i < 8378 := by omega
    rw [Store.mem_failedSlots hc, decide_eq_true here, Bool.true_and, Bool.and_eq_true, Option.isNone_iff_eq_none,
      Nat.add_sub_cancel_left]
    rfl

/-! ### The dirty marks (R169, R170) -/

theorem mem_insertSlots (l : List Nat) (n : Nat) : ∀ d : List Nat,
    n ∈ l.foldl (fun d n => insertSlot n d) d ↔ n ∈ l ∨ n ∈ d := by
  induction l with
  | nil => exact fun d => by simp
  | cons m l ih =>
    intro d
    rw [List.foldl_cons, ih, mem_insertSlot, List.mem_cons, ← or_assoc, or_comm (a := n ∈ l)]

theorem mem_marksOf (l : List Nat) (n : Nat) : n ∈ marksOf l ↔ n ∈ l := by
  unfold marksOf
  rw [mem_insertSlots]
  exact or_iff_left List.not_mem_nil

/-- R170: what a failed slot marks. -/
theorem mem_marksOfFailed (printers : Tbl Printer) (n m : Nat) : m ∈ marksOfFailed printers n ↔
    (m = n ∧ (n < 8378 ∨ 8634 ≤ n)) ∨ ((186 ≤ n ∧ n < 4282) ∧ m = n + 4096) ∨
    ((8378 ≤ n ∧ n < 8634) ∧ m = n ∧
      (Tbl.get printerFactory printers ((n - 8378) / 4)).supply (colorantAt ((n - 8378) % 4)) ≠ none) := by
  unfold marksOfFailed
  split
  next account =>
    have low : n < 8378 := by omega
    have other : ¬(8378 ≤ n ∧ n < 8634) := by omega
    simp [account, low, other]
  next notAccount =>
    split
    next colorant =>
      have out : ¬(n < 8378 ∨ 8634 ≤ n) := by omega
      split
      next has => simp [notAccount, colorant, out, Option.isSome_iff_ne_none.1 has]
      next lacks =>
        rw [Bool.not_eq_true, Option.isSome_eq_false_iff, Option.isNone_iff_eq_none] at lacks
        simp [notAccount, out, lacks]
    next notColorant =>
      have out : n < 8378 ∨ 8634 ≤ n := by omega
      simp [notAccount, notColorant, out]

/-- R170: the marks of the failed slots. -/
theorem mem_failedMarks {st : Store} (hc : st.SlotsCanonical) (printers : Tbl Printer) (n : Nat) :
    n ∈ st.failedSlots.flatMap (marksOfFailed printers) ↔
      (st.slot n = none ∧ (n < 8378 ∨ 8634 ≤ n)) ∨
      (∃ p ≤ 63, ∃ x, n = colorantSlot p x ∧ st.slot n = none ∧ (Tbl.get printerFactory printers p).supply x ≠ none) ∨
      (∃ k ≤ 4095, n = balanceSlot k ∧ st.slot (accountSlot k) = none) := by
  simp only [List.mem_flatMap, Store.mem_failedSlots hc, mem_marksOfFailed]
  constructor
  · rintro ⟨m, failed, ⟨rfl, out⟩ | ⟨⟨low, high⟩, rfl⟩ | ⟨⟨low, high⟩, rfl, has⟩⟩
    · exact .inl ⟨failed, out⟩
    · have e : accountSlot (m - 186) = m := by unfold accountSlot; omega
      exact .inr (.inr ⟨m - 186, by omega, by unfold balanceSlot; omega, e.symm ▸ failed⟩)
    · refine .inr (.inl ⟨(n - 8378) / 4, by omega, colorantAt ((n - 8378) % 4), ?_, failed, has⟩)
      have index (k : Nat) (h : k < 4) : colorantIndex (colorantAt k) = k := by
        match k, h with
        | 0, _ | 1, _ | 2, _ | 3, _ => rfl
      unfold colorantSlot
      rw [index _ (Nat.mod_lt _ (by decide))]
      omega
  · rintro (⟨failed, out⟩ | ⟨p, hp, x, rfl, failed, has⟩ | ⟨k, hk, rfl, failed⟩)
    · exact ⟨n, failed, .inl ⟨rfl, out⟩⟩
    · have place := colorantIndex_lt x
      have entry : (colorantSlot p x - 8378) / 4 = p := by unfold colorantSlot; omega
      have index : (colorantSlot p x - 8378) % 4 = colorantIndex x := by unfold colorantSlot; omega
      refine ⟨_, failed, .inr (.inr ⟨by unfold colorantSlot; omega, rfl, ?_⟩)⟩
      rwa [entry, index, colorantAt_index]
    · exact ⟨_, failed, .inr (.inl ⟨by unfold accountSlot; omega, by unfold balanceSlot accountSlot; omega⟩)⟩

/-- R169: the accounts changed for a number or a badge held twice. -/
theorem mem_movedAccounts (s : State) (c : ResetCause) (n : Nat) :
    n ∈ (Tbl.moved (resolveAccount s.store.accounts) s.store.accounts).map accountSlot ↔
      ∃ k ≤ 4095, ∃ d, n = accountSlot k ∧ s.store.slot (accountSlot k) = some (.accountConfig d) ∧
        ((s.restored c).account k).cfg ≠ d := by
  have moved (k : Nat) : k ∈ Tbl.moved (resolveAccount s.store.accounts) s.store.accounts ↔ _ :=
    Tbl.mem_moved (resolveAccount_factory _) (Tbl.nodup_of_wf s.store.accounts_wf) k
  have same {t : Tbl Account} {k : Nat} {a : Account} : resolveAccount t k a = a ↔ (resolveAccount t k a).cfg = a.cfg :=
    ⟨congrArg _, fun h => congrArg (fun cfg => { a with cfg := cfg }) h⟩
  simp only [List.mem_map, moved, ← s.restored_account c]
  constructor
  · rintro ⟨k, change, rfl⟩
    have hk : k ≤ 4095 := by
      by_contra above
      exact change (by rw [State.restored_account, Store.get_accounts_above (by omega), resolveAccount_factory])
    rw [State.restored_account, Store.get_accounts hk, Ne, same] at change
    cases config : s.store.accountConfig k with
    | none => rw [Store.account_failed config] at change; exact absurd rfl change
    | some d =>
      refine ⟨k, hk, d, rfl, Store.accountConfig_iff.1 config, ?_⟩
      rw [(Store.account_good config).1] at change
      rwa [State.restored_account, Store.get_accounts hk]
  · rintro ⟨k, hk, d, rfl, config, change⟩
    refine ⟨k, fun kept => change ?_, rfl⟩
    rw [kept, Store.get_accounts hk, (Store.account_good (Store.accountConfig_iff.2 config)).1]

/-- R169: the entries returned to the factory state for a station code held twice. -/
theorem mem_movedPrinters (st : Store) (n : Nat) :
    n ∈ (Tbl.moved (resolvePrinter st.printers) st.printers).flatMap (fun p => [printerSlot p, healthSlot p]) ↔
      ∃ p ≤ 63, ∃ c, (n = printerSlot p ∨ n = healthSlot p) ∧ st.slot (printerSlot p) = some (.printerConfig c) ∧
        c.station ≠ none ∧
        ∃ i < p, ∃ d, st.slot (printerSlot i) = some (.printerConfig d) ∧ d.station = c.station := by
  have moved (p : Nat) : p ∈ Tbl.moved (resolvePrinter st.printers) st.printers ↔ _ :=
    Tbl.mem_moved (fun p => resolvePrinter_vacant _ p (e := printerFactory) rfl) (Tbl.nodup_of_wf st.printers_wf) p
  simp only [List.mem_flatMap, List.mem_cons, List.not_mem_nil, or_false, moved, ← Store.printerConfig_iff]
  constructor
  · rintro ⟨p, change, place⟩
    have hp : p ≤ 63 := by
      by_contra above
      exact change (by rw [Store.get_printers_above (by omega), resolvePrinter_vacant _ _ rfl])
    rw [Store.get_printers hp] at change
    cases config : st.printerConfig p with
    | none => exact absurd (by rw [Store.printer_failed config, resolvePrinter_vacant _ _ rfl]) change
    | some c =>
      have cfg := Store.printer_cfg config
      have taken : c.station ≠ none := fun vacant => change (resolvePrinter_vacant _ _ (by rw [cfg, vacant]))
      refine ⟨p, hp, c, place, config, taken, ?_⟩
      by_contra free
      exact change ((resolvePrinter_taken hp cfg taken).2 fun i hi d config same => free ⟨i, hi, d, config, same⟩)
  · rintro ⟨p, hp, c, place, config, taken, held⟩
    refine ⟨p, ?_, place⟩
    have cfg := Store.printer_cfg config
    rw [Store.get_printers hp, (resolvePrinter_taken hp cfg taken).1 held]
    intro factory
    rw [← factory] at cfg
    exact taken (cfg ▸ rfl)

theorem State.restored_dirty (s : State) (c : ResetCause) (n : Nat) : n ∈ (s.restored c).store.dirty ↔
    (n ∈ s.store.failedSlots.flatMap (marksOfFailed (s.restored c).printers) ∨
      n ∈ (Tbl.moved (resolveAccount s.store.accounts) s.store.accounts).map accountSlot) ∨
      n ∈ (Tbl.moved (resolvePrinter s.store.printers) s.store.printers).flatMap (fun p => [printerSlot p, healthSlot p]) := by
  refine (mem_marksOf _ n).trans ?_
  rw [List.mem_append, List.mem_append]
  rfl

end Sys2Proof.Machine

/-! PROOFS. The start-up (R132, R151, R158, R168, R169, R171), and what a cold start comes to. -/

namespace Sys2Proof.Machine

set_option Elab.async false

variable {s t u v : State}

/-! ### Orphaned records (R132, R151) -/

theorem State.orphan_reorder_iff (hw : s.TablesCanonical) (i : Nat) : i ∈ s.orphans.1 ↔
    ∃ o, s.reorder i = some o ∧ (s.printer o.printer).supply o.colorant = none := by
  unfold State.orphans
  rw [Tbl.mem_indexesWhere_iff (d := none) (Tbl.nodup_of_wf hw.reorders) rfl]
  unfold State.reorder
  cases Tbl.get none s.reorders i with
  | none => exact iff_of_false nofun fun ⟨_, h, _⟩ => nomatch h
  | some o => simp [Option.isNone_iff_eq_none]

theorem State.orphan_callout_iff (hw : s.TablesCanonical) (i : Nat) : i ∈ s.orphans.2 ↔
    ∃ c, s.callout i = some c ∧ (s.printer c.printer).service = .unused := by
  unfold State.orphans
  rw [Tbl.mem_indexesWhere_iff (d := none) (Tbl.nodup_of_wf hw.callouts) rfl]
  unfold State.callout
  cases Tbl.get none s.callouts i with
  | none => exact iff_of_false nofun fun ⟨_, h, _⟩ => nomatch h
  | some c => simp [State.hasPrinter]

/-- A record closed at each of the indexes. -/
theorem Tbl.get_closeAll {α : Type} [DecidableEq α] (l : List Nat) (t : Tbl (Option α)) (i : Nat) :
    Tbl.get none (l.foldl (fun t i => t.put none i none) t) i = if i ∈ l then none else Tbl.get none t i :=
  Tbl.get_foldl_put (fun _ => none) l i t

theorem filter_of_orphan {α : Type} {r : Option α} {p : α → Bool} {q : Prop} [Decidable q]
    (h : q ↔ ∃ o, r = some o ∧ p o = false) : (if q then none else r) = r.filter p := by
  cases r with
  | none => exact ite_self none
  | some o =>
    rw [Option.filter_some]
    cases keep : p o with
    | true =>
      refine if_neg fun closed => ?_
      obtain ⟨o', same, out⟩ := h.1 closed
      cases same
      exact nomatch keep.symm.trans out
    | false => exact if_pos (h.2 ⟨o, rfl, keep⟩)

theorem State.closeOrphans_reorder (hw : s.TablesCanonical) (i : Nat) : s.closeOrphans.reorder i =
    (s.reorder i).filter (fun o => ((s.printer o.printer).supply o.colorant).isSome) := by
  refine (Tbl.get_closeAll ..).trans (filter_of_orphan ?_)
  rw [State.orphan_reorder_iff hw]
  simp only [Option.isSome_eq_false_iff, Option.isNone_iff_eq_none]
  rfl

theorem State.closeOrphans_callout (hw : s.TablesCanonical) (i : Nat) : s.closeOrphans.callout i =
    (s.callout i).filter (fun c => (s.printer c.printer).service ≠ .unused) := by
  refine (Tbl.get_closeAll ..).trans (filter_of_orphan ?_)
  rw [State.orphan_callout_iff hw]
  simp only [decide_eq_false_iff_not, not_not]
  rfl

theorem State.closeOrphans_dirty (s : State) (n : Nat) : n ∈ s.closeOrphans.store.dirty ↔
    n ∈ s.orphans.1.map reorderSlot ++ s.orphans.2.map calloutSlot ∨ n ∈ s.store.dirty := mem_insertSlots ..

/-! ### The start of the blocks (R132, R168, R169) -/

theorem PrinterOf.started_eq (e : Printer) : PrinterOf.started e = { e with
    limit := if e.service = .inService ∧ e.standing ≠ Standing.none then .running e.cfg.standingLimit else e.limit } := by
  unfold PrinterOf.started
  have iff : (decide (e.service = .inService) && !e.standing.isEmpty) = true ↔
      e.service = .inService ∧ e.standing ≠ Standing.none := by
    rw [Bool.and_eq_true, decide_eq_true_eq, Bool.not_eq_true', ← Bool.not_eq_true, Standing.isEmpty_iff]
  by_cases stands : e.service = .inService ∧ e.standing ≠ Standing.none
  · rw [if_pos (iff.2 stands), if_pos stands]
  · rw [if_neg (iff.not.2 stands), if_neg stands]

theorem State.startBlocks_printer (hw : Tbl.wf printerFactory s.printers = true) (p : Nat) :
    s.startBlocks.printer p = PrinterOf.started (s.printer p) :=
  Tbl.get_mapAll (d := printerFactory) (f := PrinterOf.started) rfl (Tbl.nodup_of_wf hw) p

theorem State.startBlocks_callout (hw : Tbl.wf none s.callouts = true) (i : Nat) :
    s.startBlocks.callout i = (s.callout i).map (Callout.started s.settings.renotify) :=
  Tbl.get_mapAll (d := none) (f := Option.map (Callout.started s.settings.renotify)) rfl (Tbl.nodup_of_wf hw) i

/-- R169, R171: the start-up: the start of the blocks, but for the queue, the O-port and the notices. -/
theorem State.startUp_eq (s : State) : ∃ q o l b, s.startUp = { s.closeOrphans.startBlocks with
    store := { s.closeOrphans.startBlocks.store with queue := q }
    oport := { s.oport with own := o }
    console := { s.closeOrphans.startBlocks.console with notices := l, noticeOverflow := b } } := by
  obtain ⟨q, filled⟩ := s.closeOrphans.startBlocks.fillQueue_eq
  obtain ⟨o, l, b, told⟩ := s.closeOrphans.startBlocks.fillQueue.notify_eq
    (.started s.store.reset.cause s.store.reset.conservative)
  exact ⟨q, o, l, b, by rw [State.startUp, told, filled]; rfl⟩

theorem State.startUp_changes (s : State) : ChangesOnly
    ([Piece.phase, .reorders, .callouts, .printers, .checkpointTimer] ++ noticeTraffic ++ endOfStep) s s.startUp := by
  obtain ⟨q, o, l, b, e⟩ := s.startUp_eq
  rw [e]
  intro x hx
  cases x <;>
    first | exact rfl | exact ⟨rfl, rfl⟩ | exact ⟨rfl, rfl, rfl⟩ | exact ⟨rfl, rfl, rfl, rfl⟩ | exact absurd (by decide) hx

theorem State.startUp_formed (s : State) :
    NoticeFormed s s.startUp (.started s.store.reset.cause s.store.reset.conservative) := by
  obtain ⟨q, filled⟩ := s.closeOrphans.startBlocks.fillQueue_eq
  refine (State.notify_formed _).earlier (x := []) (y := []) ?_ ?_ ?_
  all_goals rw [filled]
  · exact (List.append_nil _).symm
  · exact (List.append_nil _).symm
  · rfl

/-! ### The idle timer at the end of a step (R158) -/

/-- R158: the idle timer starts when its conditions come to hold together. -/
theorem State.finish_idleStarts (running : u.clock.mode = .running) (stopped : u.clock.idle = .stopped)
    (free : u.restartPending = false) (condition : u.idleCondition = true) :
    u.finish.clock.idle = if u.settings.idleTime = 0 then .stopped else .running u.settings.idleTime := by
  have kept := (State.beginProgram_moves (s := u)).changesOnly
  have clock : u.beginProgram.clock.core = u.clock.core := kept .clock (by decide)
  have mode := (Clock.eq_of_core clock).2.2.2.2.1
  have idle : u.beginProgram.clock.idle = u.clock.idle := kept .idleTimer (by decide)
  have settings : u.beginProgram.settings = u.settings := kept .settings (by decide)
  have restart : u.beginProgram.restartPending = u.restartPending := kept .restartPending (by decide)
  have jobs : u.beginProgram.jobs.recs = u.jobs.recs := kept .jobRecords (by decide)
  have printers : u.beginProgram.printers = u.printers := kept .printers (by decide)
  have same : u.beginProgram.idleCondition = u.idleCondition := by
    unfold State.idleCondition
    rw [jobs, printers]
  unfold State.finish State.idleService
  rw [mode, running, restart, free, settings, same, condition, idle, stopped]
  by_cases never : u.settings.idleTime = 0
  · rw [if_pos never, never]; rfl
  · have runs : (u.settings.idleTime != 0) = true := bne_iff_ne.2 never
    rw [if_neg never, runs]; rfl

end Sys2Proof.Machine

/-! PROOFS. What a start-up and a cold start come to (R22, R24, R45, R60, R108, R132, R151, R163, R169 to R171). -/

namespace Sys2Proof.Machine

set_option Elab.async false

variable {s t u v : State}

theorem State.startUp_printer (s : State) (hw : s.TablesCanonical) (p : Nat) : s.startUp.printer p = { s.printer p with
    limit := if (s.printer p).service = .inService ∧ (s.printer p).standing ≠ Standing.none
      then .running (s.printer p).cfg.standingLimit else (s.printer p).limit } := by
  obtain ⟨q, o, l, b, started⟩ := s.startUp_eq
  rw [started]
  exact (State.startBlocks_printer (s := s.closeOrphans) hw.printers p).trans (PrinterOf.started_eq _)

/-- R132, R151, R158, R168, R169, R171: the start-up and the end of its step. -/
theorem startUp_done (starting : s.phase = .starting) (hw : s.TablesCanonical) :
    ∃ t, exec .startUpComplete s = .next t ∧ t.phase = .up ∧ t.store.checkpoint = .running s.settings.checkpoint ∧
      t.console.storeRestored = decide (0 < s.store.reset.conservative) ∧
      (s.clock.mode = .running → s.clock.idle = .stopped → s.restartPending = false → s.idleCondition = true →
        t.clock.idle = if s.settings.idleTime = 0 then .stopped else .running s.settings.idleTime) ∧
      NoticeFormed s t (.started s.store.reset.cause s.store.reset.conservative) ∧
      (∀ i, t.reorder i = (s.reorder i).filter (fun o => ((s.printer o.printer).supply o.colorant).isSome)) ∧
      (∀ i o, s.reorder i = some o → (s.printer o.printer).supply o.colorant = none → Written t (reorderSlot i)) ∧
      (∀ i, t.callout i = ((s.callout i).filter (fun c => (s.printer c.printer).service ≠ .unused)).map (fun c =>
        { c with timer := if c.acknowledged then .stopped else .running s.settings.renotify })) ∧
      (∀ i c, s.callout i = some c → (s.printer c.printer).service = .unused → Written t (calloutSlot i)) ∧
      (∀ p, t.printer p = { s.printer p with
        limit := if (s.printer p).service = .inService ∧ (s.printer p).standing ≠ Standing.none
          then .running (s.printer p).cfg.standingLimit else (s.printer p).limit }) ∧
      ChangesOnly ([Piece.phase, .reorders, .callouts, .printers, .checkpointTimer] ++ noticeTraffic ++ endOfStep) s t := by
  obtain ⟨q, o, l, b, started⟩ := s.startUp_eq
  have ended := State.finish_changes s.startUp
  have callouts : Tbl.wf none s.closeOrphans.callouts = true := Tbl.wf_foldl_put id (fun _ => none) _ hw.callouts
  have powered : s.powered.TablesCanonical :=
    ⟨hw.classifier, hw.accounts, hw.active, hw.waiting, hw.printers, hw.callouts, hw.reorders, hw.slots⟩
  have marked {n : Nat} (h : n ∈ s.orphans.1.map reorderSlot ++ s.orphans.2.map calloutSlot) : Written s.startUp.finish n := by
    refine State.written_of_dirty ?_
    rw [started]
    exact (s.closeOrphans_dirty n).2 (.inl h)
  refine ⟨s.startUp.finish, ?_, ?_, ?_, ?_, fun running stopped free condition => ?_, s.startUp_formed.finish, fun i => ?_,
    fun i r open_ gone => marked ?_, fun i => ?_, fun i c open_ gone => marked ?_, fun p => ?_, ?_⟩
  · show execStartUpComplete s = _
    rw [execStartUpComplete, if_pos starting]
  · rw [State.finish_phase, started]
    rfl
  · rw [show s.startUp.finish.store.checkpoint = _ from ended .checkpointTimer (by decide), started]
    rfl
  · rw [State.finish_console, started]
    rfl
  · have idle : s.startUp.idleCondition = true := by
      rw [State.idleCondition_iff hw] at condition
      rw [State.idleCondition_iff (s.startUp_moves.keeps_tables powered)]
      refine ⟨?_, fun p => ?_⟩
      · rw [started]; exact condition.1
      · rw [s.startUp_printer hw]; exact condition.2 p
    rw [State.finish_idleStarts (u := s.startUp) (by rw [started]; exact running) (by rw [started]; exact stopped)
      (by rw [started]; exact free) idle, started]
    rfl
  · rw [State.reorder, State.finish_reorders, started]
    exact State.closeOrphans_reorder hw i
  · exact List.mem_append_left _ (List.mem_map_of_mem ((State.orphan_reorder_iff hw i).2 ⟨r, open_, gone⟩))
  · rw [State.callout, State.finish_callouts, started]
    refine (State.startBlocks_callout callouts i).trans ?_
    rw [State.closeOrphans_callout hw]
    rfl
  · exact List.mem_append_right _ (List.mem_map_of_mem ((State.orphan_callout_iff hw i).2 ⟨c, open_, gone⟩))
  · rw [State.printer, State.finish_printers]
    exact s.startUp_printer hw p
  · exact s.startUp_changes.trans (ended.wider (by decide))

/-- R45, R169, R170: an account after a cold start. -/
theorem restored_account_good (s : State) (r : ResetCause) {k : Nat} (hk : k ≤ 4095) {c : AccountConfig}
    (config : s.store.accountConfig k = some c) :
    let t := s.restored r
    (t.account k).cfg = { c with valid := (t.account k).cfg.valid, badge := (t.account k).cfg.badge } ∧
    ((t.account k).cfg.valid = true ↔ c.valid = true ∧
      ∀ i < k, ∀ d, s.store.accountConfig i = some d → ¬(d.valid = true ∧ d.number = c.number)) ∧
    (t.account k).cfg.badge = (t.account k).cfg.badge.filter (fun x => c.badge = some x) ∧
    ((t.account k).cfg.badge ≠ none ↔ c.badge ≠ none ∧
      ∀ i < k, ∀ d, s.store.accountConfig i = some d → d.badge ≠ c.badge) ∧
    (t.account k).reserved = 0 ∧ (t.account k).held = [] ∧
    (t.account k).overdrawn = overdrawnFlag c.budget (t.account k).spent ∧
    (∀ n x f, s.store.slot (balanceSlot k) = some (.balance n x f) →
      (t.account k).spent = n ∧ (t.account k).state = x ∧ (t.account k).failures = f) ∧
    (s.store.slot (balanceSlot k) = none → (t.account k).state = .isOpen ∧ (t.account k).failures = 0 ∧
      (t.account k).spent = conservativeSpent c) := by
  have e : (s.restored r).account k = resolveAccount s.store.accounts k (s.store.account k) := by
    rw [s.restored_account, Store.get_accounts hk]
  obtain ⟨cfg, balance⟩ := Store.account_good config
  obtain ⟨h1, h2, h3, h4⟩ := resolveAccount_keys (st := s.store) hk cfg
  intro t
  show _ = _ ∧ _
  rw [e]
  exact ⟨h1, h2, h3, h4, balance⟩

theorem conservativeSpent_eq (c : AccountConfig) :
    conservativeSpent c = if c.valid then (match c.budget with | .finite b => b | .unlimited => 0) else 0 := by
  unfold conservativeSpent
  cases c.valid <;> cases c.budget <;> rfl

/-- Settles O55: the loss of power, the slots read, and the start of the blocks. -/
theorem powerAndColdStart : Obligations.PowerAndColdStart := by
  refine ⟨powerLoss_done, fun s cause off => ?_, fun s starting hw => startUp_done starting hw⟩
  let t := s.restored (ColdCause.reset cause)
  have done : exec (.coldStart cause) s = .next t := by
    show execColdStart cause s = _
    rw [execColdStart, if_pos off]
  refine ⟨t, done, rfl, rfl, rfl, ⟨?_, rfl, rfl⟩, rfl, rfl, rfl, rfl, ⟨rfl, rfl, rfl⟩, ⟨rfl, rfl, rfl, rfl⟩, ⟨rfl, rfl⟩, ?_, rfl,
    fun i hi => s.restored_classEntry _ hi, fun i hi => s.restored_tariff _ hi, decide_eq_true_iff,
    fun i hi => s.restored_reorder _ hi, fun i hi => s.restored_callout _ hi, fun k hk => ⟨fun failed => ?_, fun c config => ?_⟩,
    fun p hp => ?_, fun n failed kind => ?_, fun hc => ⟨?_, ?_, fun n => ?_⟩⟩
  · exact freeList_fresh
  · cases cause <;> rfl
  · show (s.restored _).account k = _
    rw [s.restored_account, Store.get_accounts hk, Store.account_failed failed, resolveAccount_factory]
  · obtain ⟨h1, h2, h3, h4, h5, h6, h7, h8, h9⟩ := restored_account_good s (ColdCause.reset cause) hk config
    exact ⟨h1, h2, h3, h4, h5, h6, h7, h8, fun failed => conservativeSpent_eq c ▸ h9 failed⟩
  · have e : t.printer p = resolvePrinter s.store.printers p (s.store.printer p) := by
      rw [s.restored_printer, Store.get_printers hp]
    rw [e]
    refine ⟨fun failed => ?_, fun c config vacant => ?_, fun c config taken => ?_⟩
    · rw [Store.printer_failed failed, resolvePrinter_vacant _ _ rfl]
    · rw [Store.printer_unused config vacant, resolvePrinter_vacant _ _ vacant]
    · obtain ⟨held, free⟩ := resolvePrinter_taken (st := s.store) hp (Store.printer_cfg config) taken
      exact ⟨held, fun alone => (free alone).trans (Store.printer_configured config taken)⟩
  · refine (s.restored_dirty _ n).2 (.inl (.inl (List.mem_flatMap.2 ⟨n, Store.failed_of_slot failed, ?_⟩)))
    exact (mem_marksOfFailed _ n n).2 (.inl ⟨rfl, kind⟩)
  · exact List.map_congr_left fun k _ => Store.failedCount hc k.1 k.2
  · refine (Store.conservativeCount_eq hc).trans (congrArg List.length (List.filter_congr fun k _ => ?_))
    refine congrArg (_ && ·) ?_
    unfold Store.accountConfig
    generalize s.store.slot (accountSlot k) = x
    cases x with
    | none => rfl
    | some i => cases i <;> rfl
  · refine (s.restored_dirty _ n).trans ?_
    rw [mem_failedMarks hc, mem_movedAccounts s (ColdCause.reset cause), mem_movedPrinters, or_assoc, or_assoc, or_assoc]
    rfl

end Sys2Proof.Machine

/-! PROOFS. Colorant records that come and go (R135, R136, R150). -/

namespace Sys2Proof.Machine

set_option Elab.async false

variable {s t u v : State}

/-! ### The orders of removed colorants (R136, R145) -/

/-- R145: closing an order frees a record, marks its slot and tells of it; or there is none to close. -/
theorem State.closeReorder_eq (s : State) (i : Nat) (d : ReorderDetail) : s.closeReorder i d = s ∨
    ∃ n, s.closeReorder i d = ((s.setReorder i none).mark (reorderSlot i)).notify n := by
  unfold State.closeReorder
  split
  · exact .inl rfl
  · exact .inr ⟨_, rfl⟩

theorem State.closeReorder_keepsDirty {n : Nat} (h : n ∈ s.store.dirty) (i : Nat) (d : ReorderDetail) :
    n ∈ (s.closeReorder i d).store.dirty := by
  rcases s.closeReorder_eq i d with same | ⟨m, told⟩
  · rw [same]; exact h
  · rw [told, ((State.notify_moves _ m).changesOnly .storeWriting (by decide)).1]
    exact State.mem_mark_of_mem (s := s.setReorder i none) _ _ h

theorem State.reorderFreed_changes (s : State) (i : Nat) :
    ChangesOnly [Piece.reorders, .storeWriting] s ((s.setReorder i none).mark (reorderSlot i)) :=
  ((Moves.one (.reorder s i none)).mono.next (State.mark_moves _ _)).changesOnly

theorem State.closeReorder_changes (s : State) (i : Nat) (d : ReorderDetail) :
    ChangesOnly ([Piece.reorders, .storeWriting] ++ noticeTraffic) s (s.closeReorder i d) := by
  rcases s.closeReorder_eq i d with same | ⟨m, told⟩
  · rw [same]; exact ChangesOnly.refl _ _
  · rw [told]
    exact ((s.reorderFreed_changes i).mono (by decide)).trans ((State.notify_moves _ m).changesOnly.mono (by decide))

theorem NoticeFormed.closedReorder {n : Notice} (h : NoticeFormed s t n) (i : Nat) (d : ReorderDetail) :
    NoticeFormed s (t.closeReorder i d) n := by
  rcases t.closeReorder_eq i d with same | ⟨m, told⟩
  · rw [same]; exact h
  · have freed := t.reorderFreed_changes i
    rw [told]
    exact (h.between ⟨rfl, rfl, rfl⟩ ⟨freed.oport, freed.console⟩).notified m

theorem NoticeFormed.of_closedReorder {n : Notice} {i : Nat} {d : ReorderDetail} (h : NoticeFormed (s.closeReorder i d) t n) :
    NoticeFormed s t n := by
  rcases s.closeReorder_eq i d with same | ⟨m, told⟩
  · rwa [same] at h
  · have freed := s.reorderFreed_changes i
    rw [told] at h
    exact h.of_notified.between ⟨freed.oport, freed.console, freed .settings (by decide)⟩ ⟨rfl, rfl⟩

theorem State.closeReorder_reorder (s : State) (i : Nat) (d : ReorderDetail) (x : Nat) :
    (s.closeReorder i d).reorder x = if x = i then none else s.reorder x := by
  cases h : s.reorder i with
  | none =>
    rw [show s.closeReorder i d = s by unfold State.closeReorder; rw [h]]
    split
    next e => rw [e, h]
    next => rfl
  | some o =>
    have closed := State.closeReorder_closed d h
    split
    next e => rw [e, closed.record]
    next e => exact closed.records x e

/-- R136: the orders of a list of records are closed one after another. -/
theorem State.closeReorders_spec (d : ReorderDetail) (l : List Nat) : ∀ s : State,
    let t := l.foldl (fun t i => t.closeReorder i d) s
    (∀ i, t.reorder i = if i ∈ l then none else s.reorder i) ∧
    (∀ i o, i ∈ l → s.reorder i = some o → reorderSlot i ∈ t.store.dirty ∧
      NoticeFormed s t (.reorder i o (s.levelOf o.printer o.colorant) d)) ∧
    ChangesOnly ([Piece.reorders, .storeWriting] ++ noticeTraffic) s t := by
  induction l with
  | nil => exact fun s => ⟨fun i => (if_neg List.not_mem_nil).symm, fun i o h => absurd h List.not_mem_nil, ChangesOnly.refl _ _⟩
  | cons x l ih =>
    intro s
    obtain ⟨records, closed, frame⟩ := ih (s.closeReorder x d)
    have first : ChangesOnly ([Piece.reorders, .storeWriting] ++ noticeTraffic) s (s.closeReorder x d) :=
      s.closeReorder_changes x d
    refine ⟨fun i => (records i).trans ?_, fun i o mem open_ => ?_, first.trans frame⟩
    · rw [State.closeReorder_reorder]
      by_cases hl : i ∈ l
      · simp [hl]
      · by_cases hx : i = x <;> simp [hl, hx]
    · by_cases hx : i = x
      · subst hx
        have now := State.closeReorder_closed d open_
        exact foldl_keeps (P := fun u : State => reorderSlot i ∈ u.store.dirty ∧
            NoticeFormed s u (.reorder i o (s.levelOf o.printer o.colorant) d))
          (fun u y h => ⟨State.closeReorder_keepsDirty h.1 y d, h.2.closedReorder y d⟩) l ⟨now.dirty, now.notice⟩
      · have later : i ∈ l := (List.mem_cons.1 mem).resolve_left hx
        obtain ⟨dirty, told⟩ := closed i o later (by rw [State.closeReorder_reorder, if_neg hx, open_])
        have level : (s.closeReorder x d).levelOf o.printer o.colorant = s.levelOf o.printer o.colorant := by
          unfold State.levelOf
          rw [State.printer_congr (first .printers (by decide))]
        rw [level] at told
        exact ⟨dirty, told.of_closedReorder⟩

/-! ### The removal of colorant records (R136) -/

/-- R136: an entry but for its colorant records. -/
def PrinterOf.bare (e : Printer) : Printer := { e with k := none, c := none, m := none, y := none }

theorem PrinterOf.bare_setSupply (e : Printer) (col : Colorant) (r : Option Supply) :
    PrinterOf.bare (e.setSupply col r) = PrinterOf.bare e := by
  cases col <;> rfl

theorem State.unmark_written (s : State) (n : Nat) :
    (s.unmark n).store.dirty = s.store.dirty.filter (· ≠ n) ∧ (s.unmark n).store.called = s.store.called.filter (· ≠ n) := by
  obtain ⟨q, e⟩ := State.fillQueue_eq { s with store := { s.store with
    dirty := s.store.dirty.filter (· ≠ n), called := s.store.called.filter (· ≠ n)
    queue := s.store.queue.filter (· ≠ n) } }
  rw [State.unmark, e]
  exact ⟨rfl, rfl⟩

/-- R136: one colorant record is removed, and its slot loses mark and call. -/
def State.dropSupply (s : State) (p : Nat) (col : Colorant) : State :=
  (s.putSupply p col none).unmark (colorantSlot p col)

theorem State.dropSupply_entry (s : State) (p : Nat) (col : Colorant) :
    EntryBecomes [.storeWriting] s (s.dropSupply p col) p ((s.printer p).setSupply col none) := by
  have unmarked := (State.unmark_moves (s.putSupply p col none) (colorantSlot p col)).changesOnly
  exact ((s.putSupply_entry p col none).wider nofun).later (unmarked .printers (by decide)) (unmarked.mono (by decide))

/-- R136: the colorant records of a list are removed one after another. -/
theorem State.dropSupplies_spec (p : Nat) (cols : List Colorant) : ∀ s : State,
    let t := cols.foldl (fun t col => t.dropSupply p col) s
    (∀ col, (t.printer p).supply col = if col ∈ cols then none else (s.printer p).supply col) ∧
    PrinterOf.bare (t.printer p) = PrinterOf.bare (s.printer p) ∧ OtherPrinters p s t ∧
    (∀ n, n ∈ t.store.dirty ↔ n ∈ s.store.dirty ∧ ∀ col ∈ cols, n ≠ colorantSlot p col) ∧
    (∀ n, n ∈ t.store.called ↔ n ∈ s.store.called ∧ ∀ col ∈ cols, n ≠ colorantSlot p col) ∧
    ChangesOnly [Piece.printers, .storeWriting] s t := by
  induction cols with
  | nil => exact fun s => ⟨fun _ => by simp, rfl, fun _ _ => rfl, fun n => by simp, fun n => by simp, ChangesOnly.refl _ _⟩
  | cons x cols ih =>
    intro s
    have entry := s.dropSupply_entry p x
    obtain ⟨unmarked, uncalled⟩ := (s.putSupply p x none).unmark_written (colorantSlot p x)
    obtain ⟨supplies, bare, others, dirty, called, frame⟩ := ih (s.dropSupply p x)
    refine ⟨fun col => (supplies col).trans ?_, bare.trans ?_, fun i hi => (others i hi).trans (entry.printers i hi),
      fun n => (dirty n).trans ?_, fun n => (called n).trans ?_, entry.rest.trans frame⟩
    · rw [entry.printer, PrinterOf.supply_setSupply]
      by_cases hl : col ∈ cols
      · simp [hl]
      · by_cases hx : col = x <;> simp [hl, hx]
    · rw [entry.printer, PrinterOf.bare_setSupply]
    · rw [State.dropSupply, unmarked, List.mem_filter, decide_eq_true_eq, List.forall_mem_cons, and_assoc]
      rfl
    · rw [State.dropSupply, uncalled, List.mem_filter, decide_eq_true_eq, List.forall_mem_cons, and_assoc]
      rfl

/-- R136: colorant records are removed: their orders are closed, they go, and the freed records are offered. -/
theorem State.removeSupplies_spec (s : State) {p : Nat} (hp : p ≤ 63) (cols : List Colorant) (why : CloseReason) :
    let freed := cols.filterMap (fun col => s.orderOf p col)
    ∃ u, s.removeSupplies p cols why = freed.foldl State.offerReorder u ∧
      (∀ i, u.reorder i = if i ∈ freed then none else s.reorder i) ∧
      (∀ i o, i ∈ freed → s.reorder i = some o → reorderSlot i ∈ u.store.dirty ∧
        NoticeFormed s u (.reorder i o (s.levelOf o.printer o.colorant) (.closed why))) ∧
      (∀ col, (u.printer p).supply col = if col ∈ cols then none else (s.printer p).supply col) ∧
      PrinterOf.bare (u.printer p) = PrinterOf.bare (s.printer p) ∧
      OtherPrinters p s u ∧ (∀ col ∈ cols, colorantSlot p col ∉ u.store.dirty ∧ colorantSlot p col ∉ u.store.called) ∧
      ChangesOnly supplyPieces s u := by
  intro freed
  let a := freed.foldl (fun t i => t.closeReorder i (.closed why)) s
  obtain ⟨records, closed, first⟩ := State.closeReorders_spec (.closed why) freed s
  obtain ⟨supplies, bare, others, dirty, called, second⟩ := State.dropSupplies_spec p cols a
  have entries (i : Nat) : a.printer i = s.printer i := State.printer_congr (first .printers (by decide)) i
  refine ⟨cols.foldl (fun t col => t.dropSupply p col) a, rfl, fun i => ?_, fun i o mem open_ => ⟨?_, ?_⟩, fun col => ?_, ?_,
    fun i hi => (others i hi).trans (entries i), fun col mem => ⟨fun h => ?_, fun h => ?_⟩, ?_⟩
  · exact (State.reorder_congr (second .reorders (by decide)) i).trans (records i)
  · refine (dirty _).2 ⟨(closed i o mem open_).1, fun col _ same => ?_⟩
    have place := colorantIndex_lt col
    unfold reorderSlot colorantSlot at same
    omega
  · exact (closed i o mem open_).2.between ⟨rfl, rfl, rfl⟩ ⟨second.oport, second.console⟩
  · rw [supplies, entries]
  · rw [bare, entries]
  · exact ((dirty _).1 h).2 col mem rfl
  · exact ((called _).1 h).2 col mem rfl
  · exact (first.mono (by decide)).trans (second.mono (by decide))

/-! ### Colorant records created and written (R135, R136) -/

/-- R136: colorant records are created one after another, and their slots are dirty. -/
theorem State.createSupplies_entry (p : Nat) (f : Colorant → SupplyFields) (cols : List Colorant) : ∀ s : State,
    let t := cols.foldl (fun t col => t.createSupply p col (f col)) s
    EntryBecomes [.storeWriting] s t p
      (cols.foldl (fun e col => PrinterOf.setSupply e col (some (Supply.create (f col)))) (s.printer p)) ∧
    (∀ n ∈ s.store.dirty, n ∈ t.store.dirty) ∧ ∀ col ∈ cols, colorantSlot p col ∈ t.store.dirty := by
  induction cols with
  | nil => exact fun s => ⟨⟨rfl, fun _ _ => rfl, ChangesOnly.refl _ _⟩, fun _ h => h, fun _ h => absurd h List.not_mem_nil⟩
  | cons x cols ih =>
    intro s
    have entry : EntryBecomes [.storeWriting] s (s.createSupply p x (f x)) p _ :=
      ((s.putSupply_entry p x _).wider nofun).marked (colorantSlot p x) (by decide)
    obtain ⟨rest, kept, dirty⟩ := ih (s.createSupply p x (f x))
    rw [entry.printer] at rest
    refine ⟨entry.trans rest, fun n h => kept n (State.mem_mark_of_mem (s := s.putSupply p x _) _ _ h), fun col mem => ?_⟩
    rcases List.mem_cons.1 mem with rfl | later
    · exact kept _ (State.mem_mark _)
    · exact dirty col later

/-- R135: a colorant record as a write leaves it. -/
def Supply.written (r : Supply) (f : SupplyFields) (leavesFull : Bool) : Supply :=
  { r with cfg := supplyStored f, remaining := min r.remaining (supplyStored f).yield, empty := r.empty && !leavesFull }

/-- R135: an entry of which one colorant record, if it has it, is written. -/
def PrinterOf.supplyWritten (e : Printer) (f : Colorant → SupplyFields) (leavesFull : Bool) (col : Colorant) : Printer :=
  e.setSupply col ((e.supply col).map (fun r => r.written (f col) leavesFull))

theorem State.writeSupply_entry (s : State) (p : Nat) (f : Colorant → SupplyFields) (b : Bool) (col : Colorant) :
    EntryBecomes [.storeWriting] s (s.writeSupply p (f col) b col) p (PrinterOf.supplyWritten (s.printer p) f b col) := by
  unfold State.writeSupply PrinterOf.supplyWritten
  cases h : (s.printer p).supply col with
  | none =>
    dsimp only
    rw [Option.map_none, ← h, PrinterOf.setSupply_self]
    exact ⟨rfl, fun _ _ => rfl, ChangesOnly.refl _ _⟩
  | some r => exact s.setSupply_entry p col (r.written (f col) b)

theorem State.writeSupplies_entry (p : Nat) (f : Colorant → SupplyFields) (b : Bool) (cols : List Colorant) : ∀ s : State,
    EntryBecomes [.storeWriting] s (cols.foldl (fun t col => t.writeSupply p (f col) b col) s) p
      (cols.foldl (fun e col => PrinterOf.supplyWritten e f b col) (s.printer p)) := by
  induction cols with
  | nil => exact fun s => ⟨rfl, fun _ _ => rfl, ChangesOnly.refl _ _⟩
  | cons x cols ih =>
    intro s
    have entry := s.writeSupply_entry p f b x
    have rest := ih (s.writeSupply p (f x) b x)
    rw [entry.printer] at rest
    exact entry.trans rest

end Sys2Proof.Machine

/-! PROOFS. PRINTER_WRITE (R84, R111, R130, R135, R136): its tests in order, and the entry that a write leaves. -/

namespace Sys2Proof.Machine

set_option Elab.async false

variable {s t u v : State} {p : Nat} {f : PrinterFields}

/-! ### The tests (R84) -/

/-- R84: the tests of a printer write in their order. -/
def State.printerTests (s : State) (p : Nat) (f : PrinterFields) : List (Prop × Result) :=
  let e := s.printer p
  [((∃ n, f.cfg.name = some n ∧ 16 < n.length) ∨ 15 < f.cfg.group ∨ 3 < f.cfg.band ∨ f.modeKnown = false, .notAccepted),
    (f.cfg.station ≠ none ∧ (∃ q, q ≠ p ∧ (s.printer q).cfg.station = f.cfg.station), .entryLocked),
    ((e.service = .inService ∨ e.service = .parking) ∧ (e.cfg.station ≠ f.cfg.station ∨ e.cfg.group ≠ f.cfg.group ∨
      e.cfg.colourCapable ≠ f.cfg.colourCapable ∨ e.cfg.largeCapable ≠ f.cfg.largeCapable ∨ e.cfg.band ≠ f.cfg.band ∨
      e.cfg.mode ≠ f.cfg.mode), .entryLocked)]

theorem lockedChange_iff (old new : PrinterConfig) : lockedChange old new = true ↔
    old.station ≠ new.station ∨ old.group ≠ new.group ∨ old.colourCapable ≠ new.colourCapable ∨
      old.largeCapable ≠ new.largeCapable ∨ old.band ≠ new.band ∨ old.mode ≠ new.mode := by
  simp [lockedChange, or_assoc]

/-- R84: the refusal of a printer write is the answer of the first test that holds. -/
theorem State.printerRefusal_iff (h : s.TablesCanonical) (p : Nat) (f : PrinterFields) (r : Result) :
    s.printerRefusal p f = some r ↔ FirstOf (s.printerTests p f) r := by
  have shape : ((f.cfg.name.any (fun n => decide (16 < n.length))) || 15 < f.cfg.group || 3 < f.cfg.band || !f.modeKnown) = true ↔
      (∃ n, f.cfg.name = some n ∧ 16 < n.length) ∨ 15 < f.cfg.group ∨ 3 < f.cfg.band ∨ f.modeKnown = false := by
    simp [or_assoc, Option.any_eq_true]
  have station : (f.cfg.station.isSome && s.printers.any (fun x => decide (x.1 ≠ p) && x.2.cfg.station == f.cfg.station)) = true ↔
      f.cfg.station ≠ none ∧ ∃ q, q ≠ p ∧ (s.printer q).cfg.station = f.cfg.station := by
    rw [Bool.and_eq_true, Option.isSome_iff_ne_none]
    refine and_congr_right fun taken => ?_
    have factory : (printerFactory.cfg.station == f.cfg.station) = false := beq_false_of_ne (Ne.symm taken)
    rw [Tbl.any_iff (d := printerFactory) (f := fun q (e : Printer) => decide (q ≠ p) && e.cfg.station == f.cfg.station)
      (Tbl.rising_of_wf h.printers) fun q => by rw [factory, Bool.and_false]]
    simp [State.printer]
  have locked : ((decide ((s.printer p).service = .inService) || decide ((s.printer p).service = .parking)) &&
      lockedChange (s.printer p).cfg f.cfg) = true ↔ ((s.printer p).service = .inService ∨ (s.printer p).service = .parking) ∧
        ((s.printer p).cfg.station ≠ f.cfg.station ∨ (s.printer p).cfg.group ≠ f.cfg.group ∨
          (s.printer p).cfg.colourCapable ≠ f.cfg.colourCapable ∨ (s.printer p).cfg.largeCapable ≠ f.cfg.largeCapable ∨
          (s.printer p).cfg.band ≠ f.cfg.band ∨ (s.printer p).cfg.mode ≠ f.cfg.mode) := by
    rw [Bool.and_eq_true, Bool.or_eq_true, decide_eq_true_eq, decide_eq_true_eq, lockedChange_iff]
  unfold State.printerRefusal State.printerTests
  dsimp only
  rw [some_ite_iff, some_ite_iff, some_ite_iff, shape, station, locked]
  simp only [FirstOf.cons_iff, FirstOf.nil_iff, reduceCtorEq]

theorem State.restartIdle_printerTests (s : State) (p : Nat) (f : PrinterFields) :
    s.restartIdle.printerTests p f = s.printerTests p f := by
  unfold State.printerTests
  simp only [State.restartIdle_printer]

theorem printerWrite_refused {h : Hdr} {r : Result} (hr : ConsoleReady h s) (hc : s.TablesCanonical)
    (first : FirstOf ((63 < p, Result.badIndex) :: s.printerTests p f) r) :
    CarriedOut (.printerWrite h (some (p, f))) h s s r := by
  refine carriedOut_unchanged (act := printerRule) (x := (p, f)) hr rfl ?_
  unfold printerRule
  rcases (FirstOf.cons_iff _ _ _ _).1 first with ⟨beyond, rfl⟩ | ⟨within, first⟩
  · exact if_pos beyond
  · rw [← s.restartIdle_printerTests] at first
    have inTable : ¬Config.printers ≤ p := within
    simp only [if_neg inTable, (State.printerRefusal_iff hc.restartIdle p f r).2 first]
    rfl

theorem printerRule_accepted (hc : s.TablesCanonical)
    (passes : ∀ r, ¬FirstOf ((63 < p, Result.badIndex) :: s.printerTests p f) r) :
    printerRule (p, f) s = { state := s.writePrinter p f, result := .ok } := by
  have inTable : ¬Config.printers ≤ p := fun beyond => passes _ ((FirstOf.cons_iff _ _ _ _).2 (.inl ⟨beyond, rfl⟩))
  have accepted : s.printerRefusal p f = none := by
    cases e : s.printerRefusal p f with
    | none => rfl
    | some r => exact absurd ((FirstOf.skip inTable).2 ((State.printerRefusal_iff hc p f r).1 e)) (passes r)
  unfold printerRule
  simp only [if_neg inTable, accepted]

theorem printerWrite_accepted {h : Hdr} (hr : ConsoleReady h s) (hc : s.TablesCanonical)
    (passes : ∀ r, ¬FirstOf ((63 < p, Result.badIndex) :: s.printerTests p f) r)
    (written : s.restartIdle.writePrinter p f = u) : CarriedOut (.printerWrite h (some (p, f))) h s u .ok := by
  refine carriedOut_of (act := printerRule) (x := (p, f)) hr rfl ?_ (written ▸ s.restartIdle.writePrinter_moves p f)
  rw [printerRule_accepted hc.restartIdle (by rw [s.restartIdle_printerTests]; exact passes), written]

/-! ### Which write it is (R84) -/

section Which

theorem State.writePrinter_unused (unused : (s.printer p).service = .unused) (vacant : f.cfg.station = none) :
    s.writePrinter p f = s.writeUnused p f := by
  unfold State.writePrinter
  rw [unused, vacant]

theorem State.writePrinter_configures (unused : (s.printer p).service = .unused) (taken : f.cfg.station ≠ none) :
    s.writePrinter p f = s.configure p f := by
  obtain ⟨n, station⟩ := Option.ne_none_iff_exists'.1 taken
  unfold State.writePrinter
  rw [unused, station]

theorem State.writePrinter_unconfigures (used : (s.printer p).service ≠ .unused) (vacant : f.cfg.station = none) :
    s.writePrinter p f = s.unconfigure p f := by
  unfold State.writePrinter
  rw [vacant]
  cases h : (s.printer p).service with
  | unused => exact absurd h used
  | _ => rfl

theorem State.writePrinter_reconfigures (used : (s.printer p).service ≠ .unused) (taken : f.cfg.station ≠ none) :
    s.writePrinter p f = s.reconfigure p f := by
  obtain ⟨n, station⟩ := Option.ne_none_iff_exists'.1 taken
  unfold State.writePrinter
  rw [station]
  cases h : (s.printer p).service with
  | unused => exact absurd h used
  | _ => rfl

end Which

/-! ### The entry written (R84, R130, R135, R136) -/

theorem mem_colorantsOf (b : Bool) (col : Colorant) : col ∈ colorantsOf b ↔ col = .k ∨ b = true := by
  cases b with
  | true => exact iff_of_true (mem_colorants col) (.inr rfl)
  | false => simp [colorantsOf]

theorem State.writeUnused_entry (s : State) (p : Nat) (f : PrinterFields) :
    EntryBecomes [.storeWriting] s (s.writeUnused p f) p { s.printer p with cfg := printerConfigStored f.cfg } ∧
      printerSlot p ∈ (s.writeUnused p f).store.dirty :=
  ⟨((s.updPrinter_entry p _).wider nofun).marked _ (by decide), State.mem_mark _⟩

/-- R136: an entry whose colorants are created. -/
theorem PrinterOf.colorantsCreated_eq (e : Printer) (g : Colorant → Supply) (b : Bool) :
    (colorantsOf b).foldl (fun e col => PrinterOf.setSupply e col (some (g col))) e = { e with
      k := some (g .k), c := if b then some (g .c) else e.c, m := if b then some (g .m) else e.m
      y := if b then some (g .y) else e.y } := by
  cases b <;> rfl

/-- R84, R110, R130, R136: an Unused entry that is given a station is Parked, and has its colorants as created. -/
theorem State.configure_entry (s : State) (p : Nat) (f : PrinterFields) :
    let c := printerConfigStored f.cfg
    EntryBecomes [.storeWriting] s (s.configure p f) p { s.printer p with
        cfg := c, service := .parked, score := 0, health := .active
        standing := { Standing.none with unreachable := decide (c.mode ≠ .silent) }, faulted := false, lastFault := none
        owed := none, presence := .stopped, limit := .stopped, k := some (Supply.create (supplyStored f.k))
        c := if c.colourCapable then some (Supply.create (supplyStored f.c)) else (s.printer p).c
        m := if c.colourCapable then some (Supply.create (supplyStored f.m)) else (s.printer p).m
        y := if c.colourCapable then some (Supply.create (supplyStored f.y)) else (s.printer p).y } ∧
      printerSlot p ∈ (s.configure p f).store.dirty ∧ healthSlot p ∈ (s.configure p f).store.dirty ∧
      ∀ col, col = .k ∨ c.colourCapable = true → colorantSlot p col ∈ (s.configure p f).store.dirty := by
  intro c
  let e : Printer := { (s.printer p).healthReset (c.mode != .silent) with cfg := c, service := .parked }
  let a := s.updPrinter p fun e => { e.healthReset (c.mode != .silent) with cfg := c, service := .parked }
  let b := (a.mark (printerSlot p)).mark (healthSlot p)
  have reset : EntryBecomes [.storeWriting] s b p e :=
    (((s.updPrinter_entry p _).wider nofun).marked _ (by decide)).marked _ (by decide)
  obtain ⟨created, kept, dirty⟩ :=
    State.createSupplies_entry p (fun col => supplyStored (f.supply col)) (colorantsOf c.colourCapable) b
  rw [reset.printer] at created
  have unreachable : (c.mode != .silent) = decide (c.mode ≠ .silent) := by cases c.mode <;> rfl
  refine ⟨?_, kept _ (State.mem_mark_of_mem (s := a.mark _) _ _ (State.mem_mark _)), kept _ (State.mem_mark _),
    fun col has => dirty col ((mem_colorantsOf _ col).2 has)⟩
  rw [PrinterOf.colorantsCreated_eq (g := fun col => Supply.create (supplyStored (f.supply col)))] at created
  rw [← unreachable]
  exact reset.trans created

end Sys2Proof.Machine

/-! PROOFS. PRINTER_WRITE (R84, R111, R130, R135, R136): an entry that becomes Unused, one that stays configured, and the
command. -/

namespace Sys2Proof.Machine

set_option Elab.async false

variable {s t u v : State} {p : Nat} {f : PrinterFields}

theorem EntryBecomes.refl (l : List Piece) (s : State) (p : Nat) : EntryBecomes l s s p (s.printer p) :=
  ⟨rfl, fun _ _ => rfl, ChangesOnly.refl _ _⟩

/-! ### An entry that becomes Unused (R130, R136) -/

/-- R84, R130: the entry without its station, before its callout and its colorants go. -/
def State.stationRemoved (s : State) (p : Nat) (f : PrinterFields) : State :=
  ((s.updPrinter p fun e => { e.healthReset false with cfg := printerConfigStored f.cfg, service := .unused }).mark
    (printerSlot p)).mark (healthSlot p)

theorem State.stationRemoved_entry (s : State) (p : Nat) (f : PrinterFields) :
    EntryBecomes [.storeWriting] s (s.stationRemoved p f) p
      { (s.printer p).healthReset false with cfg := printerConfigStored f.cfg, service := .unused } ∧
    printerSlot p ∈ (s.stationRemoved p f).store.dirty ∧ healthSlot p ∈ (s.stationRemoved p f).store.dirty := by
  let a := s.updPrinter p fun e => { e.healthReset false with cfg := printerConfigStored f.cfg, service := .unused }
  exact ⟨(((s.updPrinter_entry p _).wider nofun).marked _ (by decide)).marked _ (by decide),
    State.mem_mark_of_mem (s := a.mark _) _ _ (State.mem_mark _), State.mem_mark _⟩

/-- R130: the callout of the entry, if one is open, is closed, and its record is offered. -/
def State.calloutRemoved (s : State) (p : Nat) : State :=
  ((s.calloutOf p).map fun i => (s.closeRecord i .entryRemoved).offerCallout i).getD s

theorem State.unconfigure_eq (s : State) (p : Nat) (f : PrinterFields) : s.unconfigure p f =
    let v := (s.stationRemoved p f).calloutRemoved p
    v.removeSupplies p ([Colorant.k, .c, .m, .y].filter (fun col => ((v.printer p).supply col).isSome)) .entryRemoved := by
  unfold State.unconfigure State.calloutRemoved State.stationRemoved
  dsimp only
  generalize State.mark _ (healthSlot p) = w
  cases w.calloutOf p <;> rfl

theorem State.calloutOf_congr (h : t.callouts = s.callouts) (p : Nat) : t.calloutOf p = s.calloutOf p := by
  unfold State.calloutOf
  rw [h]

/-! ### An entry that stays configured (R111, R130, R135, R136) -/

/-- R135: what a write makes of a colorant record, and what a change of mode from FULL makes of its reported-empty flag. -/
theorem Supply.written_eq (r : Supply) (n : SupplyFields) (old new : ReportMode) :
    r.written n (old == .full && new != .full) = { r with
      cfg := supplyStored n, remaining := min r.remaining (supplyStored n).yield
      empty := if old = .full ∧ new ≠ .full then false else r.empty } := by
  have flag : (r.empty && !(old == .full && new != .full)) = if old = .full ∧ new ≠ .full then false else r.empty := by
    by_cases leaves : old = .full ∧ new ≠ .full
    · rw [if_pos leaves, leaves.1, bne_iff_ne.2 leaves.2]
      exact Bool.and_false _
    · have stays : (old == .full && new != .full) = false := by
        rw [← Bool.not_eq_true, Bool.and_eq_true, beq_iff_eq, bne_iff_ne]
        exact leaves
      rw [if_neg leaves, stays]
      exact Bool.and_true _
  unfold Supply.written
  rw [flag]

/-- R135: an entry whose colorants are written. -/
theorem PrinterOf.colorantsWritten_eq (e : Printer) (g : Colorant → SupplyFields) (x b : Bool) :
    (colorantsOf b).foldl (fun e col => PrinterOf.supplyWritten e g x col) e = { e with
      k := e.k.map (fun r => r.written (g .k) x), c := if b then e.c.map (fun r => r.written (g .c) x) else e.c
      m := if b then e.m.map (fun r => r.written (g .m) x) else e.m
      y := if b then e.y.map (fun r => r.written (g .y) x) else e.y } := by
  cases b <;> rfl

/-- R111: the configuration of an entry is stored. -/
def State.configStored (s : State) (p : Nat) (f : PrinterFields) : State :=
  (s.updPrinter p fun e => { e with cfg := printerConfigStored f.cfg }).mark (printerSlot p)

theorem State.configStored_entry (s : State) (p : Nat) (f : PrinterFields) :
    EntryBecomes [.storeWriting] s (s.configStored p f) p { s.printer p with cfg := printerConfigStored f.cfg } ∧
    printerSlot p ∈ (s.configStored p f).store.dirty :=
  ⟨((s.updPrinter_entry p _).wider nofun).marked _ (by decide), State.mem_mark _⟩

/-- R130: what a change of report mode makes of the entry. -/
theorem State.changeMode_spec (awake : s.asleep = false) (old new : ReportMode) :
    (old ≠ .silent → new = .silent → ∃ z, EntryBecomes [] s z p { s.printer p with
      standing := { (s.printer p).standing with unreachable := false }, presence := .stopped } ∧
      s.changeMode p old new = z.closeTest p) ∧
    (old = .silent → new ≠ .silent → EntryBecomes [] s (s.changeMode p old new) p
      { s.printer p with presence := .running (s.printer p).cfg.presenceInterval }) ∧
    ((old = .silent ↔ new = .silent) → s.changeMode p old new = s) := by
  unfold State.changeMode
  refine ⟨fun heard silent => ⟨_, s.updPrinter_entry p _, if_pos ⟨heard, silent⟩⟩, fun silent heard => ?_, fun same => ?_⟩
  · rw [if_neg (fun h => h.1 silent), if_pos ⟨silent, heard⟩]
    have entry := s.updPrinter_entry p fun e => { e with presence := s.startTimer e.cfg.presenceInterval }
    rwa [s.startTimer_awake awake] at entry
  · rw [if_neg (fun h => h.1 (same.2 h.2)), if_neg (fun h => h.2 (same.1 h.1))]

/-- R136: what a change of the colour capability makes of the entry. -/
theorem State.changeColour_spec (s : State) (p : Nat) (old new : Bool) :
    (old = new → s.changeColour p old new = s) ∧
    (old = false → new = true → EntryBecomes [.storeWriting] s (s.changeColour p old new) p { s.printer p with
      c := some (Supply.create SupplyFields.factory), m := some (Supply.create SupplyFields.factory)
      y := some (Supply.create SupplyFields.factory) }) ∧
    (old = true → new = false → s.changeColour p old new = s.removeSupplies p [.c, .m, .y] .entryChanged) := by
  refine ⟨fun same => if_pos same, ?_, ?_⟩
  · rintro rfl rfl
    exact (State.createSupplies_entry p (fun _ => SupplyFields.factory) [.c, .m, .y] s).1
  · rintro rfl rfl
    rfl

/-- R135: the colorants of an entry are written, those that it has before and after. -/
def State.suppliesWritten (s : State) (p : Nat) (f : PrinterFields) (old new : PrinterConfig) : State :=
  (colorantsOf (old.colourCapable && new.colourCapable)).foldl
    (fun t col => t.writeSupply p (f.supply col) (old.mode == .full && new.mode != .full) col) s

theorem State.suppliesWritten_entry (s : State) (p : Nat) (f : PrinterFields) (old new : PrinterConfig) :
    let kept (n : SupplyFields) (r : Supply) : Supply := { r with
      cfg := supplyStored n, remaining := min r.remaining (supplyStored n).yield
      empty := if old.mode = .full ∧ new.mode ≠ .full then false else r.empty }
    let both := old.colourCapable && new.colourCapable
    let g := s.printer p
    EntryBecomes [.storeWriting] s (s.suppliesWritten p f old new) p { g with
      k := g.k.map (kept f.k), c := if both then g.c.map (kept f.c) else g.c
      m := if both then g.m.map (kept f.m) else g.m, y := if both then g.y.map (kept f.y) else g.y } := by
  have entry := State.writeSupplies_entry p f.supply (old.mode == .full && new.mode != .full)
    (colorantsOf (old.colourCapable && new.colourCapable)) s
  rw [PrinterOf.colorantsWritten_eq] at entry
  simp only [Supply.written_eq] at entry
  exact entry

theorem State.reconfigure_eq (s : State) (p : Nat) (f : PrinterFields) : s.reconfigure p f =
    (((s.configStored p f).changeMode p (s.printer p).cfg.mode f.cfg.mode).suppliesWritten p f (s.printer p).cfg
      (printerConfigStored f.cfg)).changeColour p (s.printer p).cfg.colourCapable f.cfg.colourCapable := rfl

theorem EntryBecomes.from_restartIdle {p : Nat} {e : Printer} (h : EntryBecomes [.storeWriting] s.restartIdle u p e) :
    EntryBecomes [.storeWriting, .idleTimer] s u p e :=
  (h.wider (by decide)).of_restartIdle (by decide)

/-- Settles O49: the tests in order, the write in each of its cases, and the removal of colorant records. -/
theorem printerWrites : Obligations.PrinterWrites := by
  refine ⟨fun h p f s hr hc => ⟨fun r first => printerWrite_refused hr hc first, fun passes => ?_⟩,
    fun s p cols why hp => s.removeSupplies_spec hp cols why⟩
  let i := s.restartIdle
  have entry (q : Nat) : i.printer q = s.printer q := State.restartIdle_printer q
  have carried {w : State} (written : i.writePrinter p f = w) : CarriedOut (.printerWrite h (some (p, f))) h s w .ok :=
    printerWrite_accepted hr hc passes written
  have service : (i.printer p).service = (s.printer p).service := by rw [entry]
  refine ⟨fun unused vacant => ?_, fun unused taken => ?_, fun used vacant => ?_, fun used taken => ?_⟩
  · obtain ⟨written, dirty⟩ := i.writeUnused_entry p f
    rw [entry] at written
    exact ⟨_, written.from_restartIdle, dirty, carried (State.writePrinter_unused (service.trans unused) vacant)⟩
  · obtain ⟨written, config, health, colorants⟩ := i.configure_entry p f
    rw [entry] at written
    exact ⟨_, written.from_restartIdle, config, health, colorants,
      carried (State.writePrinter_configures (service.trans unused) taken)⟩
  · obtain ⟨written, config, health⟩ := i.stationRemoved_entry p f
    have callout : (i.stationRemoved p f).calloutOf p = s.calloutOf p :=
      State.calloutOf_congr (written.from_restartIdle.rest .callouts (by decide)) p
    rw [entry] at written
    refine ⟨i.stationRemoved p f, (i.stationRemoved p f).calloutRemoved p, written.from_restartIdle, config, health,
      fun closed => ?_, fun x open_ => ?_,
      carried ((State.writePrinter_unconfigures (service ▸ used) vacant).trans (i.unconfigure_eq p f))⟩
    · unfold State.calloutRemoved
      rw [callout, closed]
      rfl
    · unfold State.calloutRemoved
      rw [callout, open_]
      rfl
  · let u := i.configStored p f
    let v := u.changeMode p (s.printer p).cfg.mode f.cfg.mode
    let w := v.suppliesWritten p f (s.printer p).cfg (printerConfigStored f.cfg)
    obtain ⟨written, config⟩ := i.configStored_entry p f
    rw [entry] at written
    have awake : u.asleep = false := (State.asleep_congr written.from_restartIdle.rest).trans hr.awake
    obtain ⟨silenced, heard, kept⟩ := u.changeMode_spec (p := p) awake (s.printer p).cfg.mode f.cfg.mode
    obtain ⟨same, gains, loses⟩ := w.changeColour_spec p (s.printer p).cfg.colourCapable f.cfg.colourCapable
    rw [written.printer] at silenced heard
    have done : i.writePrinter p f = w.changeColour p (s.printer p).cfg.colourCapable f.cfg.colourCapable := by
      rw [State.writePrinter_reconfigures (service ▸ used) taken, State.reconfigure_eq, entry]
    refine ⟨u, v, w, written.from_restartIdle, config, silenced, heard, kept, v.suppliesWritten_entry p f _ _,
      fun equal => carried (done.trans (same equal)), fun was is => ⟨_, gains was is, carried done⟩,
      fun was is => carried (done.trans (loses was is))⟩

end Sys2Proof.Machine

/-! PROOFS. Where the jobs stand (R10, R32 to R34, R37, R88, R90): what of a state says it, as pure data; when the data are sound;
and that they stay so when a job leaves its place, takes a place, or moves from one to another. -/

namespace Sys2Proof.Machine

set_option Elab.async false

/-! ### The data -/

/-- What of a job record says where it belongs. -/
structure Placing where
  tag : Nat
  state : JobState
  account : Nat
  reservation : Option Nat

def Job.placing (j : Job) : Placing := { tag := j.tag, state := j.state, account := j.account, reservation := j.reservation }

/-- The collections of jobs: the Job Table, the receiving contexts, the Held Lists and reserved of the accounts, and the Delivery
Queues and control lists of the printers. -/
@[ext] structure Places where
  recs : List Placing
  contexts : List Nat
  held : Nat → List Nat
  reserved : Nat → Nat
  queue : Nat → List Nat
  control : Nat → List OwnMsg

def State.places (s : State) : Places :=
  { recs := s.jobs.recs.map Job.placing, contexts := s.jobs.contexts.filterMap (Option.map Context.tag)
    held := fun k => (s.account k).held, reserved := fun k => (s.account k).reserved
    queue := fun p => (s.printer p).queue, control := fun p => (s.printer p).control }

/-- A job that prints from a Delivery Queue. -/
def Places.Prints (v : Places) (p g : Nat) : Prop := g ∈ v.queue p ∧ ∃ j ∈ v.recs, j.tag = g ∧ j.state = .printing

/-- The reservations of an account's jobs. -/
def reservedBy (l : List Placing) (k : Nat) : Nat :=
  ((l.filter (fun j => j.account == k)).map (fun j => j.reservation.getD 0)).sum

/-- At most one STREAM_CANCEL, and nothing else. -/
def OnlyCancels (c : List OwnMsg) : Prop := c = [] ∨ ∃ m, c = [m] ∧ m.body = .streamCancel

/-- R90: a control list that fits the jobs that print. -/
def ControlFits (c : List OwnMsg) (prints : Nat → Prop) : Prop :=
  c = [] ∨ (OnlyCancels c ∧ ∀ g, ¬prints g) ∨
    ∃ g, prints g ∧ ∃ cancels m, OnlyCancels cancels ∧ m.isBeginOf g = true ∧ c = cancels ++ [m]

/-- R90: the control lists fit the jobs that print, a job whose stream has been stopped not being one of them. -/
def Places.Controlled (o : Option Nat) (v : Places) : Prop :=
  ∀ p, ControlFits (v.control p) (fun g => v.Prints p g ∧ o ≠ some g)

/-- R10, R32 to R34, R37, R88, R90: every job is in the collection of its state and in no other, the stream of one job, at most,
being stopped while it still prints. -/
structure Places.Sound (o : Option Nat) (v : Places) : Prop where
  tags : (v.recs.map Placing.tag).Nodup
  held : ∀ k g, g ∈ v.held k ↔ ∃ j ∈ v.recs, j.tag = g ∧ j.state = .held ∧ j.account = k
  heldOnce : ∀ k, (v.held k).Nodup
  queued : ∀ g, (∃ p, g ∈ v.queue p) ↔ ∃ j ∈ v.recs, j.tag = g ∧ j.state.inDelivery = true
  queuedOnce : ∀ p, (v.queue p).Nodup
  apart : ∀ p q, p ≠ q → ∀ g ∈ v.queue p, g ∉ v.queue q
  printing : ∀ p g x, v.Prints p g → v.Prints p x → g = x
  receiving : ∀ g, g ∈ v.contexts ↔ ∃ j ∈ v.recs, j.tag = g ∧ j.state = .receiving
  receivingOnce : v.contexts.Nodup
  reserved : ∀ k, v.reserved k = reservedBy v.recs k
  reservation : ∀ j ∈ v.recs, j.reservation ≠ none → j.state.inDelivery = true
  control : v.Controlled o

theorem ControlFits.congr {c : List OwnMsg} {a b : Nat → Prop} (h : ControlFits c a) (same : ∀ g, a g ↔ b g) :
    ControlFits c b := by
  rwa [← show a = b from funext fun g => propext (same g)]

theorem OnlyCancels.fits {c : List OwnMsg} {a : Nat → Prop} (h : OnlyCancels c) (idle : ∀ g, ¬a g) : ControlFits c a :=
  .inr (.inl ⟨h, idle⟩)

/-- With no job printing a control list holds no STREAM_BEGIN. -/
theorem ControlFits.onlyCancels {c : List OwnMsg} {a : Nat → Prop} (h : ControlFits c a) (idle : ∀ g, ¬a g) : OnlyCancels c := by
  rcases h with none | ⟨cancels, -⟩ | ⟨g, prints, -⟩
  · exact .inl none
  · exact cancels
  · exact absurd prints (idle g)

/-! ### A job among the others -/

section

variable {v w : Places} {j : Placing} {o : Option Nat}

theorem Places.Sound.unique (h : v.Sound o) {i j : Placing} (hi : i ∈ v.recs) (hj : j ∈ v.recs) (same : i.tag = j.tag) : i = j :=
  List.inj_on_of_nodup_map h.tags hi hj same

/-- The records but for one. -/
def Places.others (v : Places) (g : Nat) : List Placing := v.recs.filter (fun i => decide (i.tag ≠ g))

theorem Places.mem_others {g : Nat} {i : Placing} : i ∈ v.others g ↔ i ∈ v.recs ∧ i.tag ≠ g := by
  simp [Places.others]

theorem Places.Sound.recs_perm (h : v.Sound o) (hj : j ∈ v.recs) : v.recs.Perm (j :: v.others j.tag) := by
  have nodup : v.recs.Nodup := List.Nodup.of_map _ h.tags
  refine (List.perm_ext_iff_of_nodup nodup ?_).2 fun i => ?_
  · exact List.nodup_cons.2 ⟨fun mem => (Places.mem_others.1 mem).2 rfl, nodup.filter _⟩
  · rw [List.mem_cons, Places.mem_others]
    constructor
    · intro mem
      by_cases same : i.tag = j.tag
      · exact .inl (h.unique mem hj same)
      · exact .inr ⟨mem, same⟩
    · rintro (rfl | ⟨mem, -⟩)
      · exact hj
      · exact mem

theorem reservedBy_perm {l m : List Placing} (h : l.Perm m) (k : Nat) : reservedBy l k = reservedBy m k :=
  ((h.filter _).map _).sum_eq

theorem reservedBy_cons (j : Placing) (l : List Placing) (k : Nat) :
    reservedBy (j :: l) k = (if k = j.account then j.reservation.getD 0 else 0) + reservedBy l k := by
  unfold reservedBy
  rw [List.filter_cons]
  by_cases here : j.account = k
  · rw [if_pos (beq_iff_eq.2 here), List.map_cons, List.sum_cons, if_pos here.symm]
  · rw [if_neg (fun h => here (beq_iff_eq.1 h)), if_neg (Ne.symm here), Nat.zero_add]

theorem reservedBy_others (h : v.Sound o) (hj : j ∈ v.recs) (k : Nat) :
    reservedBy v.recs k = (if k = j.account then j.reservation.getD 0 else 0) + reservedBy (v.others j.tag) k := by
  rw [reservedBy_perm (h.recs_perm hj), reservedBy_cons]

/-- A job in delivery is in a Delivery Queue, and it alone says which. -/
theorem Places.Sound.queue_of (h : v.Sound o) {p g : Nat} (mem : g ∈ v.queue p) :
    ∃ j ∈ v.recs, j.tag = g ∧ j.state.inDelivery = true :=
  (h.queued g).1 ⟨p, mem⟩

/-- A job that prints is the one. -/
theorem Places.Sound.prints_iff (h : v.Sound o) (hj : j ∈ v.recs) (p : Nat) :
    v.Prints p j.tag ↔ j.state = .printing ∧ j.tag ∈ v.queue p := by
  constructor
  · rintro ⟨mem, i, hi, same, state⟩
    rw [h.unique hi hj same] at state
    exact ⟨state, mem⟩
  · rintro ⟨state, mem⟩
    exact ⟨mem, j, hj, rfl, state⟩

/-- A job that does not print has no stream to stop. -/
theorem Places.Sound.idle {g : Nat} (h : v.Sound none) (idle : ∀ i ∈ v.recs, i.tag = g → i.state ≠ .printing) :
    v.Sound (some g) :=
  { h with
    control := fun p => (h.control p).congr fun x => by
      refine and_congr_right fun prints => iff_of_true nofun fun same => ?_
      obtain ⟨-, i, hi, tag, printing⟩ := prints
      exact idle i hi (tag.trans (Option.some.inj same).symm) printing }

/-! ### A job leaves its place -/

/-- The collections without a job. -/
def Places.take (v : Places) (j : Placing) : Places :=
  { recs := v.others j.tag, contexts := v.contexts.filter (· ≠ j.tag), held := fun k => (v.held k).filter (· ≠ j.tag)
    reserved := fun k => v.reserved k - if k = j.account then j.reservation.getD 0 else 0
    queue := fun p => (v.queue p).filter (· ≠ j.tag), control := v.control }

theorem Places.take_prints (p g : Nat) : (v.take j).Prints p g ↔ v.Prints p g ∧ g ≠ j.tag := by
  unfold Places.Prints Places.take
  simp only [List.mem_filter, decide_eq_true_eq, Places.mem_others]
  constructor
  · rintro ⟨⟨mem, other⟩, i, ⟨hi, -⟩, tag, state⟩
    exact ⟨⟨mem, i, hi, tag, state⟩, other⟩
  · rintro ⟨⟨mem, i, hi, tag, state⟩, other⟩
    exact ⟨⟨mem, other⟩, i, ⟨hi, tag ▸ other⟩, tag, state⟩

/-- A job of the others is one of another tag. -/
theorem Places.exists_others {g : Nat} {P : Placing → Prop} :
    (∃ i ∈ v.others j.tag, i.tag = g ∧ P i) ↔ (∃ i ∈ v.recs, i.tag = g ∧ P i) ∧ g ≠ j.tag := by
  simp only [Places.mem_others]
  constructor
  · rintro ⟨i, ⟨hi, other⟩, tag, holds⟩
    exact ⟨⟨i, hi, tag, holds⟩, tag ▸ other⟩
  · rintro ⟨⟨i, hi, tag, holds⟩, other⟩
    exact ⟨i, ⟨hi, tag ▸ other⟩, tag, holds⟩

theorem Places.Sound.taken (h : v.Sound (some j.tag)) (hj : j ∈ v.recs) : (v.take j).Sound none where
  tags := h.tags.sublist (List.filter_sublist.map _)
  held k g := by
    show g ∈ (v.held k).filter _ ↔ ∃ i ∈ v.others j.tag, _
    rw [List.mem_filter, decide_eq_true_eq, h.held, Places.exists_others]
  heldOnce k := (h.heldOnce k).filter _
  queued g := by
    show (∃ p, g ∈ (v.queue p).filter _) ↔ ∃ i ∈ v.others j.tag, _
    simp only [List.mem_filter, decide_eq_true_eq, exists_and_right]
    rw [h.queued, Places.exists_others]
  queuedOnce p := (h.queuedOnce p).filter _
  apart p q other g hg hg' := h.apart p q other g (List.mem_of_mem_filter hg) (List.mem_of_mem_filter hg')
  printing p g x hg hx :=
    h.printing p g x ((Places.take_prints p g).1 hg).1 ((Places.take_prints p x).1 hx).1
  receiving g := by
    show g ∈ v.contexts.filter _ ↔ ∃ i ∈ v.others j.tag, _
    rw [List.mem_filter, decide_eq_true_eq, h.receiving, Places.exists_others]
  receivingOnce := h.receivingOnce.filter _
  reserved k := by
    show v.reserved k - _ = reservedBy (v.others j.tag) k
    rw [h.reserved, reservedBy_others h hj]
    exact Nat.add_sub_cancel_left ..
  reservation i hi := h.reservation i (Places.mem_others.1 hi).1
  control p := (h.control p).congr fun g => by
    rw [Places.take_prints, and_iff_left (show (none : Option Nat) ≠ some g from nofun), Ne, Option.some_inj, eq_comm]

/-! ### A job takes a place -/

/-- The collections `v` are those of `u` and a job, which, in delivery, is in the Delivery Queue of printer `p`. -/
structure Places.Put (u v : Places) (j : Placing) (p : Nat) : Prop where
  recs : v.recs.Perm (j :: u.recs)
  contexts : v.contexts.Perm (if j.state = .receiving then j.tag :: u.contexts else u.contexts)
  held : ∀ k, (v.held k).Perm (if j.state = .held ∧ k = j.account then j.tag :: u.held k else u.held k)
  reserved : ∀ k, v.reserved k = (if k = j.account then j.reservation.getD 0 else 0) + u.reserved k
  queue : ∀ q, (v.queue q).Perm (if j.state.inDelivery = true ∧ q = p then j.tag :: u.queue q else u.queue q)

theorem mem_of_perm_ite {q : Prop} [Decidable q] {l m : List Nat} {g x : Nat} (h : l.Perm (if q then g :: m else m)) :
    x ∈ l ↔ (q ∧ x = g) ∨ x ∈ m := by
  rw [h.mem_iff]
  by_cases hq : q
  · rw [if_pos hq, List.mem_cons, and_iff_right hq]
  · rw [if_neg hq, or_iff_right fun both => hq both.1]

theorem nodup_of_perm_ite {q : Prop} [Decidable q] {l m : List Nat} {g : Nat} (h : l.Perm (if q then g :: m else m))
    (fresh : g ∉ m) (hm : m.Nodup) : l.Nodup := by
  rw [h.nodup_iff]
  by_cases hq : q
  · rw [if_pos hq]
    exact List.nodup_cons.2 ⟨fresh, hm⟩
  · rwa [if_neg hq]

/-- A tag that names no job is in no collection. -/
theorem Places.Sound.absent {u : Places} (h : u.Sound o) (fresh : ∀ i ∈ u.recs, i.tag ≠ j.tag) :
    (∀ k, j.tag ∉ u.held k) ∧ (∀ q, j.tag ∉ u.queue q) ∧ j.tag ∉ u.contexts := by
  refine ⟨fun k mem => ?_, fun q mem => ?_, fun mem => ?_⟩
  · obtain ⟨i, hi, tag, -⟩ := (h.held k _).1 mem
    exact fresh i hi tag
  · obtain ⟨i, hi, tag, -⟩ := h.queue_of mem
    exact fresh i hi tag
  · obtain ⟨i, hi, tag, -⟩ := (h.receiving _).1 mem
    exact fresh i hi tag

section

variable {u : Places} {p : Nat} (h : u.Sound none) (fresh : ∀ i ∈ u.recs, i.tag ≠ j.tag) (put : u.Put v j p)
include put

theorem Places.Put.exists_recs {g : Nat} {P : Placing → Prop} :
    (∃ i ∈ v.recs, i.tag = g ∧ P i) ↔ (P j ∧ g = j.tag) ∨ ∃ i ∈ u.recs, i.tag = g ∧ P i := by
  simp only [put.recs.mem_iff, List.mem_cons]
  constructor
  · rintro ⟨i, rfl | hi, tag, holds⟩
    · exact .inl ⟨holds, tag.symm⟩
    · exact .inr ⟨i, hi, tag, holds⟩
  · rintro (⟨holds, rfl⟩ | ⟨i, hi, tag, holds⟩)
    · exact ⟨j, .inl rfl, rfl, holds⟩
    · exact ⟨i, .inr hi, tag, holds⟩

theorem Places.Put.mem_queue (q g : Nat) : g ∈ v.queue q ↔ (j.state.inDelivery = true ∧ q = p ∧ g = j.tag) ∨ g ∈ u.queue q := by
  rw [mem_of_perm_ite (put.queue q), and_assoc]

include h fresh

/-- Which jobs print once a job has taken its place. -/
theorem Places.Put.prints (q g : Nat) : v.Prints q g ↔ (j.state = .printing ∧ q = p ∧ g = j.tag) ∨ u.Prints q g := by
  unfold Places.Prints
  rw [put.exists_recs (P := fun i => i.state = .printing), put.mem_queue]
  constructor
  · rintro ⟨⟨-, here, tag⟩ | mem, ⟨state, same⟩ | ⟨i, hi, itag, state⟩⟩
    · exact .inl ⟨state, here, tag⟩
    · exact absurd (itag.trans tag) (fresh i hi)
    · exact absurd (same ▸ mem) ((h.absent fresh).2.1 q)
    · exact .inr ⟨mem, i, hi, itag, state⟩
  · rintro (⟨state, here, tag⟩ | ⟨mem, i, hi, itag, state⟩)
    · exact ⟨.inl ⟨by rw [state]; rfl, here, tag⟩, .inl ⟨state, tag⟩⟩
    · exact ⟨.inr mem, .inr ⟨i, hi, itag, state⟩⟩

theorem Places.Put.sound (reservation : j.reservation ≠ none → j.state.inDelivery = true)
    (alone : j.state = .printing → ∀ g, ¬u.Prints p g)
    (control : ∀ q, ControlFits (v.control q) (fun g => (j.state = .printing ∧ q = p ∧ g = j.tag) ∨ u.Prints q g)) :
    v.Sound none := by
  obtain ⟨unheld, unqueued, idle⟩ := h.absent fresh
  refine {
    tags := ?_, held := fun k g => ?_, heldOnce := fun k => nodup_of_perm_ite (put.held k) (unheld k) (h.heldOnce k)
    queued := fun g => ?_, queuedOnce := fun q => nodup_of_perm_ite (put.queue q) (unqueued q) (h.queuedOnce q)
    apart := fun a b other g ha hb => ?_, printing := fun q g x hg hx => ?_, receiving := fun g => ?_
    receivingOnce := nodup_of_perm_ite put.contexts idle h.receivingOnce
    reserved := fun k => ?_, reservation := fun i hi => ?_
    control := fun q => (control q).congr fun g => by
      rw [put.prints h fresh, and_iff_left (show (none : Option Nat) ≠ some g from nofun)] }
  · rw [(put.recs.map Placing.tag).nodup_iff]
    refine List.nodup_cons.2 ⟨fun mem => ?_, h.tags⟩
    obtain ⟨i, hi, same⟩ := List.mem_map.1 mem
    exact fresh i hi same
  · rw [put.exists_recs (P := fun i => i.state = .held ∧ i.account = k), mem_of_perm_ite (put.held k), h.held, eq_comm (a := k)]
  · rw [put.exists_recs (P := fun i => i.state.inDelivery = true), ← h.queued]
    simp only [put.mem_queue, exists_or]
    refine or_congr_left ⟨fun ⟨q, delivers, _, tag⟩ => ⟨delivers, tag⟩, fun ⟨delivers, tag⟩ => ⟨p, delivers, rfl, tag⟩⟩
  · rcases (put.mem_queue a g).1 ha with ⟨-, rfl, rfl⟩ | ha
    · rcases (put.mem_queue b _).1 hb with ⟨-, rfl, -⟩ | hb
      · exact other rfl
      · exact unqueued b hb
    · rcases (put.mem_queue b g).1 hb with ⟨-, rfl, rfl⟩ | hb
      · exact unqueued a ha
      · exact h.apart a b other g ha hb
  · rcases (put.prints h fresh q g).1 hg with ⟨state, rfl, rfl⟩ | hg
    · rcases (put.prints h fresh _ x).1 hx with ⟨-, -, rfl⟩ | hx
      · rfl
      · exact absurd hx (alone state x)
    · rcases (put.prints h fresh q x).1 hx with ⟨state, rfl, rfl⟩ | hx
      · exact absurd hg (alone state g)
      · exact h.printing q g x hg hx
  · rw [put.exists_recs (P := fun i => i.state = .receiving), mem_of_perm_ite put.contexts, h.receiving]
  · rw [put.reserved, h.reserved, reservedBy_perm put.recs, reservedBy_cons]
  · rcases List.mem_cons.1 (put.recs.mem_iff.1 hi) with rfl | hi
    · exact reservation
    · exact h.reservation i hi

end

end

end Sys2Proof.Machine

/-! PROOFS. Jobs that move from place to place (R10, R32 to R34, R37, R88, R90), and the states whose jobs are in order. -/

namespace Sys2Proof.Machine

set_option Elab.async false

section

variable {v w : Places} {j j' : Placing} {o : Option Nat} {p : Nat}

theorem Places.others_fresh (v : Places) (j : Placing) : ∀ i ∈ (v.take j).recs, i.tag ≠ j.tag :=
  fun _ hi => (Places.mem_others.1 hi).2

/-- A job moves to another place, or changes where it stands, and does not print there. -/
theorem Places.Sound.moved (h : v.Sound (some j.tag)) (hj : j ∈ v.recs) (same : j'.tag = j.tag)
    (put : (v.take j).Put w j' p) (control : w.control = v.control) (idle : j'.state ≠ .printing)
    (reservation : j'.reservation ≠ none → j'.state.inDelivery = true) : w.Sound none := by
  have taken := h.taken hj
  refine put.sound taken (same ▸ v.others_fresh j) reservation (fun prints => absurd prints idle) fun q => ?_
  rw [control]
  exact (taken.control q).congr fun g => by simp [idle]

/-- R89, R90: a job of a queue in which none prints begins to print, its STREAM_BEGIN sent or last in the control list. -/
theorem Places.Sound.begun (h : v.Sound none) (hj : j ∈ v.recs) (same : j'.tag = j.tag) (released : j.state ≠ .printing)
    (put : (v.take j).Put w j' p) (alone : ∀ g, ¬v.Prints p g) (delivers : j'.state = .printing)
    (others : ∀ q, q ≠ p → w.control q = v.control q)
    (begins : w.control p = [] ∨ ∃ m, m.isBeginOf j.tag = true ∧ w.control p = v.control p ++ [m]) : w.Sound none := by
  have taken := (h.idle (g := j.tag) fun i hi tag => by rwa [h.unique hi hj tag]).taken hj
  have idle (g : Nat) : ¬(v.take j).Prints p g := fun prints => alone g ((Places.take_prints p g).1 prints).1
  refine put.sound taken (same ▸ v.others_fresh j) (fun _ => by rw [delivers]; rfl) (fun _ => idle) fun q => ?_
  by_cases here : q = p
  · subst here
    rcases begins with empty | ⟨m, isBegin, appended⟩
    · exact .inl empty
    · refine .inr (.inr ⟨j.tag, .inl ⟨delivers, rfl, same.symm⟩, v.control q, m, ?_, isBegin, appended⟩)
      exact (h.control q).onlyCancels fun g hg => alone g hg.1
  · rw [others q here]
    exact (taken.control q).congr fun g => by simp [here]

/-- R90: the stream of a job that prints is stopped. -/
theorem Places.Sound.stopped {g : Nat} (h : v.Sound none) (prints : v.Prints p g) {c : Nat → List OwnMsg}
    (others : ∀ q, q ≠ p → c q = v.control q) (cancels : OnlyCancels (c p)) : Places.Sound (some g) { v with control := c } :=
  { h with
    control := fun q => by
      by_cases here : q = p
      · rw [here]
        exact cancels.fits fun x hx => hx.2 (congrArg some (h.printing p g x prints hx.1))
      · rw [show ({ v with control := c } : Places).control q = v.control q from others q here]
        refine (h.control q).congr fun x => and_congr_right fun hx => iff_of_true nofun fun same => ?_
        rw [← Option.some.inj same] at hx
        exact h.apart q p here g hx.1 prints.1 }

/-- R90: control lists that fit whatever fitted those before, as those from which the head has gone. -/
theorem Places.Sound.controlled (h : v.Sound o) {c : Nat → List OwnMsg}
    (fits : ∀ p a, ControlFits (v.control p) a → ControlFits (c p) a) : Places.Sound o { v with control := c } :=
  { h with control := fun p => fits p _ (h.control p) }

theorem ControlFits.tail {m : OwnMsg} {l : List OwnMsg} {a : Nat → Prop} (h : ControlFits (m :: l) a) : ControlFits l a := by
  rcases h with none | ⟨none | ⟨x, only, -⟩, -⟩ | ⟨g, prints, cancels, b, only, begins, e⟩
  · exact nomatch none
  · exact nomatch none
  · exact .inl (List.cons.inj only).2
  · rcases only with rfl | ⟨x, rfl, -⟩
    · exact .inl (List.cons.inj e).2
    · exact .inr (.inr ⟨g, prints, [], b, .inl rfl, begins, (List.cons.inj e).2⟩)

/-! ### A reservation given back (R33, R34) -/

/-- The reservation of a job is given back. -/
def Places.settled (v : Places) (j : Placing) : Places :=
  { v with
    recs := v.recs.map (fun i => if i.tag = j.tag then { i with reservation := none } else i)
    reserved := fun k => v.reserved k - if k = j.account then j.reservation.getD 0 else 0 }

theorem Places.exists_settled {g : Nat} {P : JobState → Nat → Prop} :
    (∃ i ∈ (v.settled j).recs, i.tag = g ∧ P i.state i.account) ↔ ∃ i ∈ v.recs, i.tag = g ∧ P i.state i.account := by
  have kept (i : Placing) : (if i.tag = j.tag then { i with reservation := none } else i).tag = i.tag ∧
      (if i.tag = j.tag then { i with reservation := none } else i).state = i.state ∧
      (if i.tag = j.tag then { i with reservation := none } else i).account = i.account := by split <;> exact ⟨rfl, rfl, rfl⟩
  simp only [Places.settled, List.mem_map, exists_exists_and_eq_and, (kept _).1, (kept _).2.1, (kept _).2.2]

theorem Places.settled_prints (p g : Nat) : (v.settled j).Prints p g ↔ v.Prints p g :=
  and_congr_right fun _ => Places.exists_settled (P := fun x _ => x = .printing)

theorem Places.settled_perm (h : v.Sound o) (hj : j ∈ v.recs) :
    (v.settled j).recs.Perm ({ j with reservation := none } :: v.others j.tag) := by
  refine ((h.recs_perm hj).map _).trans (.of_eq ?_)
  rw [List.map_cons, if_pos rfl]
  refine congrArg _ ((List.map_congr_left fun i hi => ?_).trans (List.map_id _))
  exact if_neg (Places.mem_others.1 hi).2

theorem Places.Sound.settled (h : v.Sound o) (hj : j ∈ v.recs) : (v.settled j).Sound o where
  tags := by
    have same : (v.settled j).recs.map Placing.tag = v.recs.map Placing.tag := by
      refine (List.map_map ..).trans (List.map_congr_left fun i _ => ?_)
      show (if _ then _ else _ : Placing).tag = _
      split <;> rfl
    rw [same]
    exact h.tags
  held k g := (h.held k g).trans (Places.exists_settled (P := fun x a => x = .held ∧ a = k)).symm
  heldOnce := h.heldOnce
  queued g := (h.queued g).trans (Places.exists_settled (P := fun x _ => x.inDelivery = true)).symm
  queuedOnce := h.queuedOnce
  apart := h.apart
  printing p g x hg hx := h.printing p g x ((Places.settled_prints p g).1 hg) ((Places.settled_prints p x).1 hx)
  receiving g := (h.receiving g).trans (Places.exists_settled (P := fun x _ => x = .receiving)).symm
  receivingOnce := h.receivingOnce
  reserved k := by
    show v.reserved k - _ = _
    rw [h.reserved, reservedBy_others h hj, reservedBy_perm (Places.settled_perm h hj), reservedBy_cons, Nat.add_sub_cancel_left]
    simp
  reservation i hi := by
    rcases List.mem_cons.1 ((Places.settled_perm h hj).mem_iff.1 hi) with rfl | hi
    · exact fun some => absurd rfl some
    · exact h.reservation i (Places.mem_others.1 hi).1
  control p := (h.control p).congr fun g => and_congr_left fun _ => (Places.settled_prints p g).symm

end

/-! ### The states whose jobs are in order -/

variable {s t u : State}

theorem State.mem_places {g : Nat} {P : JobState → Nat → Option Nat → Prop} (once : s.TagsOnce) :
    (∃ i ∈ s.places.recs, i.tag = g ∧ P i.state i.account i.reservation) ↔
      ∃ j, s.job g = some j ∧ P j.state j.account j.reservation := by
  simp only [State.places, List.mem_map, exists_exists_and_eq_and]
  constructor
  · rintro ⟨j, hj, rfl, holds⟩
    exact ⟨j, State.job_of_mem once hj, holds⟩
  · rintro ⟨j, hj, holds⟩
    exact ⟨j, s.mem_of_job hj, s.tag_of_job hj, holds⟩

theorem State.places_reserved (s : State) (k : Nat) :
    reservedBy s.places.recs k = ((s.jobsOf k).map (fun j => j.reservation.getD 0)).sum := by
  unfold reservedBy State.places State.jobsOf
  rw [List.filter_map, List.map_map]
  rfl

theorem State.mem_contexts (s : State) (g : Nat) :
    some g ∈ s.jobs.contexts.map (Option.map Context.tag) ↔ g ∈ s.places.contexts := by
  simp only [State.places, List.mem_map, List.mem_filterMap]

theorem length_le_one_iff {α : Type} {l : List α} (h : l.Nodup) : l.length ≤ 1 ↔ ∀ a ∈ l, ∀ b ∈ l, a = b := by
  match l with
  | [] => exact iff_of_true (Nat.zero_le 1) fun a ha => absurd ha List.not_mem_nil
  | [x] => simp
  | x :: y :: l =>
    refine iff_of_false (by simp) fun same => ?_
    exact (List.nodup_cons.1 h).1 (same x (by simp) y (by simp) ▸ List.mem_cons_self ..)

/-- R88: at most one job of a queue is Printing. -/
theorem State.jobsIn_alone (once : (s.printer p).queue.Nodup) :
    (s.jobsIn p .printing).length ≤ 1 ↔ ∀ g x, g ∈ (s.printer p).queue → x ∈ (s.printer p).queue →
      (∃ j, s.job g = some j ∧ j.state = .printing) → (∃ j, s.job x = some j ∧ j.state = .printing) → g = x := by
  have mem (j : Job) : j ∈ s.jobsIn p .printing ↔ j.tag ∈ (s.printer p).queue ∧ s.job j.tag = some j ∧ j.state = .printing := by
    simp only [State.jobsIn, List.mem_filter, List.mem_filterMap, beq_iff_eq]
    constructor
    · rintro ⟨⟨g, hg, job⟩, state⟩
      rw [s.tag_of_job job]
      exact ⟨hg, job, state⟩
    · rintro ⟨hg, job, state⟩
      exact ⟨⟨_, hg, job⟩, state⟩
  have distinct : (s.jobsIn p .printing).Nodup := by
    refine (once.filterMap fun g x j hg hx => ?_).filter _
    rw [← s.tag_of_job hg, s.tag_of_job hx]
  rw [length_le_one_iff distinct]
  constructor
  · rintro few g x hg hx ⟨i, hi, ig⟩ ⟨j, hj, jg⟩
    have tags := And.intro (s.tag_of_job hi) (s.tag_of_job hj)
    have i_mem : i ∈ s.jobsIn p .printing := (mem i).2 ⟨tags.1 ▸ hg, by rw [tags.1, hi], ig⟩
    have j_mem : j ∈ s.jobsIn p .printing := (mem j).2 ⟨tags.2 ▸ hx, by rw [tags.2, hj], jg⟩
    rw [← tags.1, ← tags.2, few i i_mem j j_mem]
  · intro alone i hi j hj
    obtain ⟨iq, ijob, istate⟩ := (mem i).1 hi
    obtain ⟨jq, jjob, jstate⟩ := (mem j).1 hj
    rw [alone i.tag j.tag iq jq ⟨i, ijob, istate⟩ ⟨j, jjob, jstate⟩, jjob] at ijob
    exact (Option.some.inj ijob).symm

theorem State.prints_iff (once : s.TagsOnce) (p g : Nat) : s.places.Prints p g ↔
    g ∈ (s.printer p).queue ∧ ∃ j, s.job g = some j ∧ j.state = .printing :=
  and_congr_right fun _ => State.mem_places (P := fun x _ _ => x = .printing) once

/-- R90: a control list fits the first job that prints, which is the only one. -/
theorem State.controlSound_iff (once : s.TagsOnce) (alone : ∀ g x, s.places.Prints p g → s.places.Prints p x → g = x)
    (c : List OwnMsg) : ControlSound c (s.firstIn p .printing) ↔ ControlFits c (s.places.Prints p) := by
  unfold ControlSound ControlFits
  refine or_congr_right ?_
  cases first : s.firstIn p .printing with
  | none =>
    have idle (g : Nat) : ¬s.places.Prints p g := fun prints => by
      obtain ⟨mem, j, job, state⟩ := (State.prints_iff once p g).1 prints
      exact (s.firstIn_none_iff p .printing).1 first g mem j job state
    constructor
    · rintro ⟨cancels, only, rfl⟩
      exact .inl ⟨only, idle⟩
    · rintro (⟨only, -⟩ | ⟨g, prints, -⟩)
      · exact ⟨c, only, rfl⟩
      · exact absurd prints (idle g)
  | some j =>
    obtain ⟨job, state, mem⟩ := State.firstIn_job first
    have prints : s.places.Prints p j.tag := (State.prints_iff once p j.tag).2 ⟨mem, j, job, state⟩
    constructor
    · rintro ⟨cancels, only, m, begins, rfl⟩
      exact .inr ⟨j.tag, prints, cancels, m, only, begins, rfl⟩
    · rintro (⟨-, idle⟩ | ⟨g, others, cancels, m, only, begins, rfl⟩)
      · exact absurd prints (idle j.tag)
      · exact ⟨cancels, only, m, alone g j.tag others prints ▸ begins, rfl⟩

/-- The collections hold their jobs exactly if they are sound as data. -/
theorem State.jobsPlaced_iff (once : s.TagsOnce) :
    s.JobsPlaced ↔ s.places.Sound none ∧ (s.phase ≠ .up → s.jobs.recs = []) := by
  have plain (p g : Nat) : s.places.Prints p g ∧ (none : Option Nat) ≠ some g ↔ s.places.Prints p g :=
    and_iff_left nofun
  constructor
  · intro h
    have alone (p g x : Nat) (hg : s.places.Prints p g) (hx : s.places.Prints p x) : g = x := by
      obtain ⟨gq, gp⟩ := (State.prints_iff once p g).1 hg
      obtain ⟨xq, xp⟩ := (State.prints_iff once p x).1 hx
      exact (State.jobsIn_alone (h.deliveryOnce.1 p)).1 (h.printing p) g x gq xq gp xp
    refine ⟨{
      tags := ?_
      held := fun k g => (h.held k g).trans (State.mem_places (P := fun x a _ => x = .held ∧ a = k) once).symm
      heldOnce := h.heldOnce
      queued := fun g => (h.delivery g).trans (State.mem_places (P := fun x _ _ => x.inDelivery = true) once).symm
      queuedOnce := h.deliveryOnce.1
      apart := h.deliveryOnce.2
      printing := alone
      receiving := fun g => (s.mem_contexts g).symm.trans
        ((h.receiving g).trans (State.mem_places (P := fun x _ _ => x = .receiving) once).symm)
      receivingOnce := h.receivingOnce
      reserved := fun k => (h.reserved k).trans (s.places_reserved k).symm
      reservation := fun i hi => ?_
      control := fun p => ?_ }, h.powered⟩
    · exact (List.map_map ..).symm ▸ once
    · obtain ⟨j, hj, rfl⟩ := List.mem_map.1 hi
      exact h.reservation j hj
    · exact ((State.controlSound_iff once (alone p) _).1 (h.control p)).congr fun g => (plain p g).symm
  · rintro ⟨h, powered⟩
    exact {
      held := fun k g => (h.held k g).trans (State.mem_places (P := fun x a _ => x = .held ∧ a = k) once)
      heldOnce := h.heldOnce
      delivery := fun g => (h.queued g).trans (State.mem_places (P := fun x _ _ => x.inDelivery = true) once)
      deliveryOnce := ⟨h.queuedOnce, h.apart⟩
      printing := fun p => (State.jobsIn_alone (h.queuedOnce p)).2 fun g x gq xq gp xp => h.printing p g x
        ((State.prints_iff once p g).2 ⟨gq, gp⟩) ((State.prints_iff once p x).2 ⟨xq, xp⟩)
      receiving := fun g => (s.mem_contexts g).trans
        ((h.receiving g).trans (State.mem_places (P := fun x _ _ => x = .receiving) once))
      receivingOnce := h.receivingOnce
      reserved := fun k => (h.reserved k).trans (s.places_reserved k)
      reservation := fun j hj => h.reservation j.placing (List.mem_map_of_mem hj)
      control := fun p => (State.controlSound_iff once (h.printing p) _).2 ((h.control p).congr (plain p))
      powered := powered }

end Sys2Proof.Machine

/-! PROOFS. What moves no job (R10, R37, R88): the operations on colorants, callouts, health, the store and the console. -/

namespace Sys2Proof.Machine

set_option Elab.async false

variable {s t u : State}

/-- No job moves: tables in canonical form stay so, and every collection of jobs is as it was. -/
structure Unmoved (s t : State) : Prop where
  tables : s.TablesCanonical → t.TablesCanonical
  places : s.TablesCanonical → t.places = s.places

namespace Unmoved

theorem refl (s : State) : Unmoved s s := ⟨id, fun _ => rfl⟩

theorem trans (h : Unmoved s t) (h' : Unmoved t u) : Unmoved s u :=
  ⟨h'.tables ∘ h.tables, fun hw => (h'.places (h.tables hw)).trans (h.places hw)⟩

theorem foldl {α : Type} {f : State → α → State} (hf : ∀ s x, Unmoved s (f s x)) (l : List α) (s : State) :
    Unmoved s (l.foldl f s) := by
  induction l generalizing s with
  | nil => exact refl s
  | cons x l ih => exact (hf s x).trans (ih _)

/-- The pieces that hold the collections. -/
def collections : List Piece := [.jobRecords, .contexts, .accounts, .printers]

theorem places_of_changes {l : List Piece} (h : ChangesOnly l s t) (hl : ∀ x ∈ collections, x ∉ l) : t.places = s.places := by
  have recs : t.jobs.recs = s.jobs.recs := h .jobRecords (hl _ (by decide))
  have contexts : t.jobs.contexts = s.jobs.contexts := h .contexts (hl _ (by decide))
  have accounts : t.accounts = s.accounts := h .accounts (hl _ (by decide))
  have printers : t.printers = s.printers := h .printers (hl _ (by decide))
  unfold State.places State.account State.printer
  rw [recs, contexts, accounts, printers]

theorem of_moves {l : List Piece} (h : Moves l s t) (hl : ∀ x ∈ collections, x ∉ l := by decide) : Unmoved s t :=
  ⟨h.keeps_tables, fun _ => places_of_changes h.changesOnly hl⟩

/-- What changes neither the collections nor another table moves no job. -/
theorem of_changes {l : List Piece} (h : ChangesOnly l s t)
    (hl : ∀ x ∈ collections ++ [.classifier, .tariff, .callouts, .reorders, .slots], x ∉ l := by decide) : Unmoved s t := by
  refine ⟨fun hw => ?_, fun _ => places_of_changes h fun x hx => hl x (List.mem_append_left _ hx)⟩
  have classifier : t.classifier = s.classifier := (h .classifier (hl _ (by decide))).1
  have accounts : t.accounts = s.accounts := h .accounts (hl _ (by decide))
  have tariff : t.tariff = s.tariff := h .tariff (hl _ (by decide))
  have printers : t.printers = s.printers := h .printers (hl _ (by decide))
  have callouts : t.callouts = s.callouts := h .callouts (hl _ (by decide))
  have reorders : t.reorders = s.reorders := h .reorders (hl _ (by decide))
  have slots : t.store.slots = s.store.slots := h .slots (hl _ (by decide))
  exact ⟨classifier ▸ hw.classifier, accounts ▸ hw.accounts, tariff ▸ hw.active, tariff ▸ hw.waiting, printers ▸ hw.printers,
    callouts ▸ hw.callouts, reorders ▸ hw.reorders, by unfold Store.SlotsCanonical; rw [slots]; exact hw.slots⟩

/-! ### Records replaced -/

theorem setPrinter (s : State) (p : Nat) (e : Printer) (queue : e.queue = (s.printer p).queue)
    (control : e.control = (s.printer p).control) : Unmoved s (s.setPrinter p e) where
  tables hw := ⟨hw.classifier, hw.accounts, hw.active, hw.waiting, Tbl.wf_put _ _ hw.printers, hw.callouts, hw.reorders, hw.slots⟩
  places _ := by
    have queues : (fun i => ((s.setPrinter p e).printer i).queue) = fun i => (s.printer i).queue := funext fun i => by
      rw [State.printer_setPrinter]
      split
      next here => rw [here, queue]
      next => rfl
    have controls : (fun i => ((s.setPrinter p e).printer i).control) = fun i => (s.printer i).control := funext fun i => by
      rw [State.printer_setPrinter]
      split
      next here => rw [here, control]
      next => rfl
    unfold State.places
    rw [queues, controls]
    rfl

theorem updPrinter (s : State) (p : Nat) (f : Printer → Printer)
    (h : ∀ e, (f e).queue = e.queue ∧ (f e).control = e.control := by intro _; exact ⟨rfl, rfl⟩) : Unmoved s (s.updPrinter p f) :=
  setPrinter s p _ (h _).1 (h _).2

theorem setAccount (s : State) (k : Nat) (a : Account) (held : a.held = (s.account k).held)
    (reserved : a.reserved = (s.account k).reserved) : Unmoved s (s.setAccount k a) where
  tables hw := ⟨hw.classifier, Tbl.wf_put _ _ hw.accounts, hw.active, hw.waiting, hw.printers, hw.callouts, hw.reorders, hw.slots⟩
  places _ := by
    have helds : (fun i => ((s.setAccount k a).account i).held) = fun i => (s.account i).held := funext fun i => by
      rw [State.account_setAccount]
      split
      next here => rw [here, held]
      next => rfl
    have reserveds : (fun i => ((s.setAccount k a).account i).reserved) = fun i => (s.account i).reserved := funext fun i => by
      rw [State.account_setAccount]
      split
      next here => rw [here, reserved]
      next => rfl
    unfold State.places
    rw [helds, reserveds]
    rfl

theorem printersAll (s : State) (f : Printer → Printer) (factory : f printerFactory = printerFactory)
    (h : ∀ e, (f e).queue = e.queue ∧ (f e).control = e.control := by intro _; exact ⟨rfl, rfl⟩) :
    Unmoved s { s with printers := s.printers.mapAll printerFactory f } where
  tables hw := ⟨hw.classifier, hw.accounts, hw.active, hw.waiting, Tbl.wf_mapAll _ hw.printers, hw.callouts, hw.reorders,
    hw.slots⟩
  places hw := by
    have entry (i : Nat) : Tbl.get printerFactory (s.printers.mapAll printerFactory f) i = f (s.printer i) :=
      Tbl.get_mapAll factory (Tbl.nodup_of_wf hw.printers) i
    unfold State.places State.printer at *
    simp only [entry, (h _).1, (h _).2]
    rfl

theorem accountsAll (s : State) (f : Account → Account) (factory : f Account.factory = Account.factory)
    (h : ∀ a, (f a).held = a.held ∧ (f a).reserved = a.reserved) :
    Unmoved s { s with accounts := s.accounts.mapAll Account.factory f } where
  tables hw := ⟨hw.classifier, Tbl.wf_mapAll _ hw.accounts, hw.active, hw.waiting, hw.printers, hw.callouts, hw.reorders,
    hw.slots⟩
  places hw := by
    have record (i : Nat) : Tbl.get Account.factory (s.accounts.mapAll Account.factory f) i = f (s.account i) :=
      Tbl.get_mapAll factory (Tbl.nodup_of_wf hw.accounts) i
    unfold State.places State.account at *
    simp only [record, (h _).1, (h _).2]
    rfl

/-- A change of a job record that leaves where it belongs. -/
theorem updJob (s : State) (g : Nat) (f : Job → Job) (h : ∀ j, (f j).placing = j.placing := by intro _; rfl) :
    Unmoved s (s.updJob g f) where
  tables hw := ⟨hw.classifier, hw.accounts, hw.active, hw.waiting, hw.printers, hw.callouts, hw.reorders, hw.slots⟩
  places _ := by
    have recs : (s.updJob g f).jobs.recs.map Job.placing = s.jobs.recs.map Job.placing := by
      refine (List.map_map ..).trans (List.map_congr_left fun j _ => ?_)
      show Job.placing (if _ then _ else _) = _
      split
      · exact h j
      · rfl
    unfold State.places
    rw [recs]
    rfl

/-! ### Messages, notices and marks -/

theorem notify (s : State) (n : Notice) : Unmoved s (s.notify n) := of_moves (s.notify_moves n)
theorem mark (s : State) (n : Nat) : Unmoved s (s.mark n) := of_moves (s.mark_moves n)
theorem markAll (s : State) (l : List Nat) : Unmoved s (s.markAll l) := of_moves (s.markAll_moves l)
theorem jobStatus (s : State) (j : Job) (e : JobEvent) (p : Option Nat) (r : Option EndReason) (c : Option Nat) :
    Unmoved s (s.jobStatus j e p r c) := of_moves (s.jobStatus_moves j e p r c)
theorem finish (s : State) : Unmoved s s.finish := of_moves s.finish_moves

theorem jobReply (s : State) (h : Hdr) (g : Nat) (r : Result) (n : Nat) : Unmoved s (s.jobReply h g r n) := by
  refine of_changes (l := jobTraffic) ?_
  unfold State.jobReply State.jobSend
  split
  · exact (Moves.one (.placeOffice s _ (by simp_all))).changes
  · intro x hx
    cases x <;>
      first | exact rfl | exact ⟨rfl, rfl⟩ | exact ⟨rfl, rfl, rfl⟩ | exact ⟨rfl, rfl, rfl, rfl⟩ | exact absurd (by decide) hx

/-! ### Colorants and orders (file 07) -/

theorem putSupply (s : State) (p : Nat) (col : Colorant) (r : Option Supply) : Unmoved s (s.putSupply p col r) :=
  updPrinter s p _ fun e => by cases col <;> exact ⟨rfl, rfl⟩

theorem setSupply (s : State) (p : Nat) (col : Colorant) (r : Supply) : Unmoved s (s.setSupply p col r) := by
  unfold State.setSupply
  dsimp only
  split
  · exact putSupply s p col _
  · exact (putSupply s p col _).trans (mark _ _)

theorem openReorder (s : State) (p : Nat) (col : Colorant) (i : Nat) : Unmoved s (s.openReorder p col i) := by
  unfold State.openReorder
  split
  · exact refl s
  · have opened (o : Reorder) : Unmoved s ((s.setReorder i (some o)).mark (reorderSlot i)) :=
      (of_moves (Moves.one (.reorder s i (some o)))).trans (mark _ _)
    exact ((opened _).trans (setSupply _ _ _ _)).trans (notify _ _)

theorem closeReorder (s : State) (i : Nat) (d : ReorderDetail) : Unmoved s (s.closeReorder i d) := by
  rcases s.closeReorder_eq i d with same | ⟨n, told⟩
  · rw [same]; exact refl s
  · rw [told]
    exact ((of_moves (Moves.one (.reorder s i none))).trans (mark _ _)).trans (notify _ _)

theorem offerReorder (s : State) (i : Nat) : Unmoved s (s.offerReorder i) := by
  unfold State.offerReorder
  split
  · exact refl s
  · exact openReorder s _ _ i

theorem reorderTest (s : State) (p : Nat) (col : Colorant) : Unmoved s (s.reorderTest p col) := by
  unfold State.reorderTest
  split
  · exact refl s
  · split
    · split
      · exact openReorder s p col _
      · exact putSupply s p col _
    · exact putSupply s p col _

theorem reorderTests (s : State) (p : Nat) : Unmoved s (s.reorderTests p) := foldl (fun s col => reorderTest s p col) _ s

theorem cartridgeChange (s : State) (p : Nat) (col : Colorant) : Unmoved s (s.cartridgeChange p col) := by
  unfold State.cartridgeChange
  split
  · exact refl s
  · dsimp only
    split
    · exact setSupply s p col _
    · exact ((setSupply s p col _).trans (closeReorder _ _ _)).trans (offerReorder _ _)

theorem takeReport (s : State) (p : Nat) (r : ColorantReport) : Unmoved s (s.takeReport p r) := by
  unfold State.takeReport
  split
  · exact refl s
  · dsimp only
    split
    · exact setSupply s p _ _
    · split
      · exact setSupply s p _ _
      · exact (setSupply s p _ _).trans (cartridgeChange _ _ _)

theorem takeReports (s : State) (p : Nat) (l : List ColorantReport) : Unmoved s (s.takeReports p l) :=
  (foldl (fun s _ => foldl (fun s r => takeReport s p r) _ s) colorants s).trans (reorderTests _ _)

theorem countFaces (s : State) (p : Nat) (col : Colorant) (n : Nat) : Unmoved s (s.countFaces p col n) := by
  unfold State.countFaces
  split
  · exact refl s
  · dsimp only
    split
    · exact putSupply s p col _
    · exact (putSupply s p col _).trans (mark _ _)

theorem supplyFaces (s : State) (p m c : Nat) : Unmoved s (s.supplyFaces p m c) :=
  (((countFaces s p _ _).trans (countFaces _ _ _ _)).trans (countFaces _ _ _ _)).trans (countFaces _ _ _ _)

theorem averageUsage (s : State) (p : Nat) (col : Colorant) : Unmoved s (s.averageUsage p col) := by
  unfold State.averageUsage
  split
  · exact refl s
  · exact setSupply s p col _

theorem dayRoll (s : State) : Unmoved s s.dayRoll := by
  have usage : Unmoved s (s.configured.foldl (fun t p => colorants.foldl (fun u col => u.averageUsage p col) t) s) :=
    foldl (fun s p => foldl (fun s col => averageUsage s p col) colorants s) _ s
  have told (s : State) (i : Nat) : Unmoved s (s.renotifyReorder i) := of_moves (s.renotifyReorder_moves i)
  exact (usage.trans (foldl told _ _)).trans (foldl (fun s p => reorderTests s p) _ _)

theorem createSupply (s : State) (p : Nat) (col : Colorant) (f : SupplyFields) : Unmoved s (s.createSupply p col f) :=
  (putSupply s p col _).trans (mark _ _)

theorem removeSupplies (s : State) (p : Nat) (cols : List Colorant) (w : CloseReason) :
    Unmoved s (s.removeSupplies p cols w) := by
  have closed (l : List Nat) : Unmoved s (l.foldl (fun t i => t.closeReorder i (.closed w)) s) :=
    foldl (fun s i => closeReorder s i _) l s
  have dropped (s : State) (col : Colorant) : Unmoved s ((s.putSupply p col none).unmark (colorantSlot p col)) :=
    (putSupply s p col none).trans (of_moves (State.unmark_moves _ _))
  exact ((closed _).trans (foldl dropped cols _)).trans (foldl offerReorder _ _)

/-! ### Callouts (file 06) -/

theorem setOwed (s : State) (p : Nat) (o : Option (CalloutKind × CalloutCause)) : Unmoved s (s.setOwed p o) := updPrinter s p _

theorem setCallout (s : State) (i : Nat) (c : Option Callout) : Unmoved s (s.setCallout i c) :=
  of_moves (Moves.one (.callout s i c))

theorem openCallout (s : State) (p : Nat) (k : CalloutKind) (c : CalloutCause) (i : Nat) : Unmoved s (s.openCallout p k c i) :=
  (((setCallout s i _).trans (setOwed _ p none)).trans (mark _ _)).trans (notify _ _)

theorem raiseCallout (s : State) (p : Nat) (k : CalloutKind) (c : CalloutCause) : Unmoved s (s.raiseCallout p k c) := by
  unfold State.raiseCallout
  split
  · split
    · split
      · exact ((setCallout s _ _).trans (mark _ _)).trans (notify _ _)
      · exact refl s
    · exact refl s
  · split
    · exact openCallout s p k c _
    · split
      · exact setOwed s p _
      · split
        · exact setOwed s p _
        · exact refl s

theorem closeRecord (s : State) (i : Nat) (w : CloseReason) : Unmoved s (s.closeRecord i w) := by
  unfold State.closeRecord
  split
  · exact refl s
  · exact ((setCallout s i none).trans (mark _ _)).trans (notify _ _)

theorem offerCalloutTo (i : Nat) (l : List Nat) : ∀ s : State, Unmoved s (State.offerCalloutTo i s l) := by
  induction l with
  | nil => exact refl
  | cons p l ih =>
    intro s
    unfold State.offerCalloutTo
    split
    · exact ih s
    · split
      · exact (setOwed s p none).trans (ih _)
      · exact openCallout s p _ _ i

theorem offerCallout (s : State) (i : Nat) : Unmoved s (s.offerCallout i) := offerCalloutTo i _ s

theorem closeTest (s : State) (p : Nat) : Unmoved s (s.closeTest p) := by
  unfold State.closeTest
  split
  · dsimp only
    split
    · exact setOwed s p none
    · exact ((closeRecord s _ _).trans (offerCallout _ _)).trans (setOwed _ p none)
  · exact refl s

theorem renotifyCallout (s : State) (i : Nat) : Unmoved s (s.renotifyCallout i) := by
  unfold State.renotifyCallout
  split
  · exact refl s
  · split
    · exact refl s
    · dsimp only
      split
      · exact (notify s _).trans (setCallout _ i _)
      · split
        · exact (notify s _).trans (setCallout _ i _)
        · exact (((notify s _).trans (setCallout _ i _)).trans (mark _ _)).trans (notify _ _)

/-! ### Printers (files 05, 06) -/

theorem becomeParked (s : State) (p : Nat) : Unmoved s (s.becomeParked p) := (updPrinter s p _).trans (mark _ _)

theorem parkIfEmpty (s : State) (p : Nat) : Unmoved s (s.parkIfEmpty p) := by
  unfold State.parkIfEmpty
  split
  · exact becomeParked s p
  · exact refl s

theorem abandonSettling (s : State) : Unmoved s s.abandonSettling := of_moves s.abandonSettling_moves

theorem restartStall (s : State) (p : Nat) : Unmoved s (s.restartStall p) := updPrinter s p _

theorem startLimit (s : State) (p : Nat) : Unmoved s (s.startLimit p) := by
  unfold State.startLimit
  dsimp only
  split
  · exact updPrinter s p _
  · exact refl s

theorem beginPause (s : State) (p : Nat) : Unmoved s (s.beginPause p) := (updPrinter s p _).trans (startLimit _ p)

/-! ### Accounts (file 02) -/

theorem setBalance (s : State) (k : Nat) (a : Account) (held : a.held = (s.account k).held)
    (reserved : a.reserved = (s.account k).reserved) : Unmoved s (s.setBalance k a) :=
  (setAccount s k a held reserved).trans (mark _ _)

theorem evalOverdrawn (s : State) (k : Nat) : Unmoved s (s.evalOverdrawn k) := by
  rw [State.evalOverdrawn_standing]
  have flagged : Unmoved s (s.setAccount k (s.account k).evaluated) := setAccount s k _ rfl rfl
  split
  · exact flagged.trans (notify _ _)
  · exact flagged

theorem pinMismatch (s : State) (k : Nat) : Unmoved s (s.pinMismatch k) := by
  unfold State.pinMismatch
  dsimp only
  split
  · exact setBalance s k _ rfl rfl
  · exact (setBalance s k { s.account k with failures := Config.pinLimit, state := .locked } rfl rfl).trans (notify _ _)

theorem authenticate (s : State) (b : AskBody) : Unmoved s (s.authenticate b).1 := by
  unfold State.authenticate
  split
  · exact refl s
  · dsimp only
    split
    · exact refl s
    · split
      · exact refl s
      · split
        · exact refl s
        · split
          · dsimp only
            split
            · exact refl s
            · exact setBalance s _ _ rfl rfl
          · exact pinMismatch s _

theorem periodRoll (s : State) (d : Nat) (b : Bool) : Unmoved s (s.periodRoll d b) := by
  have rolled : Unmoved s { s with accounts := s.accounts.mapAll Account.factory Account.rolled } := by
    refine accountsAll s _ rfl fun a => ?_
    unfold Account.rolled
    split <;> exact ⟨rfl, rfl⟩
  have swapped := rolled.trans (of_moves (State.bankSwap_moves _))
  unfold State.periodRoll
  dsimp only
  have next (t : State) (l : List Nat) : Unmoved t ((t.markAll l).checkpointOccasion.setNextRoll d) :=
    ((markAll t l).trans (of_moves (State.checkpointOccasion_moves _))).trans (of_moves (State.setNextRoll_moves _ d))
  split
  · exact (swapped.trans (next _ _)).trans (notify _ _)
  · exact swapped.trans (next _ _)

end Unmoved

end Sys2Proof.Machine

/-! PROOFS. A job that ends (R3), in terms of where jobs stand: what the replacements of a record do, and what a job that
leaves its collection does. -/

namespace Sys2Proof.Machine

set_option Elab.async false

section

variable {v w : Places} {j j' : Placing} {o : Option Nat}

/-! ### A job is in its own collection alone -/

theorem filter_ne_self {l : List Nat} {g : Nat} (h : g ∉ l) : l.filter (· ≠ g) = l :=
  List.filter_eq_self.2 fun _ hx => decide_eq_true fun same => h (same ▸ hx)

theorem perm_cons_filter {l : List Nat} {g : Nat} (h : g ∈ l) (once : l.Nodup) : l.Perm (g :: l.filter (· ≠ g)) := by
  refine (List.perm_ext_iff_of_nodup once (List.nodup_cons.2 ⟨by simp, once.filter _⟩)).2 fun x => ?_
  by_cases here : x = g
  · simp [here, h]
  · simp [here]

theorem Places.Sound.mem_held (h : v.Sound o) (hj : j ∈ v.recs) (k : Nat) :
    j.tag ∈ v.held k ↔ j.state = .held ∧ k = j.account := by
  rw [h.held]
  constructor
  · rintro ⟨i, hi, same, state, account⟩
    rw [h.unique hi hj same] at state account
    exact ⟨state, account.symm⟩
  · rintro ⟨state, rfl⟩
    exact ⟨j, hj, rfl, state, rfl⟩

theorem Places.Sound.mem_contexts (h : v.Sound o) (hj : j ∈ v.recs) : j.tag ∈ v.contexts ↔ j.state = .receiving := by
  rw [h.receiving]
  constructor
  · rintro ⟨i, hi, same, state⟩
    rwa [h.unique hi hj same] at state
  · exact fun state => ⟨j, hj, rfl, state⟩

theorem Places.Sound.delivers (h : v.Sound o) (hj : j ∈ v.recs) {p : Nat} (mem : j.tag ∈ v.queue p) :
    j.state.inDelivery = true := by
  obtain ⟨i, hi, same, delivers⟩ := h.queue_of mem
  rwa [h.unique hi hj same] at delivers

theorem Places.Sound.mem_queue (h : v.Sound o) {p g : Nat} (mem : g ∈ v.queue p) (q : Nat) : g ∈ v.queue q ↔ q = p := by
  constructor
  · intro mem'
    by_contra other
    exact h.apart q p other g mem' mem
  · rintro rfl
    exact mem

/-- The stream of a job that is not there needs no stopping. -/
theorem Places.Sound.unstopped {g : Nat} (h : v.Sound (some g)) (absent : ∀ i ∈ v.recs, i.tag ≠ g) : v.Sound none :=
  { h with
    control := fun p => (h.control p).congr fun x => by
      refine and_congr_right fun prints => iff_of_true (fun same => ?_) nofun
      obtain ⟨-, i, hi, tag, -⟩ := prints
      exact absent i hi (tag.trans (Option.some.inj same).symm) }

/-! ### A job among others that stay -/

/-- A tag names the same record, in the same Delivery Queue. -/
def Places.SameFor (g : Nat) (v w : Places) : Prop :=
  (∀ x, x.tag = g → (x ∈ w.recs ↔ x ∈ v.recs)) ∧ ∀ p, g ∈ w.queue p ↔ g ∈ v.queue p

theorem Places.SameFor.refl (g : Nat) (v : Places) : Places.SameFor g v v := ⟨fun _ _ => Iff.rfl, fun _ => Iff.rfl⟩

theorem Places.SameFor.trans {u : Places} {g : Nat} (h : Places.SameFor g u v) (h' : Places.SameFor g v w) :
    Places.SameFor g u w :=
  ⟨fun x hx => (h'.1 x hx).trans (h.1 x hx), fun p => (h'.2 p).trans (h.2 p)⟩

theorem Places.sameFor_taken {g : Nat} (other : g ≠ j.tag) : Places.SameFor g v (v.take j) :=
  ⟨fun x hx => by rw [show (v.take j).recs = v.others j.tag from rfl, Places.mem_others, and_iff_left (hx.symm ▸ other)],
    fun p => by
      show g ∈ (v.queue p).filter _ ↔ _
      rw [List.mem_filter, decide_eq_true other, and_iff_left rfl]⟩

theorem Places.Put.sameFor {p g : Nat} (put : (v.take j).Put w j' p) (same : j'.tag = j.tag) (other : g ≠ j.tag) :
    Places.SameFor g v w := by
  refine (Places.sameFor_taken other).trans ⟨fun x hx => ?_, fun q => ?_⟩
  · rw [put.recs.mem_iff, List.mem_cons, or_iff_right]
    rintro rfl
    exact other (hx.symm.trans same)
  · rw [put.mem_queue, or_iff_right]
    rintro ⟨-, -, tag⟩
    exact other (tag.trans same)

/-- The records once that of a job has been changed. -/
theorem Places.mapped_perm (h : v.Sound o) (hj : j ∈ v.recs) (f : Placing → Placing) :
    (v.recs.map (fun i => if i.tag = j.tag then f i else i)).Perm (f j :: v.others j.tag) := by
  refine ((h.recs_perm hj).map _).trans (.of_eq ?_)
  rw [List.map_cons, if_pos rfl]
  refine congrArg _ ((List.map_congr_left fun i hi => ?_).trans (List.map_id _))
  exact if_neg (Places.mem_others.1 hi).2

end

variable {s t u : State} {o : Option Nat} {g p : Nat} {j : Job}

/-! ### What the replacements of a record do -/

theorem State.places_updJob (s : State) (g : Nat) (f : Job → Job) (φ : Placing → Placing) (h : ∀ j, (f j).placing = φ j.placing) :
    (s.updJob g f).places.recs = s.places.recs.map (fun i => if i.tag = g then φ i else i) := by
  refine (List.map_map ..).trans (Eq.trans (List.map_congr_left fun j _ => ?_) (List.map_map ..).symm)
  show Job.placing (if j.tag = g then f j else j) = if j.tag = g then φ j.placing else j.placing
  split
  · exact h j
  · rfl

theorem State.places_dropJob (s : State) (g : Nat) : (s.dropJob g).places.recs = s.places.others g := by
  show (s.jobs.recs.filter _).map _ = (s.jobs.recs.map _).filter _
  rw [List.filter_map]
  rfl

theorem State.places_freeContext (s : State) (g : Nat) :
    (s.freeContext g).places.contexts = s.places.contexts.filter (· ≠ g) := by
  show (s.freeContext g).jobs.contexts.filterMap _ = (s.jobs.contexts.filterMap _).filter _
  rw [State.freeContext_contexts, List.filterMap_map, List.filter_filterMap]
  refine List.filterMap_congr fun c _ => ?_
  cases c with
  | none => rfl
  | some x => by_cases here : x.tag = g <;> simp [Option.filter, here]

theorem State.places_setAccount (s : State) (k : Nat) (a : Account) :
    (∀ i, (s.setAccount k a).places.held i = if i = k then a.held else s.places.held i) ∧
    (∀ i, (s.setAccount k a).places.reserved i = if i = k then a.reserved else s.places.reserved i) := by
  constructor <;> intro i
  · show ((s.setAccount k a).account i).held = _
    rw [State.account_setAccount]
    split <;> rfl
  · show ((s.setAccount k a).account i).reserved = _
    rw [State.account_setAccount]
    split <;> rfl

theorem State.places_updPrinter (s : State) (p : Nat) (f : Printer → Printer) :
    (∀ i, (s.updPrinter p f).places.queue i = if i = p then (f (s.printer p)).queue else s.places.queue i) ∧
    (∀ i, (s.updPrinter p f).places.control i = if i = p then (f (s.printer p)).control else s.places.control i) := by
  constructor <;> intro i
  · show ((s.updPrinter p f).printer i).queue = _
    rw [State.printer_updPrinter]
    split <;> rfl
  · show ((s.updPrinter p f).printer i).control = _
    rw [State.printer_updPrinter]
    split <;> rfl

theorem State.job_placing (h : s.job g = some j) : j.placing ∈ s.places.recs ∧ j.placing.tag = g :=
  ⟨List.mem_map_of_mem (s.mem_of_job h), s.tag_of_job h⟩

/-! ### The states whose jobs are in order -/

/-- The tables are canonical and the jobs in order, but for the stream of one that has been stopped. -/
structure State.InOrder (o : Option Nat) (s : State) : Prop where
  tables : s.TablesCanonical
  jobs : s.places.Sound o

theorem State.InOrder.unmoved (h : s.InOrder o) (q : Unmoved s t) : t.InOrder o :=
  ⟨q.tables h.tables, by rw [q.places h.tables]; exact h.jobs⟩

theorem State.InOrder.once (h : s.InOrder o) : s.TagsOnce := by
  have tags := h.jobs.tags
  rw [show s.places.recs.map Placing.tag = _ from List.map_map ..] at tags
  exact tags

/-- The record of a tag, as a job and as data. -/
theorem State.InOrder.mem_recs (h : s.InOrder o) {x : Placing} :
    x ∈ s.places.recs ↔ ∃ j, s.job x.tag = some j ∧ j.placing = x := by
  constructor
  · intro hx
    obtain ⟨j, hj, rfl⟩ := List.mem_map.1 hx
    exact ⟨j, State.job_of_mem h.once hj, rfl⟩
  · rintro ⟨j, job, rfl⟩
    exact (State.job_placing job).1

/-- R88: a job leaves a Delivery Queue. -/
theorem State.unqueue_places (hw : s.TablesCanonical) (p g : Nat) : (s.unqueue p g).places = { s.places with
    queue := fun q => if q = p then (s.places.queue q).filter (· ≠ g) else s.places.queue q } := by
  have left : Unmoved (s.updPrinter p fun e => { e with queue := e.queue.filter (· ≠ g) }) (s.unqueue p g) :=
    Unmoved.parkIfEmpty _ p
  rw [left.places ((Moves.keeps_tables (s.updPrinter_moves p _ (hq := fun _ => List.length_filter_le _ _))) hw)]
  obtain ⟨queue, control⟩ := s.places_updPrinter p fun e => { e with queue := e.queue.filter (· ≠ g) }
  refine Places.ext rfl rfl rfl rfl (funext fun q => (queue q).trans ?_) (funext fun q => (control q).trans ?_)
  · show _ = if _ then _ else _
    by_cases here : q = p
    · rw [if_pos here, if_pos here, here]; rfl
    · rw [if_neg here, if_neg here]
  · split
    next here => rw [here]; rfl
    next => rfl

/-- R88: a job leaves the Delivery Queue that holds it, if one does. -/
def State.leaveQueue (s : State) (g : Nat) : State := ((s.queueOf g).map fun p => s.unqueue p g).getD s

theorem State.leaveQueue_places (hw : s.TablesCanonical) (g : Nat)
    (apart : ∀ p q, g ∈ s.places.queue p → g ∈ s.places.queue q → p = q) :
    (s.leaveQueue g).places = { s.places with queue := fun p => (s.places.queue p).filter (· ≠ g) } := by
  unfold State.leaveQueue
  cases found : s.queueOf g with
  | none =>
    have out := (State.queueOf_none_iff hw g).1 found
    exact Places.ext rfl rfl rfl rfl (funext fun p => (filter_ne_self (out p)).symm) rfl
  | some p =>
    have mem : g ∈ s.places.queue p := ((State.queueOf_iff hw g p).1 found).1
    refine (State.unqueue_places hw p g).trans (Places.ext rfl rfl rfl rfl (funext fun q => ?_) rfl)
    show (if _ then _ else _) = List.filter _ _
    split
    next => rfl
    next other => exact (filter_ne_self fun mem' => other (apart q p mem' mem)).symm

theorem State.leaveCollection_delivery (h : j.state.inDelivery = true) : s.leaveCollection j = s.leaveQueue j.tag := by
  unfold State.leaveCollection State.leaveQueue
  cases state : j.state with
  | receiving => rw [state] at h; exact nomatch h
  | held => rw [state] at h; exact nomatch h
  | _ => cases s.queueOf j.tag <;> rfl

theorem JobState.eq_receiving {x : JobState} (delivery : ¬x.inDelivery = true) (held : x ≠ .held) : x = .receiving := by
  cases x with
  | receiving => rfl
  | held => exact absurd rfl held
  | _ => exact absurd rfl delivery

/-- R3: a job leaves the Held List or the Delivery Queue that holds it. -/
theorem State.leaveCollection_places (hw : s.TablesCanonical)
    (held : ∀ k, j.tag ∈ s.places.held k ↔ j.state = .held ∧ k = j.account)
    (delivers : ∀ p, j.tag ∈ s.places.queue p → j.state.inDelivery = true)
    (apart : ∀ p q, j.tag ∈ s.places.queue p → j.tag ∈ s.places.queue q → p = q) :
    (s.leaveCollection j).places = { s.places with
      held := fun k => (s.places.held k).filter (· ≠ j.tag), queue := fun p => (s.places.queue p).filter (· ≠ j.tag) } := by
  have unheld (other : j.state ≠ .held) : s.places.held = fun k => (s.places.held k).filter (· ≠ j.tag) :=
    funext fun k => (filter_ne_self fun mem => other ((held k).1 mem).1).symm
  have unqueued (other : ¬j.state.inDelivery = true) : s.places.queue = fun p => (s.places.queue p).filter (· ≠ j.tag) :=
    funext fun p => (filter_ne_self fun mem => other (delivers p mem)).symm
  by_cases delivery : j.state.inDelivery = true
  · have other : j.state ≠ .held := fun state => by rw [state] at delivery; exact nomatch delivery
    rw [State.leaveCollection_delivery delivery, State.leaveQueue_places hw j.tag apart]
    exact Places.ext rfl rfl (unheld other) rfl rfl rfl
  · by_cases state : j.state = .held
    · rw [show s.leaveCollection j = s.unhold j.account j.tag by unfold State.leaveCollection; rw [state]]
      obtain ⟨helds, reserved⟩ := s.places_setAccount j.account
        { s.account j.account with held := (s.account j.account).held.filter (· ≠ j.tag) }
      refine Places.ext rfl rfl (funext fun k => (helds k).trans ?_) (funext fun k => (reserved k).trans ?_)
        (unqueued delivery) rfl
      · split
        next here => rw [here]; rfl
        next here => exact (filter_ne_self fun mem => here ((held k).1 mem).2).symm
      · split
        next here => rw [here]; rfl
        next => rfl
    · have receiving := JobState.eq_receiving delivery state
      rw [show s.leaveCollection j = s by unfold State.leaveCollection; rw [receiving]]
      exact Places.ext rfl rfl (unheld state) rfl (unqueued delivery) rfl

/-- R3: a job ends, its reservation having been given back. -/
theorem State.endJob_places (h : s.InOrder o) (job : s.job g = some j) (free : j.reservation = none) (why : EndReason) :
    (s.endJob j why).places = s.places.take j.placing := by
  obtain ⟨hj, -⟩ := State.job_placing job
  have named : s.job j.tag = some j := by rw [s.tag_of_job job]; exact job
  let r := s.released j
  have gone : Moves endPieces s r := ((Moves.one (.drop s j named)).mono).next (State.freeContext_moves _ _)
  have left : Moves endPieces s (r.leaveCollection j) := gone.next (State.leaveCollection_moves _ _)
  rw [(Unmoved.of_moves (State.endJob_rest s j why)).places (left.keeps_tables h.tables),
    State.leaveCollection_places (gone.keeps_tables h.tables) (fun k => h.jobs.mem_held hj k) (fun p => h.jobs.delivers hj)
      (fun p q hp hq => (h.jobs.mem_queue hq p).1 hp)]
  refine Places.ext (s.places_dropJob j.tag) (s.places_freeContext j.tag) rfl (funext fun k => ?_) rfl rfl
  show _ = s.places.reserved k - _
  rw [show j.placing.reservation = none from free, Option.getD_none, ite_self, Nat.sub_zero]
  rfl

/-- R3: a job that a tag names ends, if it is there; its stream has been stopped and its reservation given back. -/
theorem State.InOrder.ended (h : s.InOrder (some g)) (free : ∀ j, s.job g = some j → j.reservation = none) (why : EndReason) :
    (s.endTag g why).InOrder none ∧ (∀ x, x ≠ g → Places.SameFor x s.places (s.endTag g why).places) ∧
      (s.endTag g why).job g = none := by
  have tables := (s.endTag_moves g why).keeps_tables h.tables
  cases job : s.job g with
  | none =>
    have same : s.endTag g why = s := by unfold State.endTag; rw [job]
    rw [same] at tables ⊢
    have absent : ∀ i ∈ s.places.recs, i.tag ≠ g := fun i hi tag => by
      obtain ⟨j, job', -⟩ := h.mem_recs.1 hi
      rw [tag, job] at job'
      exact nomatch job'
    exact ⟨⟨tables, h.jobs.unstopped absent⟩, fun x _ => Places.SameFor.refl x _, job⟩
  | some j =>
    have tag := s.tag_of_job job
    have places := State.endJob_places h job (free j job) why
    rw [State.endTag_job why job] at tables ⊢
    obtain ⟨hj, -⟩ := State.job_placing job
    subst tag
    refine ⟨⟨tables, ?_⟩, fun x other => ?_, ?_⟩
    · rw [places]
      exact h.jobs.taken hj
    · rw [places]
      exact Places.sameFor_taken other
    · cases after : (s.endJob j why).job j.tag with
      | none => rfl
      | some x =>
        obtain ⟨hx, tag⟩ := State.job_placing after
        rw [places] at hx
        exact absurd tag (Places.mem_others.1 hx).2

end Sys2Proof.Machine

/-! PROOFS. Jobs in delivery that are settled (R33, R34, R100) or return to hold (R21), in terms of where jobs stand. -/

namespace Sys2Proof.Machine

set_option Elab.async false

section

variable {v w : Places} {j j' : Placing} {o : Option Nat} {p : Nat}

/-- The reserved of an account is that without a job, and the job's reservation. -/
theorem Places.Sound.reserved_take (h : v.Sound o) (hj : j ∈ v.recs) (k : Nat) :
    v.reserved k = (if k = j.account then j.reservation.getD 0 else 0) + (v.take j).reserved k := by
  show v.reserved k = _ + (v.reserved k - _)
  rw [h.reserved, reservedBy_others h hj, Nat.add_sub_cancel_left]

/-- A job of a Delivery Queue changes its record where it stands. -/
theorem Places.Sound.put_inPlace (h : v.Sound o) (hj : j ∈ v.recs) (mem : j.tag ∈ v.queue p) (same : j'.tag = j.tag)
    (account : j'.account = j.account) (reservation : j'.reservation = j.reservation) (delivers : j'.state.inDelivery = true)
    (recs : w.recs.Perm (j' :: v.others j.tag)) (rest : w.contexts = v.contexts ∧ w.held = v.held ∧ w.reserved = v.reserved ∧
      w.queue = v.queue) : (v.take j).Put w j' p := by
  obtain ⟨contexts, held, reserved, queue⟩ := rest
  have was := h.delivers hj mem
  have other {x : JobState} (hx : x.inDelivery = true) : x ≠ .receiving ∧ x ≠ .held := by
    cases x with
    | receiving => exact nomatch hx
    | held => exact nomatch hx
    | _ => exact ⟨nofun, nofun⟩
  refine ⟨recs, ?_, fun k => ?_, fun k => ?_, fun q => ?_⟩
  · rw [if_neg (other delivers).1, contexts]
    exact .of_eq (filter_ne_self fun mem' => (other was).1 ((h.mem_contexts hj).1 mem')).symm
  · rw [if_neg fun here => (other delivers).2 here.1, held]
    exact .of_eq (filter_ne_self fun mem' => (other was).2 ((h.mem_held hj k).1 mem').1).symm
  · rw [reserved, account, reservation]
    exact h.reserved_take hj k
  · rw [queue, same]
    by_cases here : q = p
    · rw [if_pos ⟨delivers, here⟩, here]
      exact perm_cons_filter mem (h.queuedOnce p)
    · rw [if_neg fun both => here both.2]
      exact .of_eq (filter_ne_self fun mem' => here ((h.mem_queue mem q).1 mem')).symm

end

variable {s t u : State} {o : Option Nat} {g p : Nat} {j : Job}

/-! ### Settlement (R34, R100) -/

/-- R34: the reserved of the account falls by the reservation. -/
theorem State.settle_unmoved (s : State) (k r n : Nat) :
    Unmoved (s.setAccount k { s.account k with reserved := (s.account k).reserved - r }) (s.settle k r n) := by
  let a : Account := { s.account k with
    reserved := (s.account k).reserved - r, spent := min Config.maxPoints ((s.account k).spent + n) }
  have spent : Unmoved (s.setAccount k { s.account k with reserved := (s.account k).reserved - r })
      ((s.setAccount k { s.account k with reserved := (s.account k).reserved - r }).setAccount k a) :=
    Unmoved.setAccount _ k a (by rw [State.account_setAccount, if_pos rfl]) (by rw [State.account_setAccount, if_pos rfl])
  rw [State.setAccount_setAccount] at spent
  exact (spent.trans (Unmoved.evalOverdrawn _ k)).trans (Unmoved.mark _ _)

/-- R33, R34: the reserved of an account falls by a job's reservation, and the record has it no longer. -/
theorem State.unreserved_places (s : State) (hj : s.job g = some j) (f : Job → Job)
    (hf : ∀ x, (f x).placing = { x.placing with reservation := none }) :
    ((s.setAccount j.account { s.account j.account with
      reserved := (s.account j.account).reserved - j.reservation.getD 0 }).updJob g f).places = s.places.settled j.placing := by
  obtain ⟨held, reserved⟩ := s.places_setAccount j.account { s.account j.account with
    reserved := (s.account j.account).reserved - j.reservation.getD 0 }
  have tag := s.tag_of_job hj
  refine Places.ext ?_ rfl (funext fun k => (held k).trans ?_) (funext fun k => (reserved k).trans ?_) rfl rfl
  · refine (State.places_updJob _ g f (fun i => { i with reservation := none }) hf).trans ?_
    subst tag
    rfl
  · split
    next here => rw [here]; rfl
    next => rfl
  · show _ = s.places.reserved k - if k = j.account then _ else 0
    split
    next here => rw [here]; rfl
    next => rfl

theorem State.settleJob_places (h : s.TablesCanonical) (job : s.job g = some j) (n : Counts) :
    (s.settleJob g n).places = s.places.settled j.placing := by
  let a : Account := { s.account j.account with reserved := (s.account j.account).reserved - j.reservation.getD 0 }
  have settled := s.settle_unmoved j.account (j.reservation.getD 0) (j.chargeOf n)
  have tables : (s.setAccount j.account a).TablesCanonical :=
    ⟨h.classifier, Tbl.wf_put _ _ h.accounts, h.active, h.waiting, h.printers, h.callouts, h.reorders, h.slots⟩
  have same := settled.places tables
  let f : Job → Job := fun x => { x with reservation := none, charged := some (j.chargeOf n) }
  have shape : s.settleJob g n = (s.settle j.account (j.reservation.getD 0) (j.chargeOf n)).updJob g f := by
    unfold State.settleJob
    rw [job]
  rw [shape, ← s.unreserved_places job f fun _ => rfl]
  have upd (t : State) : (t.updJob g f).places =
      { t.places with recs := t.places.recs.map (fun i => if i.tag = g then { i with reservation := none } else i) } :=
    Places.ext (t.places_updJob g f _ fun _ => rfl) rfl rfl rfl rfl rfl
  rw [upd, upd, same]

/-- R34, R100: a job is settled: it stands where it stood, without its reservation. -/
theorem State.InOrder.settled (h : s.InOrder o) (g : Nat) (n : Counts) :
    (s.settleJob g n).InOrder o ∧ (∀ x, x ≠ g → Places.SameFor x s.places (s.settleJob g n).places) ∧
      (s.settleJob g n).places.queue = s.places.queue ∧
      (∀ j, (s.settleJob g n).job g = some j → j.reservation = none) := by
  have tables := (s.settleJob_moves g n).keeps_tables h.tables
  cases job : s.job g with
  | none =>
    have same : s.settleJob g n = s := by unfold State.settleJob; rw [job]
    rw [same]
    refine ⟨h, fun x _ => Places.SameFor.refl x _, rfl, fun j named => ?_⟩
    rw [job] at named
    exact nomatch named
  | some j =>
    have places := State.settleJob_places h.tables job n
    obtain ⟨hj, tag⟩ := State.job_placing job
    have perm := Places.settled_perm h.jobs hj
    have settled := h.jobs.settled hj
    revert tables places
    generalize s.settleJob g n = t
    intro tables places
    rw [← places] at settled perm
    have order : t.InOrder o := ⟨tables, settled⟩
    refine ⟨order, fun x other => ⟨fun i hi => ?_, fun q => by rw [places]; exact Iff.rfl⟩, by rw [places]; rfl,
      fun i named => ?_⟩
    · rw [perm.mem_iff, List.mem_cons, Places.mem_others, or_iff_right, and_iff_left]
      · exact fun same => other (hi.symm.trans (same.trans tag))
      · rintro rfl
        exact other (hi.symm.trans tag)
    · obtain ⟨hi, itag⟩ := State.job_placing named
      rcases List.mem_cons.1 (perm.mem_iff.1 hi) with same | mem
      · exact congrArg Placing.reservation same
      · exact absurd (itag.trans tag.symm) (Places.mem_others.1 mem).2

/-! ### The return to hold (R21) -/

/-- R37: a job enters a Held List. -/
theorem State.insertHeld_perm (s : State) (g : Nat) (l : List Nat) : (s.insertHeld g l).Perm (g :: l) := by
  obtain ⟨a, b, split, insert, -⟩ := s.insertHeld_split g l
  rw [insert, split, List.append_assoc]
  exact List.perm_middle

theorem State.held_places (s : State) (k g : Nat) :
    (∀ i, ((s.setAccount k { s.account k with held := s.insertHeld g (s.account k).held }).places.held i).Perm
      (if i = k then g :: s.places.held i else s.places.held i)) ∧
    (s.setAccount k { s.account k with held := s.insertHeld g (s.account k).held }).places.reserved = s.places.reserved := by
  obtain ⟨held, reserved⟩ := s.places_setAccount k { s.account k with held := s.insertHeld g (s.account k).held }
  refine ⟨fun i => (Eq.symm (held i)) ▸ ?_, funext fun i => (reserved i).trans ?_⟩
  · by_cases here : i = k
    · rw [if_pos here, if_pos here, here]
      exact s.insertHeld_perm g _
    · rw [if_neg here, if_neg here]
  · split
    next here => rw [here]; rfl
    next => rfl

/-- R33, R34: the collections once the reserved of an account has fallen by a job's reservation. -/
def Places.unreserved (v : Places) (j : Placing) : Places :=
  { v with reserved := fun k => v.reserved k - if k = j.account then j.reservation.getD 0 else 0 }

theorem Places.unreserved_none {v : Places} {j : Placing} (h : j.reservation = none) : v.unreserved j = v := by
  refine Places.ext rfl rfl rfl (funext fun k => ?_) rfl rfl
  show v.reserved k - _ = _
  rw [h, Option.getD_none, ite_self, Nat.sub_zero]

/-- R21: a job returns to hold from the queue that holds it, its stream stopped, and its reservation taken from reserved. -/
theorem State.returnToHold_sound {v : Places} (hw : s.TablesCanonical) (h : v.Sound (some g)) (job : s.job g = some j)
    (given : s.places = v.unreserved j.placing) (mem : g ∈ v.queue p) :
    (s.returnToHold p g).InOrder none ∧ (∀ x, x ≠ g → Places.SameFor x v (s.returnToHold p g).places) ∧
      ∀ i ∈ (s.returnToHold p g).places.recs, i.tag = g → i.state = .held := by
  have tables := (s.returnToHold_moves p g).keeps_tables hw
  obtain ⟨listed, tag⟩ := State.job_placing job
  have hj : j.placing ∈ v.recs := by
    rw [given] at listed
    exact listed
  have delivers : j.placing.state.inDelivery = true := h.delivers hj (tag.symm ▸ mem)
  let a := (s.unqueue p g).updJob g fun x => x.returned s.clock.uptime
  let b := a.setAccount j.account { a.account j.account with held := a.insertHeld g (a.account j.account).held }
  have shape : s.returnToHold p g = b.jobStatus j .held (some p) none none := by
    unfold State.returnToHold
    rw [job]
  have unqueued : (s.unqueue p g).places = { v.unreserved j.placing with
      queue := fun q => if q = p then (v.queue q).filter (· ≠ g) else v.queue q } := by
    rw [State.unqueue_places hw p g, given]
    rfl
  have inTable : b.TablesCanonical :=
    (((s.unqueue_moves p g).mono (l := holdPieces)).next (State.updJob_moves _ _ _) |>.next
      (a.held_moves j.account _)).keeps_tables hw
  have same : (s.returnToHold p g).places = b.places := by
    rw [shape]
    exact (Unmoved.jobStatus b j .held (some p) none none).places inTable
  let held : Placing := { tag := g, state := .held, account := j.account, reservation := none }
  obtain ⟨helds, reserved⟩ := a.held_places j.account g
  have unheld (k : Nat) : (v.held k).filter (· ≠ g) = v.held k := by
    refine filter_ne_self fun mem' => ?_
    rw [((h.mem_held hj k).1 (tag.symm ▸ mem')).1] at delivers
    exact nomatch delivers
  have idle : v.contexts.filter (· ≠ g) = v.contexts := by
    refine filter_ne_self fun mem' => ?_
    rw [(h.mem_contexts hj).1 (tag.symm ▸ mem')] at delivers
    exact nomatch delivers
  have put : (v.take j.placing).Put b.places held 0 := by
    subst tag
    refine ⟨?_, ?_, fun k => ?_, fun k => ?_, fun q => ?_⟩
    · show (a.places.recs).Perm _
      rw [State.places_updJob _ _ _ (fun i => { i with state := .held, reservation := none }) fun _ => rfl, unqueued]
      exact Places.mapped_perm h hj _
    · show (a.places.contexts).Perm (v.contexts.filter _)
      rw [idle, show a.places.contexts = (s.unqueue p j.placing.tag).places.contexts from rfl, unqueued]
      exact .rfl
    · show (b.places.held k).Perm (if _ then _ :: List.filter _ _ else List.filter _ _)
      rw [unheld]
      refine (helds k).trans (.of_eq ?_)
      rw [show a.places.held = (s.unqueue p j.placing.tag).places.held from rfl, unqueued]
      exact if_congr (and_iff_right rfl).symm rfl rfl
    · show b.places.reserved k = (if _ then 0 else 0) + (v.reserved k - _)
      rw [reserved, show a.places.reserved = (s.unqueue p j.placing.tag).places.reserved from rfl, unqueued]
      exact (ite_self 0 ▸ Nat.zero_add _).symm
    · show (b.places.queue q).Perm (List.filter _ _)
      rw [show b.places.queue = (s.unqueue p j.placing.tag).places.queue from rfl, unqueued]
      show (if _ then _ else _ : List Nat).Perm _
      split
      next here => rw [here]
      next other => rw [filter_ne_self fun mem' => other ((h.mem_queue mem q).1 mem')]
  have sound : b.places.Sound none := by
    refine Places.Sound.moved (tag.symm ▸ h) hj tag.symm put ?_ nofun fun some => absurd rfl some
    rw [show b.places.control = (s.unqueue p g).places.control from rfl, unqueued]
    rfl
  rw [← same] at put sound
  refine ⟨⟨tables, sound⟩, fun x other => put.sameFor tag.symm (tag.symm ▸ other), fun i hi itag => ?_⟩
  rcases List.mem_cons.1 (put.recs.mem_iff.1 hi) with rfl | mem
  · rfl
  · exact absurd (itag.trans tag.symm) (Places.mem_others.1 mem).2

theorem State.InOrder.returned (h : s.InOrder (some g)) (mem : g ∈ s.places.queue p)
    (free : ∀ j, s.job g = some j → j.reservation = none) :
    (s.returnToHold p g).InOrder none ∧ (∀ x, x ≠ g → Places.SameFor x s.places (s.returnToHold p g).places) ∧
      ∀ i ∈ (s.returnToHold p g).places.recs, i.tag = g → i.state = .held := by
  obtain ⟨i, hi, tag, -⟩ := h.jobs.queue_of mem
  obtain ⟨j, job, rfl⟩ := h.mem_recs.1 hi
  rw [tag] at job
  exact State.returnToHold_sound h.tables h.jobs job (Places.unreserved_none (free j job)).symm mem

end Sys2Proof.Machine

/-! PROOFS. Streams that start and stop (R89, R90, R94, R97, R104), and what carries the jobs: it keeps them in order, and leaves
a job that is not Released where it was, or Held. -/

namespace Sys2Proof.Machine

set_option Elab.async false

section

variable {u v w : Places} {x : Nat}

/-- No Released job of a tag. -/
def Places.NotReleased (x : Nat) (v : Places) : Prop := ∀ i ∈ v.recs, i.tag = x → i.state ≠ .released

/-- A job that is there afterwards is Held, or in the state and in the queue that it had. -/
def Places.Stays (x : Nat) (v w : Places) : Prop :=
  ∀ i ∈ w.recs, i.tag = x → i.state = .held ∨
    ((∃ i' ∈ v.recs, i'.tag = x ∧ i'.state = i.state) ∧ ∀ p, x ∈ w.queue p ↔ x ∈ v.queue p)

theorem Places.SameFor.stays (h : Places.SameFor x v w) : Places.Stays x v w :=
  fun i hi tag => .inr ⟨⟨i, (h.1 i tag).1 hi, tag, rfl⟩, h.2⟩

theorem Places.Stays.notReleased (h : Places.Stays x v w) (hv : Places.NotReleased x v) : Places.NotReleased x w := by
  intro i hi tag
  rcases h i hi tag with held | ⟨⟨i', hi', tag', same⟩, -⟩
  · rw [held]
    nofun
  · rw [← same]
    exact hv i' hi' tag'

theorem Places.Stays.trans (h : Places.Stays x u v) (h' : Places.Stays x v w) : Places.Stays x u w := by
  intro i hi tag
  rcases h' i hi tag with held | ⟨⟨i', hi', tag', same⟩, queue⟩
  · exact .inl held
  · rcases h i' hi' tag' with held | ⟨⟨i'', hi'', tag'', same'⟩, queue'⟩
    · exact .inl (same.symm.trans held)
    · exact .inr ⟨⟨i'', hi'', tag'', same'.trans same⟩, fun p => (queue p).trans (queue' p)⟩

end

variable {s t u : State} {o : Option Nat} {g p : Nat} {j : Job}

/-! ### What keeps the jobs in order -/

/-- Jobs in order stay so. -/
def KeepsOrder (s t : State) : Prop := s.InOrder none → t.InOrder none

theorem KeepsOrder.trans (h : KeepsOrder s t) (h' : KeepsOrder t u) : KeepsOrder s u := h' ∘ h

theorem Unmoved.keepsOrder (h : Unmoved s t) : KeepsOrder s t := fun order => order.unmoved h

/-- Jobs in order stay so, and one that is not Released stays where it was, or becomes Held. -/
def Carries (s t : State) : Prop :=
  s.InOrder none → t.InOrder none ∧ ∀ x, Places.NotReleased x s.places → Places.Stays x s.places t.places

theorem Carries.keepsOrder (h : Carries s t) : KeepsOrder s t := fun order => (h order).1

theorem Unmoved.carries (h : Unmoved s t) : Carries s t := fun order =>
  ⟨order.unmoved h, fun x _ => by rw [h.places order.tables]; exact (Places.SameFor.refl x _).stays⟩

theorem Carries.refl (s : State) : Carries s s := (Unmoved.refl s).carries

theorem Carries.trans (h : Carries s t) (h' : Carries t u) : Carries s u := fun order =>
  have ⟨mid, stays⟩ := h order
  have ⟨last, stays'⟩ := h' mid
  ⟨last, fun x hx => (stays x hx).trans (stays' x ((stays x hx).notReleased hx))⟩

theorem Carries.next (h : Carries s t) (h' : Unmoved t u) : Carries s u := h.trans h'.carries

theorem Unmoved.before (h : Unmoved s t) (h' : Carries t u) : Carries s u := h.carries.trans h'

theorem Carries.foldl {α : Type} {f : State → α → State} (hf : ∀ s x, Carries s (f s x)) (l : List α) (s : State) :
    Carries s (l.foldl f s) := by
  induction l generalizing s with
  | nil => exact .refl s
  | cons x l ih => exact (hf s x).trans (ih _)

/-! ### The control list (R90) -/

/-- A printer's control list replaced. -/
theorem State.updControl_places (s : State) (p : Nat) (f : Printer → Printer) (queue : ∀ e, (f e).queue = e.queue) :
    ∃ c, (s.updPrinter p f).places = { s.places with control := c } ∧ (∀ q, q ≠ p → c q = s.places.control q) ∧
      c p = (f (s.printer p)).control := by
  obtain ⟨queues, controls⟩ := s.places_updPrinter p f
  refine ⟨_, Places.ext rfl rfl rfl rfl (funext fun q => (queues q).trans ?_) rfl, fun q other => ?_, ?_⟩
  · split
    next here => rw [here, queue]; rfl
    next => rfl
  · exact (controls q).trans (if_neg other)
  · exact (controls p).trans (if_pos rfl)

/-- R90: a stream control message goes out, or waits at the end of the control list. -/
theorem State.sendControl_control (hw : s.TablesCanonical) (p : Nat) (m : OwnMsg) :
    ∃ c, (s.sendControl p m).places = { s.places with control := c } ∧ (∀ q, q ≠ p → c q = s.places.control q) ∧
      (c p = [] ∧ s.places.control p = [] ∨ c p = s.places.control p ++ [m]) := by
  by_cases places : s.placesControl p
  · have empty : s.places.control p = [] := by
      have both := (s.placesControl_iff p).2 places
      rw [Bool.and_eq_true, List.isEmpty_iff] at both
      exact both.1
    have sent : Unmoved s (s.sendControl p m) := by
      have out : Unmoved s { s with fport := s.fport.place m } := by
        refine .of_changes (l := [.fleetOwn]) ?_
        intro x hx
        cases x <;>
          first | exact rfl | exact ⟨rfl, rfl⟩ | exact ⟨rfl, rfl, rfl⟩ | exact ⟨rfl, rfl, rfl, rfl⟩ | exact absurd (by decide) hx
      unfold State.sendControl
      rw [if_pos ((s.placesControl_iff p).2 places)]
      dsimp only
      split
      · exact out
      · exact out.trans (Unmoved.restartStall _ p)
    exact ⟨s.places.control, sent.places hw, fun _ _ => rfl, .inl ⟨empty, empty⟩⟩
  · rw [State.sendControl_waits places]
    obtain ⟨c, places, others, here⟩ := s.updControl_places p (fun e => { e with control := e.control ++ [m] }) fun _ => rfl
    exact ⟨c, places, others, .inr here⟩

/-- R90: the STREAM_BEGIN of a job is withdrawn from the control list of the printer it prints at: its stream is stopped. -/
theorem Places.Sound.withdrawn {v : Places} (h : v.Sound none) (mine : ∀ q, v.Prints q g → q = p)
    {c : Nat → List OwnMsg} (others : ∀ q, q ≠ p → c q = v.control q)
    (here : c p = (v.control p).filter (fun m => !m.isBeginOf g)) : Places.Sound (some g) { v with control := c } := by
  have kept {l : List OwnMsg} (only : OnlyCancels l) : l.filter (fun m => !m.isBeginOf g) = l := by
    rcases only with rfl | ⟨m, rfl, cancel⟩
    · rfl
    · exact List.filter_eq_self.2 fun x hx => by
        rw [List.mem_singleton.1 hx, OwnMsg.isBeginOf, cancel]
        rfl
  refine { h with control := fun q => ?_ }
  show ControlFits (c q) fun x => v.Prints q x ∧ some g ≠ some x
  by_cases at_p : q = p
  · subst at_p
    rw [here]
    rcases h.control q with none | ⟨only, idle⟩ | ⟨x, ⟨prints, -⟩, cancels, m, only, begins, e⟩
    · rw [none]
      exact .inl rfl
    · rw [kept only]
      exact only.fits fun y hy => idle y ⟨hy.1, nofun⟩
    · rw [e, List.filter_append, kept only]
      by_cases same : x = g
      · subst same
        rw [show [m].filter (fun m => !m.isBeginOf x) = [] by simp [begins], List.append_nil]
        exact only.fits fun y hy => hy.2 (congrArg some (h.printing q x y prints hy.1))
      · have mine : m.isBeginOf g = false := by
          unfold OwnMsg.isBeginOf at begins ⊢
          split at begins
          · rw [beq_iff_eq.1 begins]
            exact beq_eq_false_iff_ne.2 same
          · exact nomatch begins
        rw [show [m].filter (fun m => !m.isBeginOf g) = [m] by simp [mine]]
        exact .inr (.inr ⟨x, ⟨prints, fun same' => same (Option.some.inj same').symm⟩, cancels, m, only, begins, rfl⟩)
  · rw [others q at_p]
    refine (h.control q).congr fun x => and_congr_right fun prints => iff_of_true nofun fun same => ?_
    exact at_p (mine q (Option.some.inj same ▸ prints))

/-- R97: a job leaves Printing. -/
theorem State.InOrder.leavePrinting (h : s.InOrder none) (mine : ∀ q, s.places.Prints q g → q = p) :
    (s.leavePrinting p g).InOrder (some g) ∧ ∃ c, (s.leavePrinting p g).places = { s.places with control := c } := by
  obtain ⟨c, places, others, here⟩ := s.updControl_places p
    (fun e => { e with stall := .stopped, control := e.control.filter (fun m => !m.isBeginOf g) }) fun _ => rfl
  refine ⟨⟨(s.leavePrinting_moves p g).keeps_tables h.tables, ?_⟩, c, places⟩
  show (State.places (s.updPrinter p _)).Sound _
  rw [places]
  exact h.jobs.withdrawn mine others here

/-- R90, R102, R104: the stream of a job that prints is stopped. -/
theorem State.InOrder.cancelled (h : s.InOrder none) (prints : s.places.Prints p g) :
    (s.cancelStream p g).InOrder (some g) ∧ ∃ c, (s.cancelStream p g).places = { s.places with control := c } := by
  have mine (q : Nat) (here : s.places.Prints q g) : q = p := (h.jobs.mem_queue prints.1 q).1 here.1
  obtain ⟨stopped, -⟩ := h.leavePrinting mine
  obtain ⟨c, places, others, here⟩ := s.updControl_places p
    (fun e => { e with stall := .stopped, control := e.control.filter (fun m => !m.isBeginOf g) }) fun _ => rfl
  have left : (s.leavePrinting p g).places = { s.places with control := c } := places
  have only (waits : (s.printer p).control.any (fun m => m.isBeginOf g) = false) : c p = [] := by
    refine here.trans ?_
    rcases h.jobs.control p with none | ⟨-, idle⟩ | ⟨x, ⟨others, -⟩, cancels, m, -, begins, e⟩
    · rw [show (s.printer p).control = [] from none]
      rfl
    · exact absurd ⟨prints, nofun⟩ (idle g)
    · rw [show (s.printer p).control = cancels ++ [m] from e, h.jobs.printing p g x prints others] at waits
      simp [begins] at waits
  have tables := (s.cancelStream_moves p g).keeps_tables h.tables
  cases waits : (s.printer p).control.any (fun m => m.isBeginOf g) with
  | true =>
    have same : s.cancelStream p g = s.leavePrinting p g := by unfold State.cancelStream; rw [waits]; rfl
    rw [same]
    exact ⟨stopped, c, left⟩
  | false =>
    let t := s.leavePrinting p g
    have same : s.cancelStream p g = t.sendControl p (t.form (t.stationOf p) g 0 .streamCancel) := by
      unfold State.cancelStream
      rw [waits]
      rfl
    obtain ⟨c', places', others', sent⟩ := State.sendControl_control stopped.tables p (t.form (t.stationOf p) g 0 .streamCancel)
    have all : (s.cancelStream p g).places = { s.places with control := c' } := by
      rw [same, places', left]
    have before : t.places.control = c := by rw [left]
    refine ⟨⟨tables, ?_⟩, c', all⟩
    rw [all]
    refine h.jobs.stopped prints (fun q other => ?_) ?_
    · rw [others' q other, before, others q other]
    · rw [before, only waits] at sent
      rcases sent with ⟨empty, -⟩ | one
      · exact .inl empty
      · exact .inr ⟨_, one, rfl⟩

/-! ### The start of a stream (R89) -/

/-- R89: the next stream of a printer starts. -/
theorem State.startStream_carries (s : State) (p : Nat) : s.InOrder none → (s.startStream p).InOrder none ∧
    ∀ x, ¬(x ∈ s.places.queue p ∧ ∃ i ∈ s.places.recs, i.tag = x ∧ i.state = .released) →
      Places.SameFor x s.places (s.startStream p).places := by
  intro h
  have tables := (s.startStream_moves p).keeps_tables h.tables
  have idle : s.startStream p = s → (s.startStream p).InOrder none ∧ ∀ x, ¬(x ∈ s.places.queue p ∧
      ∃ i ∈ s.places.recs, i.tag = x ∧ i.state = .released) → Places.SameFor x s.places (s.startStream p).places := by
    intro same
    rw [same]
    exact ⟨h, fun x _ => Places.SameFor.refl x _⟩
  by_cases ready : ((s.printer p).standing.isEmpty && (s.firstIn p .printing).isNone) = true
  · cases first : s.firstIn p .released with
    | none =>
      refine idle ?_
      unfold State.startStream
      rw [if_pos ready, first]
    | some j =>
      obtain ⟨job, state, mem⟩ := State.firstIn_job first
      let a := s.updJob j.tag fun x => { x with state := .printing, sent := 0, allowed := 0 }
      let m := a.form (a.stationOf p) j.tag 0 (.streamBegin j.declaredCounts j.media j.received)
      have shape : s.startStream p = (a.sendControl p m).jobStatus j .printing (some p) none none := by
        unfold State.startStream
        rw [if_pos ready, first]
      have canonical : a.TablesCanonical := (State.updJob_moves s j.tag _).keeps_tables h.tables
      obtain ⟨c, places, others, sent⟩ := State.sendControl_control canonical p m
      have same : (s.startStream p).places = (a.sendControl p m).places := by
        rw [shape]
        exact (Unmoved.jobStatus _ j .printing (some p) none none).places ((a.sendControl_moves p m).keeps_tables canonical)
      obtain ⟨hj, -⟩ := State.job_placing job
      let j' : Placing := { j.placing with state := .printing }
      have alone (g : Nat) : ¬s.places.Prints p g := fun prints => by
        obtain ⟨mem', i, job', printing⟩ := (State.prints_iff h.once p g).1 prints
        have none : s.firstIn p .printing = none := by simp_all
        exact (s.firstIn_none_iff p .printing).1 none g mem' i job' printing
      have put : (s.places.take j.placing).Put (s.startStream p).places j' p := by
        rw [same, places]
        refine h.jobs.put_inPlace hj mem rfl rfl rfl rfl ?_ ⟨rfl, rfl, rfl, rfl⟩
        show a.places.recs.Perm _
        rw [State.places_updJob _ _ _ (fun i => { i with state := .printing }) fun _ => rfl]
        exact Places.mapped_perm h.jobs hj _
      have control : (s.startStream p).places.control = c := by rw [same, places]
      refine ⟨⟨tables, h.jobs.begun (j' := j') hj rfl (fun printing => ?_) put alone rfl (fun q other => ?_) ?_⟩, fun x other =>
        put.sameFor rfl fun here => other ?_⟩
      · exact nomatch state.symm.trans printing
      · rw [control]
        exact others q other
      · rw [control]
        rcases sent with ⟨empty, -⟩ | added
        · exact .inl empty
        · exact .inr ⟨m, beq_self_eq_true _, added⟩
      · rw [here]
        exact ⟨mem, j.placing, hj, rfl, state⟩
  · refine idle ?_
    unfold State.startStream
    rw [if_neg ready]

theorem Carries.startStream (s : State) (p : Nat) : Carries s (s.startStream p) := fun order =>
  have ⟨after, same⟩ := s.startStream_carries p order
  ⟨after, fun x hx => (same x fun ⟨_, i, hi, tag, released⟩ => hx i hi tag released).stays⟩

end Sys2Proof.Machine

/-! PROOFS. The first two steps of an evacuation (R104, R105), in terms of where jobs stand, and folds over the jobs of a list. -/

namespace Sys2Proof.Machine

set_option Elab.async false

variable {s t u : State} {o : Option Nat} {g p : Nat} {j : Job} {v : Places}

/-! ### Jobs that are settled and end (R97, R98, R102, R105) -/

theorem State.InOrder.idle (h : s.InOrder none) (idle : ∀ i ∈ s.places.recs, i.tag = g → i.state ≠ .printing) :
    s.InOrder (some g) :=
  ⟨h.tables, h.jobs.idle idle⟩

theorem State.absent_of_job (h : s.InOrder o) (gone : s.job g = none) : ∀ i ∈ s.places.recs, i.tag ≠ g := by
  intro i hi tag
  obtain ⟨j, job, -⟩ := h.mem_recs.1 hi
  rw [tag, gone] at job
  exact nomatch job

/-- A job is settled, what moves no job happens, and the job ends. -/
theorem State.InOrder.settledEnds (h : s.InOrder (some g)) (n : Counts) (same : Unmoved (s.settleJob g n) t) (why : EndReason) :
    (t.endTag g why).InOrder none ∧ (∀ x, x ≠ g → Places.SameFor x s.places (t.endTag g why).places) ∧
      ∀ i ∈ (t.endTag g why).places.recs, i.tag ≠ g := by
  obtain ⟨settled, others, -, free⟩ := h.settled g n
  have places := same.places settled.tables
  have order := settled.unmoved same
  have free' (j : Job) (job : t.job g = some j) : j.reservation = none := by
    obtain ⟨hj, tag⟩ := State.job_placing job
    rw [places] at hj
    obtain ⟨i, job', e⟩ := settled.mem_recs.1 hj
    rw [tag] at job'
    rw [show j.reservation = i.reservation from congrArg Placing.reservation e.symm]
    exact free i job'
  obtain ⟨ended, others', gone⟩ := order.ended free' why
  refine ⟨ended, fun x other => (others x other).trans ?_, State.absent_of_job ended gone⟩
  rw [← places]
  exact others' x other

/-- What leaves every other job where it was carries the jobs, the one being Held afterwards or gone. -/
theorem carries_of_sameFor (others : ∀ x, x ≠ g → Places.SameFor x s.places t.places)
    (one : ∀ i ∈ t.places.recs, i.tag = g → i.state = .held) (x : Nat) : Places.Stays x s.places t.places := by
  by_cases here : x = g
  · subst here
    exact fun i hi tag => .inl (one i hi tag)
  · exact (others x here).stays

/-! ### The three steps of an evacuation (R104 to R106) -/

/-- R94, R104: the job that prints is stopped, settled and returned to hold. -/
theorem State.InOrder.stopped (h : s.InOrder none) (prints : s.places.Prints p g) (n : Counts) :
    (((s.cancelStream p g).settleJob g n).returnToHold p g).InOrder none ∧
      ∀ x, Places.Stays x s.places (((s.cancelStream p g).settleJob g n).returnToHold p g).places := by
  obtain ⟨cancelled, c, places⟩ := h.cancelled prints
  obtain ⟨settled, others, queue, free⟩ := cancelled.settled g n
  have mem : g ∈ ((s.cancelStream p g).settleJob g n).places.queue p := by
    rw [queue, places]
    exact prints.1
  obtain ⟨held, others', isHeld⟩ := settled.returned mem free
  refine ⟨held, carries_of_sameFor (g := g) (fun x other => ?_) isHeld⟩
  have same : Places.SameFor x s.places (s.cancelStream p g).places := by
    rw [places]
    exact ⟨fun _ _ => Iff.rfl, fun _ => Iff.rfl⟩
  exact (same.trans (others x other)).trans (others' x other)

/-- The first job of a queue that prints, as data. -/
theorem State.InOrder.prints (h : s.InOrder none) (first : s.firstIn p .printing = some j) : s.places.Prints p j.tag := by
  obtain ⟨job, state, mem⟩ := State.firstIn_job first
  exact (State.prints_iff h.once p j.tag).2 ⟨mem, j, job, state⟩

theorem Carries.stopPrinting (s : State) (p : Nat) : Carries s (s.stopPrinting p) := by
  unfold State.stopPrinting
  cases first : s.firstIn p .printing with
  | none => exact .refl s
  | some j =>
    intro h
    obtain ⟨order, stays⟩ := h.stopped (h.prints first) j.reportedOrZero
    exact ⟨order, fun x _ => stays x⟩

/-- What happens to the jobs of a list of tags, one after another, each finding its job as the list was made. -/
theorem Carries.tags {f : State → Nat → State} {P : Nat → Places → Prop}
    (hf : ∀ s g, s.InOrder none → P g s.places → (f s g).InOrder none ∧
      (∀ x, Places.NotReleased x s.places → Places.Stays x s.places (f s g).places) ∧
      ∀ x, x ≠ g → P x s.places → P x (f s g).places)
    {l : List Nat} (once : l.Nodup) (hl : s.InOrder none → ∀ g ∈ l, P g s.places) : Carries s (l.foldl f s) := by
  induction l generalizing s with
  | nil => exact .refl s
  | cons g l ih =>
    obtain ⟨fresh, once'⟩ := List.nodup_cons.1 once
    intro h
    obtain ⟨order, stays, kept⟩ := hf s g h (hl h g (List.mem_cons_self ..))
    have rest := ih (s := f s g) once' fun _ x hx => kept x (fun same => fresh (same ▸ hx)) (hl h x (List.mem_cons_of_mem _ hx))
    exact Carries.trans (fun _ => ⟨order, stays⟩) rest h

/-- The tags of the jobs of a queue in a state. -/
theorem State.InOrder.jobsIn_tags (h : s.InOrder none) (p : Nat) (x : JobState) :
    ((s.jobsIn p x).map Job.tag).Nodup ∧ ∀ g ∈ (s.jobsIn p x).map Job.tag, g ∈ s.places.queue p ∧
      ∀ i ∈ s.places.recs, i.tag = g → i.state = x := by
  constructor
  · have sub : ((s.printer p).queue.filterMap s.job).map Job.tag = (s.printer p).queue.filter (fun g => (s.job g).isSome) := by
      induction (s.printer p).queue with
      | nil => rfl
      | cons g l ih =>
        cases job : s.job g with
        | none => simp [job, ih]
        | some j => simp [job, ih, s.tag_of_job job]
    have distinct : (((s.printer p).queue.filterMap s.job).map Job.tag).Nodup := by
      rw [sub]
      exact (h.jobs.queuedOnce p).filter _
    exact distinct.sublist (List.filter_sublist.map _)
  · intro g hg
    obtain ⟨j, hj, rfl⟩ := List.mem_map.1 hg
    obtain ⟨listed, state⟩ := List.mem_filter.1 hj
    obtain ⟨g, hg, job⟩ := List.mem_filterMap.1 listed
    have tag := s.tag_of_job job
    subst tag
    refine ⟨hg, fun i hi same => ?_⟩
    rw [h.jobs.unique hi (State.job_placing job).1 same]
    exact beq_iff_eq.1 state

/-- A job of a tag is in one of the states given. -/
def Places.In (x : Nat) (st : JobState) (v : Places) : Prop := ∀ i ∈ v.recs, i.tag = x → i.state = st

theorem Places.SameFor.stateIn {x : Nat} {w : Places} {st : JobState} (h : Places.SameFor x v w) (hv : Places.In x st v) :
    Places.In x st w := fun i hi tag => hv i ((h.1 i tag).1 hi) tag

/-- R105: a job that is Finishing is settled and ends. -/
theorem State.endFinishing_ends (h : s.InOrder none) (finishing : Places.In g .finishing s.places) :
    (s.endFinishing g).InOrder none ∧ (∀ x, x ≠ g → Places.SameFor x s.places (s.endFinishing g).places) ∧
      ∀ x, Places.Stays x s.places (s.endFinishing g).places := by
  unfold State.endFinishing
  cases job : s.job g with
  | none => exact ⟨h, fun x _ => .refl x _, fun x => (Places.SameFor.refl x _).stays⟩
  | some j =>
    have idle : s.InOrder (some g) := h.idle fun i hi tag => by rw [finishing i hi tag]; nofun
    obtain ⟨ended, others, gone⟩ := idle.settledEnds j.reportedOrZero (Unmoved.refl _) .printed
    exact ⟨ended, others, carries_of_sameFor others fun i hi tag => absurd tag (gone i hi)⟩

theorem Carries.endFinishing (s : State) (p : Nat) :
    Carries s (((s.jobsIn p .finishing).map Job.tag).foldl State.endFinishing s) := by
  intro h
  obtain ⟨once, listed⟩ := h.jobsIn_tags p .finishing
  refine Carries.tags (P := fun x v => Places.In x .finishing v) (fun s g h finishing => ?_) once
    (fun _ g hg => (listed g hg).2) h
  obtain ⟨order, others, stays⟩ := State.endFinishing_ends h finishing
  exact ⟨order, fun x _ => stays x, fun x other => (others x other).stateIn⟩

end Sys2Proof.Machine

/-! PROOFS. Jobs that enter a Delivery Queue (R68, R88, R106), and evacuation (R103), in terms of where jobs stand. -/

namespace Sys2Proof.Machine

set_option Elab.async false

variable {s t u : State} {o : Option Nat} {g p : Nat} {j : Job} {v : Places}

/-! ### Points given back and taken (R32, R33) -/

theorem State.setAccount_tables (hw : s.TablesCanonical) (k : Nat) (a : Account) : (s.setAccount k a).TablesCanonical :=
  ⟨hw.classifier, Tbl.wf_put _ _ hw.accounts, hw.active, hw.waiting, hw.printers, hw.callouts, hw.reorders, hw.slots⟩

/-- The reserved of an account set to another value. -/
theorem State.setReserved_places (s : State) (k n : Nat) : (s.setAccount k { s.account k with reserved := n }).places =
    { s.places with reserved := fun i => if i = k then n else s.places.reserved i } := by
  obtain ⟨held, reserved⟩ := s.places_setAccount k { s.account k with reserved := n }
  refine Places.ext rfl rfl (funext fun i => (held i).trans ?_) (funext reserved) rfl rfl
  split
  next here => rw [here]; rfl
  next => rfl

/-- R33: the reservation of a job is given back. -/
theorem State.unreserve_places (s : State) (j : Job) :
    (s.unreserve j.account (j.reservation.getD 0)).places = s.places.unreserved j.placing := by
  refine (s.setReserved_places j.account _).trans (Places.ext rfl rfl rfl (funext fun i => ?_) rfl rfl)
  show (if _ then _ else _) = s.places.reserved i - if i = j.account then _ else 0
  split
  next here => rw [here]; rfl
  next => rfl

/-- R32: points are reserved for an account. -/
def Places.reserving (v : Places) (k n : Nat) : Places :=
  { v with reserved := fun i => (if i = k then n else 0) + v.reserved i }

theorem State.reserve_places {k n : Nat} (h : s.reserve k n = some t) : t.places = s.places.reserving k n := by
  unfold State.reserve at h
  dsimp only at h
  split at h
  · obtain rfl := Option.some.inj h
    refine (s.setReserved_places k _).trans (Places.ext rfl rfl rfl (funext fun i => ?_) rfl rfl)
    show (if _ then _ else _) = (if _ then _ else 0) + s.places.reserved i
    split
    next here => rw [here, Nat.add_comm]; rfl
    next => exact (Nat.zero_add _).symm
  · exact nomatch h

theorem State.reserve_tables {k n : Nat} (h : s.reserve k n = some t) (hw : s.TablesCanonical) : t.TablesCanonical := by
  unfold State.reserve at h
  dsimp only at h
  split at h
  · obtain rfl := Option.some.inj h
    exact State.setAccount_tables hw _ _
  · exact nomatch h

/-! ### A job enters a Delivery Queue (R68, R88, R106) -/

theorem State.updPrinter_tables (hw : s.TablesCanonical) (q : Nat) (f : Printer → Printer) : (s.updPrinter q f).TablesCanonical :=
  ⟨hw.classifier, hw.accounts, hw.active, hw.waiting, Tbl.wf_put _ _ hw.printers, hw.callouts, hw.reorders, hw.slots⟩

theorem State.updJob_tables (hw : s.TablesCanonical) (g : Nat) (f : Job → Job) : (s.updJob g f).TablesCanonical :=
  ⟨hw.classifier, hw.accounts, hw.active, hw.waiting, hw.printers, hw.callouts, hw.reorders, hw.slots⟩

theorem State.enterQueue_places (hw : s.TablesCanonical) (q g : Nat) : (s.enterQueue q g).TablesCanonical ∧
    (s.enterQueue q g).places =
      { s.places with queue := fun i => if i = q then s.places.queue i ++ [g] else s.places.queue i } := by
  have tables := State.updPrinter_tables hw q fun e => { e with queue := e.queue ++ [g] }
  have quiet : Unmoved (s.updPrinter q fun e => { e with queue := e.queue ++ [g] }) (s.enterQueue q g) :=
    Unmoved.abandonSettling _
  refine ⟨quiet.tables tables, (quiet.places tables).trans ?_⟩
  obtain ⟨queue, control⟩ := s.places_updPrinter q fun e => { e with queue := e.queue ++ [g] }
  refine Places.ext rfl rfl rfl rfl (funext fun i => (queue i).trans ?_) (funext fun i => (control i).trans ?_)
  · split
    next here => rw [here]; exact (if_pos rfl).symm
    next other => exact (if_neg other).symm
  · split
    next here => rw [here]; rfl
    next => rfl

/-- A job that has left its place, its record released at a price reserved, enters a queue, whose next stream may start. -/
theorem State.entered {x : Placing} {q n : Nat} {f : Placing → Placing} (hw : s.TablesCanonical) (h : v.Sound (some x.tag))
    (hx : x ∈ v.recs) (released : f x = { x with state := .released, reservation := some n })
    (left : s.places = { (v.take x).reserving x.account n with recs := v.recs.map (fun i => if i.tag = x.tag then f i else i) })
    (j : Job) :
    (((s.enterQueue q x.tag).jobStatus j .released (some q) none none).startStream q).InOrder none ∧
      ∀ y, y ≠ x.tag → ¬(y ∈ v.queue q ∧ ∃ i ∈ v.recs, i.tag = y ∧ i.state = .released) →
        Places.SameFor y v (((s.enterQueue q x.tag).jobStatus j .released (some q) none none).startStream q).places := by
  obtain ⟨tables, places⟩ := State.enterQueue_places hw q x.tag
  have told : Unmoved (s.enterQueue q x.tag) ((s.enterQueue q x.tag).jobStatus j .released (some q) none none) :=
    Unmoved.jobStatus _ j .released (some q) none none
  have put : (v.take x).Put (s.enterQueue q x.tag).places { x with state := .released, reservation := some n } q := by
    rw [places, left]
    refine ⟨?_, .rfl, fun k => ?_, fun k => rfl, fun i => ?_⟩
    · exact released ▸ Places.mapped_perm h hx f
    · exact .of_eq (if_neg fun both => nomatch both.1).symm
    · show (if i = q then (v.take x).queue i ++ [x.tag] else (v.take x).queue i).Perm _
      split
      next here =>
        rw [if_pos ⟨rfl, here⟩]
        exact List.perm_append_singleton _ _
      next other =>
        rw [if_neg fun both => other both.2]
  have control : (s.enterQueue q x.tag).places.control = v.control := by rw [places, left]; rfl
  have sound : (s.enterQueue q x.tag).places.Sound none :=
    h.moved (j' := { x with state := .released, reservation := some n }) hx rfl put control nofun fun _ => rfl
  have order := State.InOrder.unmoved ⟨tables, sound⟩ told
  obtain ⟨after, same⟩ := State.startStream_carries _ q order
  refine ⟨after, fun y other idle => (put.sameFor rfl other).trans ?_⟩
  have here := told.places tables
  rw [← here] at put ⊢
  refine same y fun ⟨mem, i, hi, tag, state⟩ => idle ⟨?_, i, ?_, tag, state⟩
  · exact ((put.sameFor rfl other).2 q).1 mem
  · exact ((put.sameFor rfl other).1 i tag).1 hi

/-! ### A re-routed job (R106) -/

/-- A job that is Released, and in a queue. -/
def Places.ReleasedIn (p x : Nat) (v : Places) : Prop := x ∈ v.queue p ∧ ∀ i ∈ v.recs, i.tag = x → i.state = .released

theorem Places.SameFor.releasedIn {x : Nat} {w : Places} (h : Places.SameFor x v w) (hv : Places.ReleasedIn p x v) :
    Places.ReleasedIn p x w :=
  ⟨(h.2 p).2 hv.1, fun i hi tag => hv.2 i ((h.1 i tag).1 hi) tag⟩

/-- What becomes of the others when a Released job of a printer's queue is re-routed. -/
def Places.Apart (p g : Nat) (v w : Places) : Prop :=
  ∀ x, x ≠ g → Places.NotReleased x v ∨ Places.ReleasedIn p x v → Places.SameFor x v w

/-- R106: the job has left its queue, its reservation given back and its price at the new target reserved. -/
theorem State.InOrder.lifted {n : Nat} (h : s.InOrder none) (hx : j.placing ∈ s.places.recs)
    (mem : j.placing.tag ∈ s.places.queue p) (hw : t.TablesCanonical)
    (given : t.places = (s.places.unreserved j.placing).reserving j.account n) (f : Job → Job)
    (φ : Placing → Placing) (hf : ∀ i, (f i).placing = φ i.placing) :
    ((t.unqueue p j.placing.tag).updJob j.placing.tag f).TablesCanonical ∧
    ((t.unqueue p j.placing.tag).updJob j.placing.tag f).places = { (s.places.take j.placing).reserving j.account n with
      recs := s.places.recs.map (fun i => if i.tag = j.placing.tag then φ i else i) } := by
  have unqueued : (t.unqueue p j.placing.tag).places = { (s.places.unreserved j.placing).reserving j.account n with
      queue := fun i => if i = p then (s.places.queue i).filter (· ≠ j.placing.tag) else s.places.queue i } := by
    rw [State.unqueue_places hw, given]
    rfl
  have delivers := h.jobs.delivers hx mem
  have idle : s.places.contexts.filter (· ≠ j.placing.tag) = s.places.contexts := filter_ne_self fun mem' => by
    rw [(h.jobs.mem_contexts hx).1 mem'] at delivers
    exact nomatch delivers
  have unheld : (fun k => (s.places.held k).filter (· ≠ j.placing.tag)) = s.places.held := funext fun k => by
    refine filter_ne_self fun mem' => ?_
    rw [((h.jobs.mem_held hx k).1 mem').1] at delivers
    exact nomatch delivers
  refine ⟨State.updJob_tables ((t.unqueue_moves p j.placing.tag).keeps_tables hw) _ f, ?_⟩
  have rest : ((t.unqueue p j.placing.tag).updJob j.placing.tag f).places = { (t.unqueue p j.placing.tag).places with
      recs := (t.unqueue p j.placing.tag).places.recs.map (fun i => if i.tag = j.placing.tag then φ i else i) } :=
    Places.ext (State.places_updJob _ _ _ φ hf) rfl rfl rfl rfl rfl
  rw [rest, unqueued]
  refine Places.ext rfl idle.symm unheld.symm rfl (funext fun i => ?_) rfl
  show (if _ then _ else _) = List.filter _ _
  split
  next => rfl
  next other => exact (filter_ne_self fun mem' => other ((h.jobs.mem_queue mem i).1 mem')).symm

theorem State.reroute_sound (h : s.InOrder none) (released : Places.ReleasedIn p g s.places) :
    (s.reroute p g).InOrder none ∧ Places.Apart p g s.places (s.reroute p g).places := by
  obtain ⟨mem, state⟩ := released
  obtain ⟨x, hx, tag, -⟩ := h.jobs.queue_of mem
  obtain ⟨j, job, rfl⟩ := h.mem_recs.1 hx
  subst tag
  have atIdle : s.places.Sound (some j.placing.tag) := h.jobs.idle fun i hi tag => by rw [state i hi tag]; nofun
  have given := s.unreserve_places j
  have tables : (s.unreserve j.account (j.reservation.getD 0)).TablesCanonical := State.setAccount_tables h.tables _ _
  have named : (s.unreserve j.account (j.reservation.getD 0)).job j.placing.tag = some j := job
  unfold State.reroute
  rw [job]
  dsimp only
  generalize s.unreserve j.account (j.reservation.getD 0) = a at *
  have back : (a.returnToHold p j.placing.tag).InOrder none ∧
      Places.Apart p j.placing.tag s.places (a.returnToHold p j.placing.tag).places := by
    obtain ⟨order, others, -⟩ := State.returnToHold_sound tables atIdle named given mem
    exact ⟨order, fun x other _ => others x other⟩
  cases partner : a.partner p j with
  | none => exact back
  | some q =>
    dsimp only
    cases reserved : a.reserve j.account (a.priceAt q j) with
    | none => exact back
    | some b =>
      dsimp only
      have taken : b.places = (s.places.unreserved j.placing).reserving j.account (a.priceAt q j) := by
        rw [State.reserve_places reserved, given]
      obtain ⟨inTable, left⟩ := h.lifted hx mem (State.reserve_tables reserved tables) taken
        (fun x => { x with rates := some (a.ratesAt q j.account), reservation := some (a.priceAt q j) })
        (fun i => { i with reservation := some (a.priceAt q j) }) fun _ => rfl
      have isReleased : ({ j.placing with reservation := some (a.priceAt q j) } : Placing) =
          { j.placing with state := .released, reservation := some (a.priceAt q j) } :=
        congrArg (fun x => ({ j.placing with state := x, reservation := some (a.priceAt q j) } : Placing))
          (state j.placing hx rfl)
      obtain ⟨order, others⟩ := State.entered (q := q) inTable atIdle hx isReleased left j
      refine ⟨order, fun x other kind => others x other fun ⟨mem', i, hi, tag, isReleased⟩ => ?_⟩
      rcases kind with notReleased | ⟨here, -⟩
      · exact notReleased i hi tag isReleased
      · exact (State.partner_spec partner).1 ((h.jobs.mem_queue here q).1 mem')

/-! ### Evacuation (R103) -/

theorem Carries.reroute (s : State) (p : Nat) :
    Carries s (((s.jobsIn p .released).map Job.tag).foldl (fun t g => t.reroute p g) s) := by
  intro h
  obtain ⟨once, listed⟩ := h.jobsIn_tags p .released
  refine Carries.tags (P := Places.ReleasedIn p) (fun s g h released => ?_) once (fun _ g hg => listed g hg) h
  obtain ⟨order, others⟩ := State.reroute_sound h released
  refine ⟨order, fun x notReleased => ?_, fun x other kept => (others x other (.inr kept)).releasedIn kept⟩
  by_cases here : x = g
  · obtain ⟨i, hi, tag, -⟩ := h.jobs.queue_of released.1
    exact absurd (released.2 i hi tag) (notReleased i hi (tag.trans here.symm))
  · exact (others x here (.inl notReleased)).stays

theorem Carries.evacuate (s : State) (p : Nat) (full : Bool) : Carries s (s.evacuate p full) := by
  unfold State.evacuate
  dsimp only
  refine (Carries.stopPrinting s p).trans ?_
  cases full with
  | true => exact (Carries.endFinishing _ p).trans (Carries.reroute _ p)
  | false => exact Carries.reroute _ p

end Sys2Proof.Machine

/-! PROOFS. Health, the standing set and presence (file 06), and what a printer sends and its timers do (R91, R94 to R98): they
keep the jobs in order. -/

namespace Sys2Proof.Machine

set_option Elab.async false

variable {s t u : State} {o : Option Nat} {g p : Nat} {j : Job}

/-! ### Health (R113 to R117) -/

theorem Carries.moveBand (s : State) (p : Nat) : Carries s (s.moveBand p) := by
  unfold State.moveBand
  dsimp only
  split
  · exact .refl s
  · have told (new : Health) : Unmoved s ((s.updPrinter p fun e => { e with health := new }).healthChange p (s.printer p).health
        new) := (Unmoved.updPrinter s p _).trans (Unmoved.notify _ _)
    split
    · split
      · exact ((told _).trans (Unmoved.closeTest _ p)).carries
      · exact (told _).carries
    · split
      · exact ((told _).trans (Unmoved.raiseCallout _ p _ _)).carries
      · exact (((told _).trans (Unmoved.raiseCallout _ p _ _)).trans (Unmoved.mark _ _)).before (Carries.evacuate _ p true)
      · exact (told _).carries

theorem Carries.takeFault (s : State) (p : Nat) (k : FaultKind) : Carries s (s.takeFault p k) := by
  unfold State.takeFault
  dsimp only
  have noted : Unmoved s (s.updPrinter p fun e => { e with lastFault := some (s.clock.uptime, k), faulted := true }) :=
    Unmoved.updPrinter s p _
  split
  · exact noted.carries
  · exact (noted.trans (Unmoved.updPrinter _ p _)).before (Carries.moveBand _ p)

theorem Carries.lowerScore (s : State) (p n : Nat) : Carries s (s.lowerScore p n) := by
  unfold State.lowerScore
  split
  · exact .refl s
  · exact (Unmoved.updPrinter s p _).before (Carries.moveBand _ p)

theorem Carries.handFaces (s : State) (p m c : Nat) : Carries s (s.handFaces p m c) := by
  unfold State.handFaces
  split
  · exact .refl s
  · exact ((Unmoved.supplyFaces s p m c).before (Carries.lowerScore _ p _)).next (Unmoved.updPrinter _ p _)

theorem Carries.quietHour (s : State) (p : Nat) : Carries s (s.quietHour p) := by
  unfold State.quietHour
  dsimp only
  split
  · exact (Unmoved.updPrinter s p _).carries
  · exact (Carries.lowerScore s p 8).next (Unmoved.updPrinter _ p _)

theorem Carries.hourDecay (s : State) : Carries s s.hourDecay := Carries.foldl (fun s p => Carries.quietHour s p) _ s

/-! ### The standing set and presence (R120 to R122) -/

theorem Carries.endPause (s : State) (p : Nat) : Carries s (s.endPause p) :=
  (Unmoved.updPrinter s p _).before (Carries.startStream _ p)

theorem Carries.setStanding (s : State) (p : Nat) (x : Standing) : Carries s (s.setStanding p x) := by
  unfold State.setStanding
  dsimp only
  have set : Unmoved s (s.updPrinter p fun e => { e with standing := x }) := Unmoved.updPrinter s p _
  split
  · exact (set.trans (Unmoved.beginPause _ p)).carries
  · split
    · exact set.before (Carries.endPause _ p)
    · exact set.carries

theorem Carries.becomePresent (s : State) (p : Nat) : Carries s (s.becomePresent p) := by
  unfold State.becomePresent
  split
  · dsimp only
    have set : Unmoved s ((s.updPrinter p fun e => { e with standing := { (s.printer p).standing with
        unreachable := false } }).closeTest p) := (Unmoved.updPrinter s p _).trans (Unmoved.closeTest _ p)
    split
    · exact set.before (Carries.endPause _ p)
    · exact set.carries
  · exact .refl s

theorem Carries.frameFrom (s : State) (p : Nat) : Carries s (s.frameFrom p) := by
  unfold State.frameFrom
  dsimp only
  split
  · exact Carries.becomePresent s p
  · exact (Carries.becomePresent s p).next (Unmoved.updPrinter _ p _)

/-! ### Messages of the stream (R91, R95 to R97) -/

theorem grantRule_carries (h : Hdr) (n p : Nat) (s : State) : Carries s (grantRule h n p s) := by
  unfold grantRule
  split
  · exact Carries.takeFault s p _
  · split
    · exact .refl s
    · split
      · exact ((Unmoved.updJob s _ _).trans (Unmoved.restartStall _ p)).carries
      · exact .refl s

/-- A job that stays, and was in a state, is in that state or Held. -/
theorem Places.Stays.cases {x : Nat} {v w : Places} {st : JobState} (h : Places.Stays x v w) (hv : Places.In x st v) :
    ∀ i ∈ w.recs, i.tag = x → i.state = .held ∨ i.state = st := by
  intro i hi tag
  rcases h i hi tag with held | ⟨⟨i', hi', tag', same⟩, -⟩
  · exact .inl held
  · exact .inr (same.symm.trans (hv i' hi' tag'))

/-- A job that prints, and stays, prints where it printed. -/
theorem Places.Stays.prints {x : Nat} {v w : Places} (h : Places.Stays x v w) (q : Nat) (prints : w.Prints q x) :
    v.Prints q x := by
  obtain ⟨mem, i, hi, tag, state⟩ := prints
  rcases h i hi tag with held | ⟨⟨i', hi', tag', same⟩, queue⟩
  · exact nomatch state.symm.trans held
  · exact ⟨(queue q).1 mem, i', hi', tag', same.trans state⟩

/-- The record of a tag says the state of the job. -/
theorem State.InOrder.stateIn (h : s.InOrder o) (job : s.job g = some j) : Places.In g j.state s.places := by
  obtain ⟨hj, tag⟩ := State.job_placing job
  intro i hi same
  rw [h.jobs.unique hi hj (same.trans tag.symm)]
  rfl

/-- R97: the job of a final report, which had been Printing or Finishing, is settled and ends. -/
theorem State.finalReport_order (h : s.InOrder none) (j : Job) (n : Counts) (cancelled : Bool)
    (mine : j.state = .printing → ∀ q, s.places.Prints q j.tag → q = p)
    (idle : j.state ≠ .printing → ∀ i ∈ s.places.recs, i.tag = j.tag → i.state ≠ .printing) :
    (s.finalReport p j n cancelled).InOrder none := by
  unfold State.finalReport
  dsimp only
  refine (Carries.startStream _ p).keepsOrder ?_
  split
  next printing => exact ((h.leavePrinting (mine printing)).1.settledEnds n (Unmoved.refl _) _).1
  next other => exact ((h.idle (idle other)).settledEnds n (Unmoved.refl _) _).1

theorem State.takePageReport_keepsOrder (s : State) (r : PageReportBody) (job : s.job j.tag = some j)
    (mem : j.tag ∈ (s.printer p).queue) (delivers : j.state = .printing ∨ j.state = .finishing) :
    KeepsOrder s (s.takePageReport p j r) := by
  intro h
  unfold State.takePageReport
  dsimp only
  generalize j.reportedOrZero.raise r = n
  have counted : Unmoved s (s.updJob j.tag fun x => { x with reported := some n }) := Unmoved.updJob s _ _
  have handed := counted.before (Carries.handFaces _ p (n.tm - j.reportedOrZero.tm) (n.tc - j.reportedOrZero.tc))
  have next (t : State) : Unmoved t (if j.state = .printing then t.restartStall p
      else t.updJob j.tag fun x => { x with finish := .running Config.finishSeconds }) := by
    split
    · exact Unmoved.restartStall t p
    · exact Unmoved.updJob t _ _
  obtain ⟨order, stays⟩ := (handed.next (next _)) h
  have state := h.stateIn job
  have here := stays j.tag fun i hi tag => by rw [state i hi tag]; rcases delivers with e | e <;> rw [e] <;> nofun
  split
  · refine State.finalReport_order order j n _ (fun _ q prints => ?_) fun other i hi tag => ?_
    · exact (h.jobs.mem_queue mem q).1 (here.prints q prints).1
    · rcases here.cases state i hi tag with held | same
      · rw [held]; nofun
      · rwa [same]
  · exact order

theorem pageReportRule_keepsOrder (h : Hdr) (r : PageReportBody) (p : Nat) (s : State) :
    KeepsOrder s (pageReportRule h r p s) := by
  unfold pageReportRule
  split
  · exact id
  · split
    · exact (Carries.takeFault s p _).keepsOrder
    · split
      · exact id
      next listed _ j job =>
        have tag := s.tag_of_job job
        split
        next delivers =>
          refine s.takePageReport_keepsOrder r (tag.symm ▸ job) (tag.symm ▸ ?_) ?_
          · simpa using listed
          · simpa using delivers
        next => exact id

/-! ### STATUS and FAULT (R112, R120) -/

theorem statusRule_carries (r : StatusBody) (p : Nat) (s : State) : Carries s (statusRule r p s) := by
  unfold statusRule
  dsimp only
  have set := (Carries.setStanding s p ((s.printer p).standing.reported r)).next (Unmoved.closeTest _ p)
  split
  · exact set.next (Unmoved.takeReports _ p _)
  · exact set

theorem Carries.takeFaultMessage (s : State) (p code : Nat) : Carries s (s.takeFaultMessage p code) := by
  unfold State.takeFaultMessage
  split
  · exact (Carries.frameFrom s p).trans (Carries.takeFault _ p _)
  · exact Carries.frameFrom s p

/-! ### Timers (R94, R98) -/

theorem State.stallExpiry_keepsOrder (s : State) (p : Nat) : KeepsOrder s (s.stallExpiry p) := by
  unfold State.stallExpiry
  cases first : s.firstIn p .printing with
  | none => exact id
  | some j =>
    intro h
    exact (Carries.startStream _ p).keepsOrder ((Carries.takeFault _ p .stall).keepsOrder
      (h.stopped (h.prints first) j.reportedOrZero).1)

theorem State.finishExpiry_keepsOrder (s : State) (p : Nat) (job : s.job j.tag = some j) (state : j.state = .finishing) :
    KeepsOrder s (s.finishExpiry p j) := by
  intro h
  unfold State.finishExpiry
  dsimp only
  have was := h.stateIn job
  rw [state] at was
  obtain ⟨order, stays⟩ := Carries.handFaces s p (j.declaredCounts.tm - j.reportedOrZero.tm)
    (j.declaredCounts.tc - j.reportedOrZero.tc) h
  have here := stays j.tag fun i hi tag => by rw [was i hi tag]; nofun
  refine (Carries.takeFault _ p .reportMissing).keepsOrder ((order.idle fun i hi tag => ?_).settledEnds _ (Unmoved.refl _) _).1
  rcases here.cases was i hi tag with e | e <;> rw [e] <;> nofun

end Sys2Proof.Machine

/-! PROOFS. Releases (R68, R72 to R77) and jobs that end before they are released (R11, R18 to R20, R43, R75): they keep the jobs
in order. -/

namespace Sys2Proof.Machine

set_option Elab.async false

variable {s t u : State} {o : Option Nat} {g p : Nat} {j : Job} {v : Places}

/-! ### The release of a Held job (R68) -/

theorem State.InOrder.unreserved (h : s.InOrder o) (job : s.job g = some j) (early : j.state.inDelivery = false) :
    j.reservation = none := by
  by_contra some
  have := h.jobs.reservation j.placing (State.job_placing job).1 some
  rw [show j.placing.state = j.state from rfl, early] at this
  exact nomatch this

theorem State.InOrder.early (h : s.InOrder none) (job : s.job g = some j) (early : j.state.inDelivery = false) :
    s.InOrder (some g) := by
  refine h.idle fun i hi tag printing => ?_
  rw [h.stateIn job i hi tag] at printing
  rw [printing] at early
  exact nomatch early

theorem State.releaseJob_sound {q : Nat} {i : Job} (h : s.InOrder none) (job : s.job j.tag = some i) (held : i.state = .held)
    (account : i.account = j.account) (released : s.releaseJob q j = some t) : t.InOrder none ∧
      ∀ x, x ≠ j.tag → Places.NotReleased x s.places → Places.SameFor x s.places t.places := by
  obtain ⟨hx, tag⟩ := State.job_placing job
  unfold State.releaseJob at released
  rw [← account, ← tag] at released
  rw [← tag]
  cases reserved : s.reserve i.account (s.priceAt q j) with
  | none => rw [reserved] at released; exact nomatch released
  | some a =>
    rw [reserved] at released
    obtain rfl := Option.some.inj released
    have early : i.state.inDelivery = false := by rw [held]; rfl
    have places := State.reserve_places reserved
    have tables := State.reserve_tables reserved h.tables
    let f : Job → Job := fun x =>
      { x with rates := some (s.ratesAt q i.account), reservation := some (s.priceAt q j), state := .released }
    let φ : Placing → Placing := fun x => { x with reservation := some (s.priceAt q j), state := .released }
    have inTable : ((a.unhold i.account i.placing.tag).updJob i.placing.tag f).TablesCanonical :=
      State.updJob_tables (State.setAccount_tables tables _ _) _ f
    have unheld : (a.unhold i.account i.placing.tag).places = { a.places with
        held := fun k => if k = i.account then (a.places.held k).filter (· ≠ i.placing.tag) else a.places.held k } := by
      obtain ⟨helds, reserveds⟩ := a.places_setAccount i.account
        { a.account i.account with held := (a.account i.account).held.filter (· ≠ i.placing.tag) }
      refine Places.ext rfl rfl (funext fun k => (helds k).trans ?_) (funext fun k => (reserveds k).trans ?_) rfl rfl
      · show _ = if _ then _ else _
        split
        next here => rw [here]; rfl
        next => rfl
      · split
        next here => rw [here]; rfl
        next => rfl
    have left : ((a.unhold i.account i.placing.tag).updJob i.placing.tag f).places =
        { (s.places.take i.placing).reserving i.account (s.priceAt q j) with
          recs := s.places.recs.map (fun x => if x.tag = i.placing.tag then φ x else x) } := by
      have rest : ((a.unhold i.account i.placing.tag).updJob i.placing.tag f).places =
          { (a.unhold i.account i.placing.tag).places with
            recs := (a.unhold i.account i.placing.tag).places.recs.map (fun x => if x.tag = i.placing.tag then φ x else x) } :=
        Places.ext (State.places_updJob _ _ _ φ fun _ => rfl) rfl rfl rfl rfl rfl
      rw [rest, unheld, places]
      refine Places.ext rfl ?_ (funext fun k => ?_) (funext fun k => ?_) (funext fun q => ?_) rfl
      · refine (filter_ne_self fun mem => ?_).symm
        exact nomatch held.symm.trans ((h.jobs.mem_contexts hx).1 mem)
      · show (if _ then _ else _) = List.filter _ _
        split
        next => rfl
        next other => exact (filter_ne_self fun mem => other ((h.jobs.mem_held hx k).1 mem).2).symm
      · show _ + s.places.reserved k = _ + (s.places.reserved k - _)
        rw [show i.placing.reservation = none from h.unreserved (g := i.placing.tag) (tag ▸ job) early, Option.getD_none,
          ite_self, Nat.sub_zero]
      · refine (filter_ne_self fun mem => ?_).symm
        have delivers := h.jobs.delivers hx mem
        rw [show i.placing.state = i.state from rfl, early] at delivers
        exact nomatch delivers
    have idle := (h.early (g := i.placing.tag) (tag ▸ job) early).jobs
    obtain ⟨order, others⟩ := State.entered (q := q) (f := φ) inTable idle hx rfl left j
    exact ⟨order, fun x other kept => others x other fun ⟨_, y, hy, tag, state⟩ => kept y hy tag state⟩

/-- R72: a Held job examined. -/
theorem State.examine_sound (a : Nat) (h : s.InOrder none) (job : s.job j.tag = some j) (held : j.state = .held) :
    (s.examine a j).state.InOrder none ∧
      ∀ x, x ≠ j.tag → Places.NotReleased x s.places → Places.SameFor x s.places (s.examine a j).state.places := by
  have skipped : s.InOrder none ∧ ∀ x, x ≠ j.tag → Places.NotReleased x s.places → Places.SameFor x s.places s.places :=
    ⟨h, fun x _ _ => .refl x _⟩
  unfold State.examine
  split
  · exact skipped
  · split
    next released => exact State.releaseJob_sound h job held rfl released
    next => exact skipped

theorem Places.In.notReleased {x : Nat} (h : Places.In x .held v) : Places.NotReleased x v := fun i hi tag => by
  rw [h i hi tag]
  nofun

/-- R73: a walk over tags of Held jobs. -/
theorem State.walk_order (a : Nat) {l : List Nat} (once : l.Nodup) (n : Nat) (h : s.InOrder none)
    (held : ∀ g ∈ l, Places.In g .held s.places) : (State.walk a l n s).1.InOrder none := by
  induction l generalizing n s with
  | nil => exact h
  | cons g l ih =>
    obtain ⟨fresh, once'⟩ := List.nodup_cons.1 once
    unfold State.walk
    split
    · exact h
    · cases job : s.job g with
      | none => exact ih once' n h fun x hx => held x (List.mem_cons_of_mem _ hx)
      | some j =>
        have tag := s.tag_of_job job
        subst tag
        have state := held j.tag (List.mem_cons_self ..) j.placing (State.job_placing job).1 rfl
        obtain ⟨order, others⟩ := State.examine_sound a h job state
        refine ih once' _ order fun x hx => ?_
        have was := held x (List.mem_cons_of_mem _ hx)
        exact (others x (fun same => fresh (same ▸ hx)) was.notReleased).stateIn was

theorem State.InOrder.heldIn (h : s.InOrder none) {k : Nat} (mem : g ∈ s.places.held k) : Places.In g .held s.places := by
  obtain ⟨i, hi, tag, state, -⟩ := (h.jobs.held k g).1 mem
  intro x hx same
  rw [h.jobs.unique hx hi (same.trans tag.symm)]
  exact state

/-! ### Jobs that end before they are released (R3) -/

theorem State.InOrder.endsEarly (h : s.InOrder none) (job : s.job j.tag = some j) (early : j.state.inDelivery = false)
    (why : EndReason) : (s.endJob j why).InOrder none := by
  rw [← State.endTag_job why job]
  refine ((h.early job early).ended (fun i named => ?_) why).1
  rw [job] at named
  exact Option.some.inj named ▸ h.unreserved job early

/-- Jobs not yet released that end, one after another. -/
theorem Carries.endTags {l : List Nat} (once : l.Nodup) (why : EndReason)
    (early : s.InOrder none → ∀ g ∈ l, ∀ i ∈ s.places.recs, i.tag = g → i.state.inDelivery = false) :
    Carries s (l.foldl (fun t g => t.endTag g why) s) := by
  refine Carries.tags (P := fun g v => ∀ i ∈ v.recs, i.tag = g → i.state.inDelivery = false) (fun s g h early => ?_) once early
  have idle : s.InOrder (some g) := h.idle fun i hi tag printing => by
    have := early i hi tag
    rw [printing] at this
    exact nomatch this
  have free (j : Job) (job : s.job g = some j) : j.reservation = none := by
    obtain ⟨hj, tag⟩ := State.job_placing job
    exact h.unreserved job (early j.placing hj tag)
  obtain ⟨order, others, gone⟩ := idle.ended free why
  have absent := State.absent_of_job order gone
  exact ⟨order, fun x _ => carries_of_sameFor others (fun i hi tag => absurd tag (absent i hi)) x,
    fun x other kept i hi tag => kept i (((others x other).1 i tag).1 hi) tag⟩

theorem Carries.expireHeld (s : State) : Carries s s.expireHeld := by
  intro h
  have perm := (sortByStamp_spec (s.jobs.recs.filter (fun j => j.state == .held && decide (j.expiry.getD 0 ≤ s.clock.uptime)))).1
  refine Carries.endTags ?_ .expired (fun h g hg i hi tag => ?_) h
  · exact ((perm.map Job.tag).nodup_iff).2 (h.once.sublist (List.filter_sublist.map _))
  · obtain ⟨j, hj, rfl⟩ := List.mem_map.1 hg
    obtain ⟨listed, held⟩ := List.mem_filter.1 (perm.mem_iff.1 hj)
    rw [Bool.and_eq_true, beq_iff_eq] at held
    rw [h.stateIn (State.job_of_mem h.once listed) i hi tag, held.1]
    rfl

theorem State.invalidate_keepsOrder (s : State) (k : Nat) : KeepsOrder s (s.invalidate k) := by
  intro h
  refine (Carries.endTags (s := s) (List.nodup_append'.2 ⟨?_, h.jobs.heldOnce k, ?_⟩) .purged (fun h g hg i hi tag => ?_) h).1
  · exact h.once.sublist (List.filter_sublist.trans List.filter_sublist |>.map _)
  · intro g receiving held
    obtain ⟨j, hj, rfl⟩ := List.mem_map.1 receiving
    obtain ⟨listed, state⟩ := List.mem_filter.1 hj
    have job := State.job_of_mem h.once (List.mem_filter.1 listed).1
    have here := h.heldIn held j.placing (State.job_placing job).1 rfl
    rw [show j.placing.state = j.state from rfl, beq_iff_eq.1 state] at here
    exact nomatch here
  · rcases List.mem_append.1 hg with receiving | held
    · obtain ⟨j, hj, rfl⟩ := List.mem_map.1 receiving
      obtain ⟨listed, state⟩ := List.mem_filter.1 hj
      rw [h.stateIn (State.job_of_mem h.once (List.mem_filter.1 listed).1) i hi tag, beq_iff_eq.1 state]
      rfl
    · rw [h.heldIn held i hi tag]
      rfl

/-! ### The panel requests (R70 to R75) -/

theorem releaseAllRule_keepsOrder (a k : Nat) (s : State) : KeepsOrder s (releaseAllRule a k s).state := fun h =>
  State.walk_order a ((h.jobs.heldOnce k).sublist (List.take_sublist _ _)) 0 h
    fun _ hg => h.heldIn (k := k) (List.mem_of_mem_take hg)

/-- R74: the Held job of an account that a tag names. -/
theorem State.heldJob_spec {k : Nat} (h : s.heldJob k g = some j) : s.job j.tag = some j ∧ j.state = .held := by
  unfold State.heldJob at h
  split at h
  next i job =>
    split at h
    next both =>
      obtain rfl := Option.some.inj h
      rw [Bool.and_eq_true, beq_iff_eq] at both
      exact ⟨(s.tag_of_job job).symm ▸ job, both.2⟩
    next => exact nomatch h
  next => exact nomatch h

theorem releaseOneRule_keepsOrder (tag a k : Nat) (s : State) : KeepsOrder s (releaseOneRule tag a k s).state := by
  unfold releaseOneRule
  split
  · exact id
  next j held =>
    obtain ⟨job, state⟩ := State.heldJob_spec held
    exact fun h => (State.examine_sound a h job state).1

theorem deleteOneRule_keepsOrder (tag k : Nat) (s : State) : KeepsOrder s (deleteOneRule tag k s).state := by
  unfold deleteOneRule
  split
  · exact id
  next j held =>
    obtain ⟨job, state⟩ := State.heldJob_spec held
    exact fun h => h.endsEarly job (by rw [state]; rfl) _

theorem State.directPath_keepsOrder {i : Job} (s : State) (job : s.job j.tag = some i) (held : i.state = .held)
    (account : i.account = j.account) (station : Nat) : KeepsOrder s (s.directPath j station) := by
  unfold State.directPath
  split
  · exact id
  · split
    · exact id
    · split
      next p _ _ _ =>
        cases released : s.releaseJob p j with
        | none => exact id
        | some t => exact fun h => (State.releaseJob_sound h job held account released).1
      · exact id

/-! ### PURGE_JOB and the receive idle expiry (R11, R20) -/

theorem purgeRule_keepsOrder (tag : Nat) (s : State) : KeepsOrder s (purgeRule tag s).state := by
  unfold purgeRule
  split
  · exact id
  next j job =>
    split
    · exact id
    next early => exact fun h => h.endsEarly ((s.tag_of_job job).symm ▸ job) (Bool.eq_false_iff.2 early) _

end Sys2Proof.Machine

/-! PROOFS. The Job Table (R7 to R19, R101, R102): a job that is accepted, receives, becomes Held or is cancelled keeps the jobs
in order. -/

namespace Sys2Proof.Machine

set_option Elab.async false

variable {s t u : State} {o : Option Nat} {g p : Nat} {j : Job} {v : Places}

/-! ### Acceptance (R7, R10) -/

theorem takeContext_perm (x : Context) {l : List (Option Context)} (h : none ∈ l) :
    ((takeContext x l).filterMap (Option.map Context.tag)).Perm (x.tag :: l.filterMap (Option.map Context.tag)) := by
  induction l with
  | nil => exact nomatch h
  | cons c l ih =>
    cases c with
    | none => exact .refl _
    | some y => exact ((ih (by simpa using h)).cons y.tag).trans (.swap ..)

theorem State.admission_context {h : Hdr} {b : JobOpenBody} {x : Nat × Nat} (ha : s.admission h b = .inr x) :
    none ∈ s.jobs.contexts := by
  by_contra full
  have all : s.jobs.contexts.all Option.isSome = true := List.all_eq_true.2 fun c hc => by
    cases c with
    | none => exact absurd hc full
    | some _ => rfl
  unfold State.admission at ha
  dsimp only at ha
  rw [if_pos all] at ha
  split at ha <;> exact nomatch ha

/-- R10: an accepted job has a record and a receiving context. -/
theorem State.acceptJob_keepsOrder {h : Hdr} {b : JobOpenBody} {k hit : Nat} (room : s.jobs.recs.length < 1024)
    (context : none ∈ s.jobs.contexts) : KeepsOrder s (s.acceptJob h b k hit) := by
  intro order
  have free := (s.freeTag_free (by omega) s.jobs.lastTag).1
  unfold State.acceptJob
  dsimp only
  generalize s.freeTag s.jobs.recs.length s.jobs.lastTag = g at *
  have rest (a : State) : Unmoved a ((a.abandonSettling.jobReply h g .ok 0).spoolLowTest) :=
    ((Unmoved.abandonSettling a).trans (Unmoved.jobReply _ h g .ok 0)).trans (.of_moves (State.spoolLowTest_moves _))
  refine State.InOrder.unmoved ⟨?_, ?_⟩ (rest _)
  · have hw := order.tables
    exact ⟨hw.classifier, hw.accounts, hw.active, hw.waiting, hw.printers, hw.callouts, hw.reorders, hw.slots⟩
  · let x : Placing := { tag := g, state := .receiving, account := k, reservation := none }
    refine Places.Put.sound (j := x) (p := 0) order.jobs (State.absent_of_job order free)
      ⟨?_, takeContext_perm { tag := g, idle := .running Config.receiveIdleSeconds } context, fun _ => .rfl, fun _ => ?_,
        fun _ => .rfl⟩ (fun some => absurd rfl some) nofun fun q => ?_
    · show ((s.jobs.recs ++ [b.record g h.src k hit]).map Job.placing).Perm _
      rw [List.map_append]
      exact List.perm_append_singleton _ _
    · show s.places.reserved _ = (if _ then 0 else 0) + s.places.reserved _
      rw [ite_self, Nat.zero_add]
    · exact (order.jobs.control q).congr fun y => by simp [x]

theorem openJob_keepsOrder (h : Hdr) (b : JobOpenBody) (s : State) : KeepsOrder s (openJob h b s) := by
  unfold openJob
  split
  · exact ((Unmoved.of_moves (State.wake_moves s)).trans (Unmoved.jobReply _ h 0 .waking 0)).keepsOrder
  · cases admitted : s.admission h b with
    | inl r => exact (Unmoved.jobReply s h 0 r 0).keepsOrder
    | inr x => exact State.acceptJob_keepsOrder (State.admission_records admitted).1 (State.admission_context admitted)

/-! ### Reception (R12, R13) -/

theorem Unmoved.restartReceiveIdle (s : State) (g : Nat) : Unmoved s (s.restartReceiveIdle g) where
  tables hw := ⟨hw.classifier, hw.accounts, hw.active, hw.waiting, hw.printers, hw.callouts, hw.reorders, hw.slots⟩
  places _ := by
    refine Places.ext rfl ?_ rfl rfl rfl rfl
    show (s.restartReceiveIdle g).jobs.contexts.filterMap _ = s.jobs.contexts.filterMap _
    rw [State.restartReceiveIdle_contexts, List.filterMap_map]
    refine List.filterMap_congr fun c _ => ?_
    cases c with
    | none => rfl
    | some x => by_cases here : x.tag = g <;> simp [here]

theorem Unmoved.spool (s : State) (m : Spool) : Unmoved s { s with spool := m } where
  tables hw := ⟨hw.classifier, hw.accounts, hw.active, hw.waiting, hw.printers, hw.callouts, hw.reorders, hw.slots⟩
  places _ := rfl

theorem Unmoved.acceptData (s : State) (j : Job) (d : JobDataBody) : Unmoved s (s.acceptData j d) := by
  have segment : Unmoved s (s.takeSegment j.tag) := by
    unfold State.takeSegment
    split
    · exact .refl s
    · exact (Unmoved.spool s _).trans (Unmoved.updJob _ _ _)
  have extended : Unmoved s (s.extendJob j d.data.length) := by
    unfold State.extendJob
    split
    · exact segment.trans (Unmoved.updJob _ _ _)
    · exact Unmoved.updJob s _ _
  exact (extended.trans (Unmoved.spool _ _)).trans (Unmoved.restartReceiveIdle _ _)

theorem Unmoved.takeData (h : Hdr) (d : JobDataBody) (s : State) : Unmoved s (takeData h d s) := by
  unfold Machine.takeData
  have told (g : Nat) (r : Result) (n : Nat) := Unmoved.jobReply s h g r n
  split
  · split
    · exact told _ _ _
    · split
      · exact told _ _ _
      · split
        · exact told _ _ _
        · split
          · exact told _ _ _
          · exact (Unmoved.acceptData s _ d).trans (Unmoved.jobReply _ h _ _ _)
  · exact told _ _ _

/-! ### The close (R14, R17) -/

/-- R14, R17: a Receiving job becomes Held, at the tail of its account's Held List. -/
theorem State.becomeHeld_order (h : s.InOrder none) (job : s.job j.tag = some j) (receiving : j.state = .receiving) :
    (s.becomeHeld j).InOrder none := by
  have early : j.state.inDelivery = false := by rw [receiving]; rfl
  have hx := (State.job_placing job).1
  let a : State := (s.closing j).spoolLowTest
  let b : State := { a.freeContext j.tag with jobs := { (a.freeContext j.tag).jobs with
    holdSeq := if Config.maxHoldSeq ≤ s.jobs.holdSeq then 0 else s.jobs.holdSeq + 1 } }
  have shape : s.becomeHeld j = b.setAccount j.account { b.account j.account with
    held := (b.account j.account).held ++ [j.tag] } := rfl
  let φ : Placing → Placing := fun i => { i with state := .held }
  have closing : (s.closing j).places =
      { s.places with recs := s.places.recs.map (fun i => if i.tag = j.placing.tag then φ i else i) } :=
    Places.ext (State.places_updJob _ j.tag (s.closed j) φ fun _ => rfl) rfl rfl rfl rfl rfl
  have quiet : Unmoved (s.closing j) a := .of_moves (State.spoolLowTest_moves _)
  have tables : (s.closing j).TablesCanonical :=
    have hw := h.tables
    ⟨hw.classifier, hw.accounts, hw.active, hw.waiting, hw.printers, hw.callouts, hw.reorders, hw.slots⟩
  have inTable : (s.becomeHeld j).TablesCanonical := by
    have hw := quiet.tables tables
    have mid : b.TablesCanonical :=
      ⟨hw.classifier, hw.accounts, hw.active, hw.waiting, hw.printers, hw.callouts, hw.reorders, hw.slots⟩
    exact State.setAccount_tables mid _ _
  have freed : b.places = { a.places with contexts := a.places.contexts.filter (· ≠ j.tag) } :=
    Places.ext rfl (a.places_freeContext j.tag) rfl rfl rfl rfl
  rw [quiet.places tables, closing] at freed
  obtain ⟨helds, reserveds⟩ := b.places_setAccount j.account
    { b.account j.account with held := (b.account j.account).held ++ [j.tag] }
  have put : (s.places.take j.placing).Put (s.becomeHeld j).places { j.placing with state := .held } 0 := by
    refine ⟨?_, ?_, fun k => ?_, fun k => ?_, fun q => ?_⟩
    · show b.places.recs.Perm _
      rw [freed]
      exact Places.mapped_perm h.jobs hx φ
    · show b.places.contexts.Perm (s.places.contexts.filter _)
      rw [freed]
      exact .rfl
    · have unheld : (s.places.held k).filter (· ≠ j.placing.tag) = s.places.held k :=
        filter_ne_self fun mem => nomatch receiving.symm.trans ((h.jobs.mem_held hx k).1 mem).1
      show ((s.becomeHeld j).places.held k).Perm (if _ then _ :: List.filter _ _ else List.filter _ _)
      rw [unheld, shape, helds]
      by_cases here : k = j.account
      · rw [if_pos here, if_pos ⟨rfl, here⟩, here]
        show (b.places.held j.account ++ [j.tag]).Perm _
        rw [freed]
        exact List.perm_append_singleton _ _
      · rw [if_neg here, if_neg fun both => here both.2, freed]
    · show (s.becomeHeld j).places.reserved k = (if _ then j.placing.reservation.getD 0 else 0) + (s.places.reserved k - _)
      rw [shape, reserveds, show j.placing.reservation = none from h.unreserved job early, Option.getD_none, ite_self,
        Nat.zero_add, Nat.sub_zero]
      split
      next here =>
        show b.places.reserved j.account = _
        rw [freed, here]
      next => rw [freed]
    · have unqueued : (s.places.queue q).filter (· ≠ j.placing.tag) = s.places.queue q := filter_ne_self fun mem => by
        have delivers := h.jobs.delivers hx mem
        rw [show j.placing.state = j.state from rfl, early] at delivers
        exact nomatch delivers
      show (b.places.queue q).Perm (List.filter _ _)
      rw [unqueued, freed]
  refine ⟨inTable, (h.early job early).jobs.moved (j' := { j.placing with state := .held }) hx rfl put ?_ nofun fun some => ?_⟩
  · show b.places.control = _
    rw [freed]
  · exact absurd (h.unreserved job early) some

theorem State.becomeHeld_job (job : s.job j.tag = some j) : (s.becomeHeld j).job j.tag = some (s.closed j j) := by
  show (s.closing j).spoolLowTest.job j.tag = _
  rw [State.job, State.spoolLowTest_jobs]
  exact State.closing_job job

theorem State.acceptClose_keepsOrder (h : Hdr) (job : s.job j.tag = some j) (receiving : j.state = .receiving) :
    KeepsOrder s (s.acceptClose h j) := by
  intro order
  have told : Unmoved (s.becomeHeld j) (((s.becomeHeld j).jobReply h h.jobTag .ok 0).jobStatus j .held none none none) :=
    (Unmoved.jobReply _ h _ _ _).trans (Unmoved.jobStatus _ j .held none none none)
  have after := (State.becomeHeld_order order job receiving).unmoved told
  have named : (((s.becomeHeld j).jobReply h h.jobTag .ok 0).jobStatus j .held none none none).job j.tag =
      some (s.closed j j) := by
    rw [State.jobStatus_job, State.job_jobReply]
    exact State.becomeHeld_job job
  unfold State.acceptClose
  dsimp only
  split
  · split
    · exact State.directPath_keepsOrder _ named rfl rfl _ after
    · exact after
  · exact after

theorem State.jobFrom_job {h : Hdr} (found : s.jobFrom h = some j) : s.job j.tag = some j := by
  have job := (State.jobFrom_some found).1
  rw [s.tag_of_job job]
  exact job

theorem State.replied_job (h : Hdr) (g : Nat) (r : Result) (n : Nat) (job : s.job j.tag = some j) :
    (s.jobReply h g r n).job j.tag = some j := by
  rwa [State.job_jobReply]

theorem closeJob_keepsOrder (h : Hdr) (total : Nat) (s : State) : KeepsOrder s (closeJob h total s) := by
  have told (g : Nat) (r : Result) (n : Nat) := (Unmoved.jobReply s h g r n).keepsOrder
  unfold closeJob
  split
  · exact told _ _ _
  next j found =>
    have job := State.jobFrom_job found
    split
    · exact told _ _ _
    next receiving =>
      have receiving := not_not.1 receiving
      split
      · exact told _ _ _
      · split
        · exact fun order => (told _ _ _ order).endsEarly (State.replied_job h _ _ _ job) (by rw [receiving]; rfl) _
        · exact State.acceptClose_keepsOrder h job receiving

/-! ### Cancel (R19, R101, R102) -/

/-- R101: a Released job gives its reservation back, and ends. -/
theorem State.cancelReleased_keepsOrder (h : Hdr) (job : s.job j.tag = some j) (released : j.state = .released) :
    KeepsOrder s (s.cancelReleased h j) := by
  intro order
  have hx := (State.job_placing job).1
  have idle : s.InOrder (some j.placing.tag) := order.idle fun i hi tag => by
    rw [order.stateIn job i hi tag, released]
    nofun
  let a := (s.unreserve j.account (j.reservation.getD 0)).updJob j.tag fun x => { x with reservation := none }
  have places : a.places = s.places.settled j.placing :=
    s.unreserved_places job (fun x => { x with reservation := none }) fun _ => rfl
  have mid : a.InOrder (some j.placing.tag) := by
    refine ⟨State.updJob_tables (State.setAccount_tables order.tables _ _) _ _, ?_⟩
    rw [places]
    exact idle.jobs.settled hx
  have after := mid.unmoved (Unmoved.jobReply a h h.jobTag .ok 0)
  refine (State.InOrder.ended after (fun i named => ?_) .userCancelled).1
  rw [State.job_jobReply] at named
  have updated := (State.job_updJob s j.tag (fun x => { x with reservation := none }) (fun _ => rfl) j.tag).symm.trans named
  rw [if_pos rfl, job] at updated
  exact Option.some.inj updated ▸ rfl

theorem State.InOrder.printsAt (order : s.InOrder o) (job : s.job j.tag = some j) (printing : j.state = .printing)
    (found : s.queueOf j.tag = some p) : s.places.Prints p j.tag :=
  ⟨((State.queueOf_iff order.tables j.tag p).1 found).1, j.placing, (State.job_placing job).1, rfl, printing⟩

/-- R102: the stream of a Printing job is stopped, and the job settled and ended. -/
theorem State.cancelPrinting_keepsOrder (h : Hdr) (job : s.job j.tag = some j) (printing : j.state = .printing) :
    KeepsOrder s (s.cancelPrinting h j) := by
  unfold State.cancelPrinting
  split
  · exact id
  next p found =>
    intro order
    obtain ⟨stopped, -⟩ := order.cancelled (order.printsAt job printing found)
    exact (Carries.startStream _ p).keepsOrder
      (stopped.settledEnds j.reportedOrZero (Unmoved.jobReply _ h h.jobTag .ok 0) .userCancelled).1

theorem cancelJob_keepsOrder (h : Hdr) (s : State) : KeepsOrder s (cancelJob h s) := by
  have told (r : Result) := (Unmoved.jobReply s h h.jobTag r 0).keepsOrder
  unfold cancelJob
  split
  · exact told _
  next j found =>
    have job := State.jobFrom_job found
    have early (state : j.state.inDelivery = false) : KeepsOrder s ((s.jobReply h h.jobTag .ok 0).endJob j .userCancelled) :=
      fun order => (told .ok order).endsEarly (State.replied_job h _ _ _ job) state _
    split
    next state => exact early (by rw [state]; rfl)
    next state => exact early (by rw [state]; rfl)
    next state => exact State.cancelReleased_keepsOrder h job state
    next state => exact State.cancelPrinting_keepsOrder h job state
    next => exact told _

/-! ### The receive idle timer (R11) -/

/-- R11: the job of a receiving context ends. -/
theorem State.InOrder.abandoned {i : Nat} {x : Context} (h : s.InOrder none) (context : s.jobs.contexts[i]? = some (some x)) :
    (s.endTag x.tag .abandoned).InOrder none := by
  have mem : x.tag ∈ s.places.contexts := List.mem_filterMap.2 ⟨some x, List.mem_of_getElem? context, rfl⟩
  obtain ⟨y, hy, tag, receiving⟩ := (h.jobs.receiving x.tag).1 mem
  obtain ⟨j, job, rfl⟩ := h.mem_recs.1 hy
  rw [← tag, State.endTag_job _ job]
  exact h.endsEarly job (by rw [show j.state = _ from receiving]; rfl) _

end Sys2Proof.Machine

/-! PROOFS. Streams that end (R92, R98, R99), the clock (file 08), and writes and commands of the console (files 02, 05, 06): they
keep the jobs in order. -/

namespace Sys2Proof.Machine

set_option Elab.async false

variable {s t u : State} {o : Option Nat} {g p : Nat} {j : Job} {v : Places}

theorem KeepsOrder.next (h : KeepsOrder s t) (h' : Unmoved t u) : KeepsOrder s u := h.trans h'.keepsOrder

theorem Carries.nextKeeps (h : Carries s t) (h' : KeepsOrder t u) : KeepsOrder s u := h.keepsOrder.trans h'

/-! ### Streams that go on and end (R90, R92, R98, R99) -/

theorem Unmoved.placeStream (s : State) (p : Nat) (m : OwnMsg) : Unmoved s (s.placeStream p m) where
  tables hw := ⟨hw.classifier, hw.accounts, hw.active, hw.waiting, hw.printers, hw.callouts, hw.reorders, hw.slots⟩
  places _ := rfl

/-- R90: the head of a control list goes out. -/
theorem State.placeControl_keepsOrder (s : State) (p : Nat) : KeepsOrder s (s.placeControl p) := by
  unfold State.placeControl
  split
  · exact id
  next m rest waiting =>
    intro h
    have placed : KeepsOrder (s.placeStream p m) ((s.placeStream p m).updPrinter p fun e => { e with control := rest }) := by
      intro h
      obtain ⟨c, places, others, here⟩ :=
        (s.placeStream p m).updControl_places p (fun e => { e with control := rest }) fun _ => rfl
      refine ⟨State.updPrinter_tables h.tables p _, ?_⟩
      rw [places]
      refine h.jobs.controlled fun q a fits => ?_
      by_cases at_p : q = p
      · subst at_p
        have head : (s.placeStream q m).places.control q = m :: rest := waiting
        rw [head] at fits
        rw [here]
        exact fits.tail
      · rwa [others q at_p]
    have order := placed ((Unmoved.placeStream s p m).keepsOrder h)
    dsimp only
    split
    · exact order
    · exact (Unmoved.restartStall _ p).keepsOrder order

theorem Unmoved.placeChunk (s : State) (p : Nat) (j : Job) (d : List Byte) : Unmoved s (s.placeChunk p j d) :=
  (Unmoved.placeStream s p _).trans (Unmoved.updJob _ _ _)

/-- A job whose STREAM_BEGIN no longer waits has no stream to stop. -/
theorem Places.Sound.begunAt (h : v.Sound none) (prints : v.Prints p g) (empty : v.control p = []) : v.Sound (some g) :=
  h.stopped prints (c := v.control) (fun _ _ => rfl) (.inl empty)

/-- R92, R98: a job that prints, its STREAM_BEGIN gone, becomes Finishing. -/
theorem State.InOrder.finishing (h : s.InOrder none) (prints : s.places.Prints p g) (empty : s.places.control p = [])
    (f : Job → Job) (hf : ∀ i, (f i).placing = { i.placing with state := .finishing }) :
    (s.updJob g f).InOrder none ∧ Places.In g .finishing (s.updJob g f).places := by
  obtain ⟨mem, x, hx, tag, printing⟩ := prints
  subst tag
  let φ : Placing → Placing := fun i => { i with state := .finishing }
  have recs := s.places_updJob x.tag f φ hf
  have perm : (s.updJob x.tag f).places.recs.Perm (φ x :: s.places.others x.tag) := by
    rw [recs]
    exact Places.mapped_perm h.jobs hx φ
  have put := h.jobs.put_inPlace (w := (s.updJob x.tag f).places) (j' := φ x) hx mem rfl rfl rfl rfl perm ⟨rfl, rfl, rfl, rfl⟩
  have stopped := h.jobs.begunAt ⟨mem, x, hx, rfl, printing⟩ empty
  refine ⟨⟨State.updJob_tables h.tables _ f, stopped.moved (j' := φ x) hx rfl put rfl nofun fun _ => rfl⟩, fun i hi same => ?_⟩
  rcases List.mem_cons.1 (perm.mem_iff.1 hi) with rfl | other
  · rfl
  · exact absurd same (Places.mem_others.1 other).2

theorem State.finishStream_order (h : s.InOrder none) (prints : s.places.Prints p j.tag) (empty : s.places.control p = []) :
    (s.finishStream p j).InOrder none := by
  unfold State.finishStream
  dsimp only
  split
  · obtain ⟨order, state⟩ := h.finishing prints empty (fun x => { x with state := .finishing }) fun _ => rfl
    obtain ⟨after, stays⟩ := Carries.handFaces _ p j.declaredCounts.tm j.declaredCounts.tc order
    have here := stays j.tag fun i hi tag => by rw [state i hi tag]; nofun
    refine ((after.idle fun i hi tag => ?_).settledEnds _ (Unmoved.refl _) _).1
    rcases here.cases state i hi tag with e | e <;> rw [e] <;> nofun
  · exact (h.finishing prints empty (fun x => { x with state := .finishing, finish := .running Config.finishSeconds })
      fun _ => rfl).1

theorem State.placeEnd_keepsOrder (ending : s.endingJob p = some j) : KeepsOrder s (s.placeEnd p j) := by
  intro h
  have empty : s.places.control p = [] := by
    unfold State.endingJob at ending
    split at ending
    next none => exact List.isEmpty_iff.1 none
    next => exact nomatch ending
  have first : s.firstIn p .printing = some j := by
    unfold State.endingJob at ending
    rw [if_pos (show (s.printer p).control.isEmpty = true from List.isEmpty_iff.2 empty)] at ending
    exact (Option.filter_eq_some_iff.1 ending).1
  unfold State.placeEnd
  dsimp only
  generalize s.form (s.stationOf p) j.tag 0 (.streamEnd j.chunks) = m
  have quiet : Unmoved s ((s.placeStream p m).updPrinter p fun e => { e with stall := .stopped }) :=
    (Unmoved.placeStream s p m).trans (Unmoved.updPrinter _ p _)
  have places := quiet.places h.tables
  have prints := h.prints first
  rw [← places] at prints empty
  exact (Carries.startStream _ p).keepsOrder (State.finishStream_order (h.unmoved quiet) prints empty)

/-! ### The clock (file 08) -/

theorem Unmoved.clock (s : State) (c : Clock) : Unmoved s { s with clock := c } where
  tables hw := ⟨hw.classifier, hw.accounts, hw.active, hw.waiting, hw.printers, hw.callouts, hw.reorders, hw.slots⟩
  places _ := rfl

theorem Unmoved.checkpoint (s : State) (x : Timer) : Unmoved s { s with store := { s.store with checkpoint := x } } :=
  of_moves (Moves.one (.checkpointTimer s x))

theorem Carries.takeHour (s : State) : Carries s s.takeHour := by
  unfold State.takeHour
  split
  · exact (Unmoved.clock s _).before (Carries.hourDecay _)
  · exact .refl s

theorem Unmoved.ite {c : Prop} [Decidable c] (h : Unmoved s t) (h' : Unmoved s u) : Unmoved s (if c then t else u) := by
  split
  · exact h
  · exact h'

theorem Unmoved.midnightRolls (s : State) (d : Nat) : Unmoved s (s.midnightRolls d) := by
  unfold State.midnightRolls
  dsimp only
  split
  · exact (Unmoved.dayRoll s).trans (Unmoved.periodRoll _ _ _)
  · exact Unmoved.dayRoll s

theorem Unmoved.midnight (s : State) : Unmoved s s.midnight := by
  unfold State.midnight
  split
  · exact .refl s
  · split
    · exact Unmoved.clock s _
    · dsimp only
      split
      · exact Unmoved.clock s _
      · exact (Unmoved.clock s _).trans (Unmoved.midnightRolls _ _)

theorem Unmoved.takeMidnight (s : State) : Unmoved s s.takeMidnight := by
  unfold State.takeMidnight
  split
  · exact (Unmoved.clock _ _).trans (Unmoved.midnight _)
  · exact .refl _

theorem Carries.takeRaised (s : State) : Carries s s.takeRaised := (Carries.takeHour s).next (Unmoved.takeMidnight _)

theorem Unmoved.advanceUptime (s : State) : Unmoved s s.advanceUptime where
  tables hw := ⟨hw.classifier, hw.accounts, hw.active, hw.waiting, hw.printers, hw.callouts, hw.reorders, hw.slots⟩
  places _ := rfl

theorem Unmoved.advanceCalendar (s : State) : Unmoved s s.advanceCalendar := by
  unfold State.advanceCalendar
  split
  · exact .refl s
  · split
    · exact Unmoved.clock s _
    · exact Unmoved.clock s _

theorem Carries.minute (s : State) : Carries s s.minute := by
  unfold State.minute
  dsimp only
  have advanced := (Carries.takeRaised s).next (Unmoved.advanceUptime _)
  split
  · exact advanced.next (Unmoved.advanceCalendar _)
  · exact (advanced.trans (Carries.expireHeld _)).next (Unmoved.advanceCalendar _)

theorem Unmoved.clockRolls (s : State) (c : Option Calendar) (d : Nat) : Unmoved s (s.clockRolls c d) := by
  exact (Unmoved.ite (Unmoved.dayRoll s) (.refl s)).trans (.ite (Unmoved.periodRoll _ _ _) (.refl _))

theorem setClockRule_carries (b : Nat × Nat) (s : State) : Carries s (setClockRule b s).state := by
  unfold setClockRule
  split
  · exact .refl s
  · exact ((Carries.takeRaised s).next (Unmoved.clock _ _)).next (Unmoved.clockRolls _ _ _)

theorem Unmoved.enterStandby (s : State) : Unmoved s s.enterStandby :=
  (((Unmoved.printersAll s (fun e => { e with presence := e.presence.suspend, limit := e.limit.suspend }) rfl
      fun _ => ⟨rfl, rfl⟩).trans
    (of_moves (Moves.one (.calloutsAll _ fun c => c.map fun r => { r with timer := r.timer.suspend })))).trans
    (Unmoved.checkpoint _ .stopped)).trans (Unmoved.clock _ { s.clock with mode := .standby, idle := .stopped, midnights := 0 })

theorem Unmoved.enterSettling (s : State) : Unmoved s s.enterSettling := by
  have asked : Unmoved s (State.checkpointOccasion { s with clock := { s.clock with mode := .settling, idle := .stopped } }) :=
    (Unmoved.clock s _).trans (of_moves (State.checkpointOccasion_moves _))
  unfold State.enterSettling
  dsimp only
  split
  · exact asked.trans (Unmoved.enterStandby _)
  · exact asked

theorem standbyRule_carries (s : State) : Carries s (standbyRule s).state := by
  unfold standbyRule
  split
  · exact .refl s
  · split
    · exact (Carries.takeRaised s).next (Unmoved.enterSettling _)
    · exact .refl s

theorem Unmoved.wakeRolls (s : State) : Unmoved s s.wakeRolls := by
  unfold State.wakeRolls
  split
  · exact .refl s
  · exact (Unmoved.ite (Unmoved.dayRoll s) (.refl s)).trans (.ite (Unmoved.periodRoll _ _ _) (.refl _))

theorem Unmoved.resumeTimers (s : State) : Unmoved s s.resumeTimers :=
  (Unmoved.printersAll s PrinterOf.woken rfl fun _ => ⟨rfl, rfl⟩).trans
    (of_moves (Moves.one (.calloutsAll _ fun c => c.map fun r => { r with timer := r.timer.carryOn })))

theorem Carries.takeKept (s : State) : Carries s s.takeKept :=
  (Unmoved.clock s _).before (Carries.foldl (fun s (f : Nat × Nat) => Carries.takeFaultMessage s f.1 f.2) _ _)

theorem Carries.awaken (s : State) : Carries s s.awaken := by
  have woken : Carries s { s.takeRaised with
      clock := { s.takeRaised.clock with mode := .running }
      store := { s.takeRaised.store with checkpoint := .running s.takeRaised.settings.checkpoint } } :=
    ((Carries.takeRaised s).next (Unmoved.clock _ { s.takeRaised.clock with mode := .running })).next (Unmoved.checkpoint _ _)
  exact ((((woken.next (Unmoved.wakeRolls _)).next (Unmoved.clock _ _)).trans (Carries.expireHeld _)).next
    (Unmoved.resumeTimers _)).trans (Carries.takeKept _)

/-! ### The console's writes and commands -/

theorem Unmoved.afterAccountWrite (s : State) (k : Nat) (old new : AccountConfig) :
    Unmoved s (s.afterAccountWrite k old new) := by
  have failures := Unmoved.ite (c := new.pin ≠ old.pin)
    (Unmoved.setBalance s k { s.account k with failures := 0 } rfl rfl) (.refl s)
  exact (failures.trans (.ite (c := new.budget ≠ old.budget) (Unmoved.evalOverdrawn _ k) (.refl _))).trans (Unmoved.mark _ _)

theorem Unmoved.freeCount (s : State) (n : Nat) : Unmoved s { s with freeCount := n } where
  tables hw := ⟨hw.classifier, hw.accounts, hw.active, hw.waiting, hw.printers, hw.callouts, hw.reorders, hw.slots⟩
  places _ := rfl

theorem Unmoved.validate (s : State) (k : Nat) : Unmoved s (s.validate k) :=
  Unmoved.setBalance s k { s.account k with spent := 0, failures := 0, state := .isOpen, overdrawn := false } rfl rfl

theorem accountRule_keepsOrder (b : Nat × AccountConfig) (s : State) : KeepsOrder s (accountRule b s).state := by
  unfold accountRule
  split
  · exact id
  · split
    · exact id
    · unfold State.writeAccount
      dsimp only
      have written (n : Nat) (c : AccountConfig) (old new : AccountConfig) : KeepsOrder s
          (({ (s.setAccount b.1 { s.account b.1 with cfg := c }) with freeCount := n } : State).afterAccountWrite b.1 old new) :=
        (((Unmoved.setAccount s b.1 { s.account b.1 with cfg := c } rfl rfl).trans (Unmoved.freeCount _ n)).trans
          (Unmoved.afterAccountWrite _ b.1 old new)).keepsOrder
      split
      · exact (written _ _ _ _).next (Unmoved.validate _ b.1)
      · split
        · exact (written _ _ _ _).trans (State.invalidate_keepsOrder _ _)
        · exact written _ _ _ _

theorem onAccount_keepsOrder {act : Nat → State → Reply} {k : Nat} (ha : KeepsOrder s (act k s).state) :
    KeepsOrder s (onAccount act k s).state := by
  unfold onAccount
  split
  · exact id
  · split
    · exact id
    · exact ha

theorem adjustRule_keepsOrder (b : Nat × Int) (s : State) : KeepsOrder s (adjustRule b s).state := by
  unfold adjustRule
  refine onAccount_keepsOrder ?_
  have spent := Unmoved.setAccount s b.1 { s.account b.1 with spent := adjusted (s.account b.1).spent b.2 } rfl rfl
  exact ((spent.trans (Unmoved.evalOverdrawn _ _)).trans (Unmoved.mark _ _)).keepsOrder

theorem unlockRule_keepsOrder (k : Nat) (s : State) : KeepsOrder s (unlockRule k s).state := by
  unfold unlockRule
  exact (Unmoved.setBalance s k { s.account k with failures := 0, state := _ } rfl rfl).keepsOrder

theorem suspendRule_keepsOrder (k : Nat) (s : State) : KeepsOrder s (suspendRule k s).state := by
  unfold suspendRule
  split
  · exact (Unmoved.setBalance s k { s.account k with state := .suspended } rfl rfl).keepsOrder
  · exact id
  · exact id

theorem resumeRule_keepsOrder (k : Nat) (s : State) : KeepsOrder s (resumeRule k s).state := by
  unfold resumeRule
  split
  · exact id
  · exact (Unmoved.setBalance s k { s.account k with state := .isOpen } rfl rfl).keepsOrder
  · exact id

/-! ### The write of a printer (R84, R111, R130, R136) -/

theorem Unmoved.configure (s : State) (p : Nat) (f : PrinterFields) : Unmoved s (s.configure p f) :=
  (((Unmoved.updPrinter s p _).trans (Unmoved.mark _ _)).trans (Unmoved.mark _ _)).trans
    (Unmoved.foldl (fun s col => Unmoved.createSupply s p col (supplyStored (f.supply col))) _ _)

theorem Unmoved.unconfigure (s : State) (p : Nat) (f : PrinterFields) : Unmoved s (s.unconfigure p f) := by
  have reset : Unmoved s (((s.updPrinter p fun e => { PrinterOf.healthReset e false with
      cfg := printerConfigStored f.cfg, service := .unused }).mark (printerSlot p)).mark (healthSlot p)) :=
    ((Unmoved.updPrinter s p _).trans (Unmoved.mark _ _)).trans (Unmoved.mark _ _)
  unfold State.unconfigure
  dsimp only
  refine reset.trans ?_
  split
  · exact ((Unmoved.closeRecord _ _ _).trans (Unmoved.offerCallout _ _)).trans (Unmoved.removeSupplies _ p _ _)
  · exact Unmoved.removeSupplies _ p _ _

theorem Unmoved.changeMode (s : State) (p : Nat) (old new : ReportMode) : Unmoved s (s.changeMode p old new) := by
  unfold State.changeMode
  split
  · exact (Unmoved.updPrinter s p _).trans (Unmoved.closeTest _ p)
  · split
    · exact Unmoved.updPrinter s p _
    · exact .refl s

theorem Unmoved.writeSupply (s : State) (p : Nat) (f : SupplyFields) (b : Bool) (col : Colorant) :
    Unmoved s (s.writeSupply p f b col) := by
  unfold State.writeSupply
  split
  · exact .refl s
  · exact Unmoved.setSupply s p col _

theorem Unmoved.changeColour (s : State) (p : Nat) (old new : Bool) : Unmoved s (s.changeColour p old new) := by
  unfold State.changeColour
  split
  · exact .refl s
  · split
    · exact Unmoved.foldl (fun s col => Unmoved.createSupply s p col _) _ s
    · exact Unmoved.removeSupplies s p _ _

theorem Unmoved.reconfigure (s : State) (p : Nat) (f : PrinterFields) : Unmoved s (s.reconfigure p f) :=
  ((((Unmoved.updPrinter s p _).trans (Unmoved.mark _ _)).trans (Unmoved.changeMode _ p _ _)).trans
    (Unmoved.foldl (fun s col => Unmoved.writeSupply s p _ _ col) _ _)).trans (Unmoved.changeColour _ p _ _)

theorem Unmoved.printerRule (b : Nat × PrinterFields) (s : State) : Unmoved s (printerRule b s).state := by
  unfold Machine.printerRule
  split
  · exact .refl s
  · split
    · exact .refl s
    · unfold State.writePrinter
      split
      · exact (Unmoved.updPrinter s b.1 _).trans (Unmoved.mark _ _)
      · exact Unmoved.configure s b.1 _
      · exact Unmoved.unconfigure s b.1 _
      · exact Unmoved.reconfigure s b.1 _

end Sys2Proof.Machine

/-! PROOFS. Every command of a part that needs power keeps the jobs in order: what passes before its block acts, and the act of
its block. -/

namespace Sys2Proof.Machine

set_option Elab.async false

variable {s t u : State} {o : Option Nat} {g p : Nat} {j : Job}

/-! ### What passes before a block acts (R62, R64, R121, R158, R174, R182, R183) -/

theorem State.whenUp_keepsOrder {act : State → State} (ha : KeepsOrder s (act s)) (h : s.whenUp act = .next t) :
    KeepsOrder s t := by
  unfold State.whenUp at h
  split at h
  · obtain rfl := Host.Outcome.next.inj h
    exact ha.next (Unmoved.finish _)
  · obtain rfl := Host.Outcome.next.inj h
    exact id

theorem jobMessage_keepsOrder {α : Type} {hd : Hdr} {b : Option α} {act : α → State → State} (ha : ∀ x, KeepsOrder s (act x s))
    (h : jobMessage hd b act s = .next t) : KeepsOrder s t := by
  refine State.whenUp_keepsOrder ?_ h
  split
  · exact id
  · split
    · exact (Unmoved.jobReply s _ _ _ _).keepsOrder
    · exact ha _

theorem Unmoved.stray (s : State) : Unmoved s s.stray := of_moves (State.stray_moves s)
theorem Unmoved.wake (s : State) : Unmoved s s.wake := of_moves (State.wake_moves s)

theorem printerMessage_keepsOrder {hd : Hdr} {act : Nat → State → State} (ha : ∀ p, KeepsOrder s (act p s))
    (h : printerMessage hd act s = .next t) : KeepsOrder s t := by
  refine State.whenUp_keepsOrder ?_ h
  split
  · exact (Unmoved.stray s).keepsOrder
  · split
    · exact (Unmoved.stray s).keepsOrder
    · exact ha _

theorem deliveryMessage_keepsOrder {α : Type} {hd : Hdr} {b : Option α} {act : α → Nat → State → State}
    (ha : ∀ x p u, KeepsOrder u (act x p u)) (h : deliveryMessage hd b act s = .next t) : KeepsOrder s t := by
  refine printerMessage_keepsOrder (fun p => ?_) h
  split
  · exact id
  · split
    · exact (Carries.frameFrom s p).keepsOrder
    · exact (Carries.frameFrom s p).nextKeeps (ha _ _ _)

theorem Unmoved.answerPanel (s : State) (h : Hdr) (g : Nat) (r : Result) (x : Option Nat) (es : List AnswerEntry) :
    Unmoved s (s.answerPanel h g r x es) := of_moves (s.answerPanel_moves h g r x es)

theorem panelRequest_keepsOrder {hd : Hdr} {b : Option AskBody} {act : Option (Nat → Nat → State → PanelAnswer)}
    (ha : ∀ f, act = some f → ∀ p k u, KeepsOrder u (f p k u).state) (h : panelRequest hd b act s = .next t) :
    KeepsOrder s t := by
  refine printerMessage_keepsOrder (fun p => ?_) h
  dsimp only
  refine (Carries.frameFrom s p).nextKeeps ?_
  generalize s.frameFrom p = u
  have answered (u : State) (g : Nat) (r : Result) (x : Option Nat) (es : List AnswerEntry) :=
    (Unmoved.answerPanel u hd g r x es).keepsOrder
  split
  · split
    · exact id
    · exact answered _ _ _ _ _
  · split
    · split
      · exact (Unmoved.wake u).keepsOrder
      · exact (Unmoved.wake u).keepsOrder.trans (answered _ _ _ _ _)
    · split
      · exact id
      · split
        · exact answered _ _ _ _ _
        next ask _ _ _ f =>
          have known := (Unmoved.authenticate u ask).keepsOrder
          split
          next refused =>
            rw [refused] at known
            exact known.trans (answered _ _ _ _ _)
          next accepted =>
            rw [accepted] at known
            exact (known.trans (ha f rfl _ _ _)).trans (answered _ _ _ _ _)

theorem mgmtRequest_keepsOrder {α : Type} {hd : Hdr} {b : Option α} {act : α → State → Reply}
    (ha : ∀ x u, KeepsOrder u (act x u).state) (h : mgmtRequest hd b act s = .next t) : KeepsOrder s t := by
  refine State.whenUp_keepsOrder ?_ h
  have idle : KeepsOrder s s.restartIdle := (Unmoved.of_moves s.restartIdle_moves).keepsOrder
  have replied (u : State) (g : Nat) (r : Result) (x : ReplyBody) : KeepsOrder u (u.reply hd g r x) :=
    (Unmoved.of_moves (u.reply_moves hd g r x)).keepsOrder
  split
  · exact id
  · refine idle.trans ?_
    dsimp only
    split
    · exact replied _ _ _ _
    · split
      · exact replied _ _ _ _
      · split
        · exact (Unmoved.wake _).keepsOrder.trans (replied _ _ _ _)
        · split
          · exact replied _ _ _ _
          · exact (ha _ _).trans (replied _ _ _ _)

theorem onPrinter_keepsOrder {act : Nat → State → Reply} {p : Nat} (ha : KeepsOrder s (act p s).state) :
    KeepsOrder s (onPrinter act p s).state := by
  unfold onPrinter
  split
  · exact id
  · split
    · exact id
    · exact ha

theorem onColorant_keepsOrder {act : Nat → Colorant → Supply → State → Reply} {b : Nat × Colorant}
    (ha : ∀ r, KeepsOrder s (act b.1 b.2 r s).state) : KeepsOrder s (onColorant act b s).state := by
  unfold onColorant
  refine onPrinter_keepsOrder ?_
  split
  · exact id
  · exact ha _

/-! ### The commands on printers, callouts and orders (R85 to R87, R118, R119, R129, R141, R149) -/

theorem parkRule_keepsOrder (p : Nat) (s : State) : KeepsOrder s (parkRule p s).state := by
  unfold parkRule
  split
  · split
    · exact (Unmoved.becomeParked s p).keepsOrder
    · exact ((Unmoved.updPrinter s p _).trans (Unmoved.mark _ _)).keepsOrder
  · exact id

theorem unparkRule_keepsOrder (p : Nat) (s : State) : KeepsOrder s (unparkRule p s).state := by
  unfold unparkRule
  have back : Unmoved s ((s.updPrinter p fun e => { e with service := .inService }).mark (healthSlot p)) :=
    (Unmoved.updPrinter s p _).trans (Unmoved.mark _ _)
  split
  · exact (back.trans (.ite (.refl _) (Unmoved.startLimit _ p))).keepsOrder
  · exact back.keepsOrder
  · exact id

theorem parkNowRule_keepsOrder (p : Nat) (s : State) : KeepsOrder s (parkNowRule p s).state := by
  unfold parkNowRule
  split
  · exact id
  · dsimp only
    exact ((Carries.evacuate s p true).next (Unmoved.becomeParked _ p)).keepsOrder

theorem Unmoved.healthChange (s : State) (p : Nat) (a b : Health) : Unmoved s (s.healthChange p a b) := Unmoved.notify s _

theorem withdrawRule_keepsOrder (p : Nat) (s : State) : KeepsOrder s (withdrawRule p s).state := by
  unfold withdrawRule
  dsimp only
  split
  · exact id
  · have told : Unmoved s ((s.updPrinter p fun e => { e with health := .withdrawn }).healthChange p (s.printer p).health
        .withdrawn) :=
      (Unmoved.updPrinter s p _).trans (Unmoved.healthChange _ p _ _)
    dsimp only
    exact ((told.trans (Unmoved.mark _ (healthSlot p))).before (Carries.evacuate _ p true)).keepsOrder

theorem reinstateRule_keepsOrder (p : Nat) (s : State) : KeepsOrder s (reinstateRule p s).state := by
  unfold reinstateRule
  have reset : Unmoved s (s.updPrinter p fun e => { e with score := 0, health := .active }) := Unmoved.updPrinter s p _
  exact (((reset.trans (.ite (.refl _) (Unmoved.healthChange _ p _ _))).trans (.ite (Unmoved.mark _ _) (.refl _))).trans
    (Unmoved.closeTest _ p)).keepsOrder

theorem closeCalloutRule_keepsOrder (p : Nat) (s : State) : KeepsOrder s (closeCalloutRule p s).state := by
  unfold closeCalloutRule
  split
  · exact id
  · split
    · exact ((Unmoved.closeRecord s _ _).trans (Unmoved.offerCallout _ _)).keepsOrder
    · split
      · exact (Unmoved.setOwed s p none).keepsOrder
      · exact id

theorem cancelRule_keepsOrder (p : Nat) (col : Colorant) (r : Supply) (s : State) :
    KeepsOrder s (cancelRule p col r s).state := by
  unfold cancelRule
  split
  · exact (((Unmoved.setSupply s p col _).trans (Unmoved.closeReorder _ _ _)).trans (Unmoved.offerReorder _ _)).keepsOrder
  · split
    · exact (Unmoved.setSupply s p col _).keepsOrder
    · exact id

theorem cartridgeRule_keepsOrder (p : Nat) (col : Colorant) (r : Supply) (s : State) :
    KeepsOrder s (cartridgeRule p col r s).state :=
  (((Unmoved.setSupply s p col _).trans (Unmoved.cartridgeChange _ p col)).trans (Unmoved.reorderTest _ p col)).keepsOrder

/-- A read changes nothing. -/
theorem readRule_state (b : TableId × Nat) (s : State) : (readRule b s).state = s := by
  unfold readRule
  split
  · rfl
  · split <;> rfl

/-! ### The ports (R181 to R185) -/

/-- What leaves the tables, the records and the contexts moves no job. -/
theorem Unmoved.untouched (classifier : t.classifier = s.classifier := by rfl) (accounts : t.accounts = s.accounts := by rfl)
    (tariff : t.tariff = s.tariff := by rfl) (printers : t.printers = s.printers := by rfl)
    (callouts : t.callouts = s.callouts := by rfl) (reorders : t.reorders = s.reorders := by rfl)
    (store : t.store.slots = s.store.slots := by rfl) (recs : t.jobs.recs = s.jobs.recs := by rfl)
    (contexts : t.jobs.contexts = s.jobs.contexts := by rfl) : Unmoved s t where
  tables hw := ⟨classifier ▸ hw.classifier, accounts ▸ hw.accounts, tariff ▸ hw.active, tariff ▸ hw.waiting,
    printers ▸ hw.printers, callouts ▸ hw.callouts, reorders ▸ hw.reorders,
    by unfold Store.SlotsCanonical; rw [store]; exact hw.slots⟩
  places _ := by
    unfold State.places State.account State.printer
    rw [recs, contexts, accounts, printers]

theorem execPassThroughFrame_keepsOrder {port : Port} {f : EthFrame} (h : execPassThroughFrame port f s = .next t) :
    KeepsOrder s t := by
  refine State.whenUp_keepsOrder ?_ h
  cases port with
  | office => exact Unmoved.keepsOrder .untouched
  | fleet => exact Unmoved.keepsOrder .untouched

theorem execFptDiscard_keepsOrder {port : Port} {b : List Byte} (h : execFptDiscard port b s = .next t) : KeepsOrder s t :=
  State.whenUp_keepsOrder (Unmoved.ite (Unmoved.stray s) (.refl s)).keepsOrder h

theorem execFrameTransmit_keepsOrder {port : Port} (h : execFrameTransmit port s = .next t) : KeepsOrder s t := by
  refine State.whenUp_keepsOrder ?_ h
  cases port with
  | office => exact Unmoved.keepsOrder .untouched
  | fleet => exact Unmoved.keepsOrder .untouched

theorem execJobOutgoingPlace_keepsOrder (h : execJobOutgoingPlace s = .next t) : KeepsOrder s t := by
  refine State.whenUp_keepsOrder ?_ h
  split
  · exact id
  · exact (Unmoved.ite .untouched (.refl s)).keepsOrder

theorem execMgmtReplyPlace_keepsOrder (h : execMgmtReplyPlace s = .next t) : KeepsOrder s t := by
  refine State.whenUp_keepsOrder ?_ h
  split
  · exact id
  · exact (Unmoved.ite .untouched (.refl s)).keepsOrder

theorem execNoticeSend_keepsOrder (h : execNoticeSend s = .next t) : KeepsOrder s t := by
  refine State.whenUp_keepsOrder ?_ h
  split
  · exact id
  · exact (Unmoved.ite .untouched (.refl s)).keepsOrder

theorem execReleaseAnswerPlace_keepsOrder (h : execReleaseAnswerPlace s = .next t) : KeepsOrder s t := by
  refine State.whenUp_keepsOrder ?_ h
  split
  · exact id
  · exact (Unmoved.ite .untouched (.refl s)).keepsOrder

theorem execStreamControlPlace_keepsOrder (h : execStreamControlPlace p s = .next t) : KeepsOrder s t := by
  refine State.whenUp_keepsOrder ?_ h
  split
  · exact s.placeControl_keepsOrder p
  · exact id

theorem execStreamData_keepsOrder (h : execStreamData p s = .next t) : KeepsOrder s t := by
  have idle (h : s.whenUp id = .next t) : KeepsOrder s t := State.whenUp_keepsOrder (fun order => order) h
  unfold execStreamData at h
  split at h
  · split at h
    · exact idle h
    · split at h
      · exact nomatch h
      · exact State.whenUp_keepsOrder (Unmoved.placeChunk s p _ _).keepsOrder h
  · exact idle h

theorem execStreamEnd_keepsOrder (h : execStreamEnd p s = .next t) : KeepsOrder s t := by
  refine State.whenUp_keepsOrder ?_ h
  split
  · split
    · exact id
    next ending => exact State.placeEnd_keepsOrder ending
  · exact id

/-! ### Timers and events -/

theorem execReceiveIdleExpiry_keepsOrder {i : Nat} (h : execReceiveIdleExpiry i s = .next t) : KeepsOrder s t := by
  refine State.whenUp_keepsOrder ?_ h
  split
  next x context =>
    split
    · exact fun order => order.abandoned context
    · exact id
  · exact id

theorem execFault_keepsOrder {hd : Hdr} {k : Option Nat} (h : execFault hd k s = .next t) : KeepsOrder s t := by
  refine printerMessage_keepsOrder (fun p => ?_) h
  split
  · split
    · exact id
    · exact (Carries.frameFrom s p).keepsOrder
  · split
    · exact (Unmoved.of_moves (s.keepFault_moves p _)).keepsOrder
    · exact (Carries.takeFaultMessage s p _).keepsOrder

theorem execStallTimerExpiry_keepsOrder (h : execStallTimerExpiry p s = .next t) : KeepsOrder s t := by
  refine State.whenUp_keepsOrder ?_ h
  split
  · exact s.stallExpiry_keepsOrder p
  · exact id

theorem execFinishTimerExpiry_keepsOrder (h : execFinishTimerExpiry g s = .next t) : KeepsOrder s t := by
  refine State.whenUp_keepsOrder ?_ h
  split
  next j p job _ =>
    split
    next ready =>
      have state : j.state = .finishing := of_decide_eq_true ((Bool.and_eq_true ..).mp ready).1
      exact State.finishExpiry_keepsOrder s p ((s.tag_of_job job).symm ▸ job) state
    next => exact id
  · exact id

theorem execPresenceTimerExpiry_keepsOrder (h : execPresenceTimerExpiry p s = .next t) : KeepsOrder s t := by
  refine State.whenUp_keepsOrder ?_ h
  split
  · exact ((Unmoved.updPrinter s p _).before (Carries.setStanding _ p _)).keepsOrder
  · exact id

theorem execStandingLimitExpiry_keepsOrder (h : execStandingLimitExpiry p s = .next t) : KeepsOrder s t := by
  refine State.whenUp_keepsOrder ?_ h
  split
  · exact (((Unmoved.updPrinter s p _).before (Carries.evacuate _ p false)).next (Unmoved.raiseCallout _ p _ _)).keepsOrder
  · exact id

theorem execIdleTimerExpiry_keepsOrder (h : execIdleTimerExpiry s = .next t) : KeepsOrder s t := by
  refine State.whenUp_keepsOrder ?_ h
  split
  · exact ((Carries.takeRaised s).next (Unmoved.enterSettling _)).keepsOrder
  · exact id

theorem execStoreDrainComplete_keepsOrder (h : execStoreDrainComplete s = .next t) : KeepsOrder s t := by
  refine State.whenUp_keepsOrder ?_ h
  split
  · exact ((Carries.takeRaised s).next (.ite (Unmoved.enterStandby _) (.refl _))).keepsOrder
  · exact id

theorem execWakeCompletion_keepsOrder (h : execWakeCompletion s = .next t) : KeepsOrder s t := by
  refine State.whenUp_keepsOrder ?_ h
  split
  · exact (Carries.awaken s).keepsOrder
  · exact id

theorem execCheckpointTimerExpiry_keepsOrder (h : execCheckpointTimerExpiry s = .next t) : KeepsOrder s t := by
  refine State.whenUp_keepsOrder ?_ h
  split
  · exact ((Unmoved.of_moves s.checkpointOccasion_moves).trans (Unmoved.checkpoint _ _)).keepsOrder
  · exact id

theorem execProgramOperationComplete_keepsOrder (h : execProgramOperationComplete s = .next t) : KeepsOrder s t := by
  refine State.whenUp_keepsOrder ?_ h
  split
  · exact id
  next n img _ =>
    have slots : Unmoved s { s with store := { s.store with slots := (s.store.setSlot n (some img)).slots } } :=
      .of_moves (Moves.one (.slots s _ fun h => h.setSlot n (some img)))
    exact (slots.trans .untouched).keepsOrder

end Sys2Proof.Machine

/-! PROOFS. Every command but those of restart and power keeps the jobs in order: the commands by kind. -/

namespace Sys2Proof.Machine

set_option Elab.async false

variable {s t u : State} {o : Option Nat} {g p : Nat} {j : Job}

/-! ### The commands of the console that move no job -/

theorem settingsRule_keepsOrder (b : Nat × Settings) (s : State) : KeepsOrder s (settingsRule b s).state :=
  (Unmoved.of_moves (settingsRule_moves s b)).keepsOrder

theorem classifierRule_keepsOrder (b : Nat × ClassEntry) (s : State) : KeepsOrder s (classifierRule b s).state :=
  (Unmoved.of_moves (classifierRule_moves s b)).keepsOrder

theorem tariffRule_keepsOrder (b : Nat × Row) (s : State) : KeepsOrder s (tariffRule b s).state :=
  (Unmoved.of_moves (tariffRule_moves s b)).keepsOrder

theorem queryRule_keepsOrder (b : Bool) (s : State) : KeepsOrder s (queryRule b s).state :=
  (Unmoved.of_moves (queryRule_moves s b)).keepsOrder

theorem ackRule_keepsOrder (p : Nat) (s : State) : KeepsOrder s (ackRule p s).state :=
  (Unmoved.of_moves (ackRule_moves s p)).keepsOrder

theorem checkpointRule_keepsOrder (s : State) : KeepsOrder s (checkpointRule s).state :=
  (Unmoved.of_moves (checkpointRule_moves s)).keepsOrder

theorem restartRule_keepsOrder (s : State) : KeepsOrder s (restartRule s).state :=
  (Unmoved.of_moves (restartRule_moves s)).keepsOrder

theorem confirmRule_keepsOrder (p : Nat) (col : Colorant) (r : Supply) (s : State) :
    KeepsOrder s (confirmRule p col r s).state :=
  (Unmoved.of_moves (confirmRule_moves s p col r)).keepsOrder

theorem rollRule_keepsOrder (b : Bool) (s : State) : KeepsOrder s (rollRule b s).state := (Unmoved.periodRoll s _ b).keepsOrder

theorem exec_keepsOrder {c : Instr} (hc : Instr.isVital c = false) (h : exec c s = .next t) : KeepsOrder s t := by
  cases c
  case restartComplete => exact nomatch hc
  case powerLoss => exact nomatch hc
  case coldStart => exact nomatch hc
  case startUpComplete => exact nomatch hc
  case jobOpen hd _ => exact jobMessage_keepsOrder (fun x => openJob_keepsOrder hd x s) h
  case jobData hd _ => exact jobMessage_keepsOrder (fun x => (Unmoved.takeData hd x s).keepsOrder) h
  case jobClose hd _ => exact jobMessage_keepsOrder (fun x => closeJob_keepsOrder hd x s) h
  case jobCancel hd _ => exact jobMessage_keepsOrder (fun _ => cancelJob_keepsOrder hd s) h
  case receiveIdleExpiry => exact execReceiveIdleExpiry_keepsOrder h
  case list => exact panelRequest_keepsOrder (fun _ e _ _ _ => Option.some.inj e ▸ id) h
  case releaseAll =>
    exact panelRequest_keepsOrder (fun _ e p k u => Option.some.inj e ▸ releaseAllRule_keepsOrder p k u) h
  case releaseOne hd _ =>
    exact panelRequest_keepsOrder (fun _ e p k u => Option.some.inj e ▸ releaseOneRule_keepsOrder hd.jobTag p k u) h
  case deleteOne hd _ =>
    exact panelRequest_keepsOrder (fun _ e _ k u => Option.some.inj e ▸ deleteOneRule_keepsOrder hd.jobTag k u) h
  case unknownReleaseRequest => exact panelRequest_keepsOrder (act := none) (fun _ e => absurd e (Option.some_ne_none _).symm) h
  case grant hd _ => exact deliveryMessage_keepsOrder (fun n p u => (grantRule_carries hd n p u).keepsOrder) h
  case pageReport hd _ => exact deliveryMessage_keepsOrder (fun r p u => pageReportRule_keepsOrder hd r p u) h
  case status => exact deliveryMessage_keepsOrder (fun r p u => (statusRule_carries r p u).keepsOrder) h
  case fault => exact execFault_keepsOrder h
  case stallTimerExpiry => exact execStallTimerExpiry_keepsOrder h
  case finishTimerExpiry => exact execFinishTimerExpiry_keepsOrder h
  case presenceTimerExpiry => exact execPresenceTimerExpiry_keepsOrder h
  case standingLimitExpiry => exact execStandingLimitExpiry_keepsOrder h
  case renotifyTimerExpiry i =>
    exact State.whenUp_keepsOrder (act := fun s => s.renotifyCallout i) (Unmoved.renotifyCallout s i).keepsOrder h
  case minuteEvent => exact State.whenUp_keepsOrder (act := State.minute) (Carries.minute s).keepsOrder h
  case hourEvent => exact State.whenUp_keepsOrder (act := State.takeHour) (Carries.takeHour s).keepsOrder h
  case calendarMidnight => exact State.whenUp_keepsOrder (act := State.takeMidnight) (Unmoved.takeMidnight s).keepsOrder h
  case idleTimerExpiry => exact execIdleTimerExpiry_keepsOrder h
  case storeDrainComplete => exact execStoreDrainComplete_keepsOrder h
  case wakeCompletion => exact execWakeCompletion_keepsOrder h
  case checkpointTimerExpiry => exact execCheckpointTimerExpiry_keepsOrder h
  case programOperationComplete => exact execProgramOperationComplete_keepsOrder h
  case passThroughFrame => exact execPassThroughFrame_keepsOrder h
  case fptDiscard => exact execFptDiscard_keepsOrder h
  case frameTransmit => exact execFrameTransmit_keepsOrder h
  case jobOutgoingPlace => exact execJobOutgoingPlace_keepsOrder h
  case mgmtReplyPlace => exact execMgmtReplyPlace_keepsOrder h
  case noticeSend => exact execNoticeSend_keepsOrder h
  case releaseAnswerPlace => exact execReleaseAnswerPlace_keepsOrder h
  case streamControlPlace => exact execStreamControlPlace_keepsOrder h
  case streamData => exact execStreamData_keepsOrder h
  case streamEnd => exact execStreamEnd_keepsOrder h
  case tableRead => exact mgmtRequest_keepsOrder (act := readRule) (fun x u => (readRule_state x u).symm ▸ id) h
  case settingsWrite => exact mgmtRequest_keepsOrder settingsRule_keepsOrder h
  case classifierWrite => exact mgmtRequest_keepsOrder classifierRule_keepsOrder h
  case tariffWrite => exact mgmtRequest_keepsOrder tariffRule_keepsOrder h
  case accountWrite => exact mgmtRequest_keepsOrder accountRule_keepsOrder h
  case printerWrite => exact mgmtRequest_keepsOrder (fun x u => (Unmoved.printerRule x u).keepsOrder) h
  case tableWrite => exact mgmtRequest_keepsOrder (act := closedRule) (fun _ _ => id) h
  case query => exact mgmtRequest_keepsOrder queryRule_keepsOrder h
  case rollPeriod => exact mgmtRequest_keepsOrder (act := fun _ => rollRule true) (fun _ => rollRule_keepsOrder true) h
  case forceRoll => exact mgmtRequest_keepsOrder (act := fun _ => rollRule false) (fun _ => rollRule_keepsOrder false) h
  case setClock => exact mgmtRequest_keepsOrder (fun x u => (setClockRule_carries x u).keepsOrder) h
  case standby =>
    exact mgmtRequest_keepsOrder (act := fun _ => standbyRule) (fun _ u => (standbyRule_carries u).keepsOrder) h
  case restart => exact mgmtRequest_keepsOrder (act := fun _ => restartRule) (fun _ => restartRule_keepsOrder) h
  case checkpoint => exact mgmtRequest_keepsOrder (act := fun _ => checkpointRule) (fun _ => checkpointRule_keepsOrder) h
  case park => exact mgmtRequest_keepsOrder (fun p u => onPrinter_keepsOrder (parkRule_keepsOrder p u)) h
  case unpark => exact mgmtRequest_keepsOrder (fun p u => onPrinter_keepsOrder (unparkRule_keepsOrder p u)) h
  case parkNow => exact mgmtRequest_keepsOrder (fun p u => onPrinter_keepsOrder (parkNowRule_keepsOrder p u)) h
  case withdraw => exact mgmtRequest_keepsOrder (fun p u => onPrinter_keepsOrder (withdrawRule_keepsOrder p u)) h
  case reinstate => exact mgmtRequest_keepsOrder (fun p u => onPrinter_keepsOrder (reinstateRule_keepsOrder p u)) h
  case ackCallout => exact mgmtRequest_keepsOrder ackRule_keepsOrder h
  case closeCallout => exact mgmtRequest_keepsOrder closeCalloutRule_keepsOrder h
  case confirmOrder =>
    exact mgmtRequest_keepsOrder (fun b u => onColorant_keepsOrder fun r => confirmRule_keepsOrder b.1 b.2 r u) h
  case cancelOrder =>
    exact mgmtRequest_keepsOrder (fun b u => onColorant_keepsOrder fun r => cancelRule_keepsOrder b.1 b.2 r u) h
  case cartridgeReplaced =>
    exact mgmtRequest_keepsOrder (fun b u => onColorant_keepsOrder fun r => cartridgeRule_keepsOrder b.1 b.2 r u) h
  case adjustAccount => exact mgmtRequest_keepsOrder adjustRule_keepsOrder h
  case unlockAccount => exact mgmtRequest_keepsOrder (fun k u => onAccount_keepsOrder (unlockRule_keepsOrder k u)) h
  case suspend => exact mgmtRequest_keepsOrder (fun k u => onAccount_keepsOrder (suspendRule_keepsOrder k u)) h
  case resume => exact mgmtRequest_keepsOrder (fun k u => onAccount_keepsOrder (resumeRule_keepsOrder k u)) h
  case purgeJob => exact mgmtRequest_keepsOrder purgeRule_keepsOrder h
  case unknownMgmtRequest =>
    exact mgmtRequest_keepsOrder (act := fun _ s => Reply.refuse s .unknownRequest) (fun _ _ => id) h

end Sys2Proof.Machine

/-! PROOFS. Restart and power leave no job (R173, R167, R169), the start of the part moves none (R171), and every step keeps the
jobs in order. -/

namespace Sys2Proof.Machine

set_option Elab.async false

variable {s t u : State}

/-! ### Jobs placed, and jobs in order -/

theorem State.JobsPlaced.inOrder (h : s.JobsPlaced) (once : s.TagsOnce) (tables : s.TablesCanonical) : s.InOrder none :=
  ⟨tables, ((State.jobsPlaced_iff once).1 h).1⟩

theorem State.InOrder.jobsPlaced (h : s.InOrder none) (up : s.phase = .up) : s.JobsPlaced :=
  (State.jobsPlaced_iff h.once).2 ⟨h.jobs, fun down => absurd up down⟩

theorem State.tagsOnce_of_nil (h : s.jobs.recs = []) : s.TagsOnce := by
  unfold State.TagsOnce
  rw [h]
  exact List.nodup_nil

/-! ### The completion of a warm restart (R173) -/

theorem State.discardWork_order (hw : s.TablesCanonical) : s.discardWork.InOrder none := by
  have tables : s.discardWork.TablesCanonical :=
    ⟨hw.classifier, Tbl.wf_mapAll _ hw.accounts, hw.active, hw.waiting, Tbl.wf_mapAll _ hw.printers, hw.callouts, hw.reorders,
      hw.slots⟩
  refine (State.jobsPlaced_empty rfl (fun k => ?_) (fun p => ?_) rfl).inOrder (State.tagsOnce_of_nil rfl) tables
  · have account : s.discardWork.account k = (s.account k).restarted :=
      Tbl.get_mapAll (f := Account.restarted) rfl (Tbl.nodup_of_wf hw.accounts) k
    rw [account]
    exact ⟨rfl, rfl⟩
  · have printer : s.discardWork.printer p = PrinterOf.restarted (s.printer p) :=
      Tbl.get_mapAll (f := PrinterOf.restarted) rfl (Tbl.nodup_of_wf hw.printers) p
    rw [printer]
    exact ⟨rfl, rfl⟩

theorem execRestartComplete_keepsOrder (h : execRestartComplete s = .next t) : KeepsOrder s t := by
  refine State.whenUp_keepsOrder ?_ h
  split
  · exact fun order => (State.discardWork_order order.tables).unmoved ((Unmoved.notify _ _).trans (Unmoved.markAll _ _))
  · exact id

/-! ### Power (R167, R169) -/

theorem State.unpowered_placed (s : State) : s.unpowered.JobsPlaced :=
  State.jobsPlaced_empty rfl (fun _ => ⟨rfl, rfl⟩) (fun _ => ⟨rfl, rfl⟩) rfl

/-- An account that holds no job and has no points reserved. -/
def Account.Clear (a : Account) : Prop := a.held = [] ∧ a.reserved = 0

/-- A printer with no job in its queue and no message in its control list. -/
def PrinterOf.Clear (e : Printer) : Prop := e.queue = [] ∧ e.control = []

theorem Store.account_clear (st : Store) (k : Nat) : (st.account k).Clear := by
  unfold Store.account
  split
  · exact ⟨rfl, rfl⟩
  · dsimp only
    split <;> exact ⟨rfl, rfl⟩

theorem Store.printer_clear (st : Store) (p : Nat) : PrinterOf.Clear (st.printer p) := by
  unfold Store.printer
  split
  · split <;> exact ⟨rfl, rfl⟩
  · exact ⟨rfl, rfl⟩

theorem resolvePrinter_clear {l : Tbl Printer} {p : Nat} {e : Printer} (h : PrinterOf.Clear e) :
    PrinterOf.Clear (resolvePrinter l p e) := by
  unfold resolvePrinter
  split
  · exact ⟨rfl, rfl⟩
  · exact h

/-- R169: the reading of the slots leaves no job. -/
theorem State.restored_placed (s : State) (c : ResetCause) : (s.restored c).JobsPlaced := by
  refine State.jobsPlaced_empty rfl (fun k => ?_) (fun p => ?_) rfl
  · exact Tbl.get_of_forall (P := Account.Clear) ⟨rfl, rfl⟩ (Tbl.forall_mapIdx (P := Account.Clear) fun e he =>
      Tbl.forall_build (P := Account.Clear) _ s.store.account_clear _ e he) k
  · exact Tbl.get_of_forall (P := PrinterOf.Clear) ⟨rfl, rfl⟩ (Tbl.forall_mapIdx (P := PrinterOf.Clear) fun e he =>
      resolvePrinter_clear (Tbl.forall_build (P := PrinterOf.Clear) _ s.store.printer_clear _ e he)) p

/-- R171: the start of the part moves no job. -/
theorem Unmoved.startUp (s : State) : Unmoved s s.startUp := by
  have powered : Unmoved s s.powered := .untouched
  have orphans : Unmoved s.powered s.closeOrphans.powered := .of_moves s.powered.closeOrphans_moves
  have started (e : Printer) : e.started.queue = e.queue ∧ e.started.control = e.control := by
    unfold PrinterOf.started
    split <;> exact ⟨rfl, rfl⟩
  let r := s.closeOrphans.powered
  have printers : Unmoved r { r with printers := r.printers.mapAll printerFactory PrinterOf.started } :=
    Unmoved.printersAll r PrinterOf.started rfl started
  have callouts := printers.trans (Unmoved.of_moves (Moves.one
    (.calloutsAll _ fun c => c.map (Callout.started r.settings.renotify))))
  have blocks : Unmoved r s.closeOrphans.startBlocks := callouts.trans .untouched
  exact (((powered.trans orphans).trans blocks).trans (.of_moves (State.fillQueue_moves _))).trans (Unmoved.notify _ _)

/-! ### Every step -/

theorem execRestartComplete_phase (h : execRestartComplete s = .next t) : t.phase = s.phase := by
  unfold execRestartComplete State.whenUp at h
  split at h
  · obtain rfl := Host.Outcome.next.inj h
    rw [State.finish_phase]
    dsimp only
    split
    · exact s.completeRestart_moves.phase_pending.1
    · rfl
  · obtain rfl := Host.Outcome.next.inj h
    rfl

/-- A command that is none of power keeps the phase, and the jobs in order. -/
theorem exec_ordinary {c : Instr} (hc : Instr.isPower c = false) (h : exec c s = .next t) :
    t.phase = s.phase ∧ KeepsOrder s t := by
  by_cases vital : Instr.isVital c = false
  · exact ⟨(exec_moves vital h).phase_pending.1, exec_keepsOrder vital h⟩
  · cases c
    case restartComplete => exact ⟨execRestartComplete_phase h, execRestartComplete_keepsOrder h⟩
    case powerLoss => exact nomatch hc
    case coldStart => exact nomatch hc
    case startUpComplete => exact nomatch hc
    all_goals exact absurd rfl vital

/-- R169: a part that is not up does nothing, but for the commands of power. -/
theorem exec_down {c : Instr} (hc : Instr.isPower c = false) (down : s.phase ≠ .up) (h : exec c s = .next t) : t = s := by
  rcases exec_whenUp hc s with ⟨act, e⟩ | ⟨_, _, -, up, -⟩
  · rw [e, State.whenUp_down act down] at h
    exact (Host.Outcome.next.inj h).symm
  · exact absurd up down

theorem exec_keepsJobs {c : Instr} (once : s.TagsOnce) (tables : s.TablesCanonical) (placed : s.JobsPlaced)
    (h : exec c s = .next t) : t.JobsPlaced := by
  have order := placed.inOrder once tables
  by_cases hc : Instr.isPower c = false
  · by_cases up : s.phase = .up
    · obtain ⟨phase, keeps⟩ := exec_ordinary hc h
      exact (keeps order).jobsPlaced (phase.trans up)
    · rw [exec_down hc up h]
      exact placed
  · cases c
    case powerLoss =>
      cases h
      split
      · exact placed
      · exact s.unpowered_placed
    case coldStart => cases h; exact State.restored_placed _ _
    case startUpComplete =>
      cases h
      split
      · refine (order.unmoved ((Unmoved.startUp s).trans (Unmoved.finish _))).jobsPlaced ?_
        rw [State.finish_phase]
        exact s.startUp_moves.phase_pending.1
      · exact placed
    all_goals exact absurd rfl hc

/-- Settles O60: every command, each act of a block taken by the collections that hold its job. -/
theorem jobsStayInTheirCollections : Obligations.JobsStayInTheirCollections := by
  intro s t tags tables placed h
  unfold step at h
  split at h
  · obtain rfl := Host.Outcome.next.inj h
    exact placed
  next c rest _ =>
    have order := placed.inOrder tags.once tables
    have waiting : (s.withPending rest).JobsPlaced := (State.jobsPlaced_iff (s := s.withPending rest) tags.once).2
      ⟨order.jobs, placed.powered⟩
    exact exec_keepsJobs (s := s.withPending rest) tags.once ((Unmoved.tables .untouched) tables) waiting h

end Sys2Proof.Machine
